-- ==== Sys2Proof/Word.lean ====
section
/-! DEFINITION. The word types of the Umabry 4800 (00_scope R2, R3) and the sparse map that holds every array of
the state. -/

namespace Sys2Proof

/-- A doubleword: a scalar register, a system register, a virtual address. -/
abbrev Word := BitVec 64

/-- A byte of memory. -/
abbrev Byte := BitVec 8

/-- A vector register: VL = 256 bytes (16_vector R329). -/
abbrev VReg := BitVec 2048

/-- A predicate register: one bit for each byte of a vector register (16_vector R329). -/
abbrev PReg := BitVec 256

/-- A tensor identifier entry: 64 bytes (18_tile R357). -/
abbrev Ident := BitVec 512

/-- A sparse array: pairs of an index and an element, indices strictly rising; an index that is not listed holds
the array's reset element. -/
abbrev SMap (α : Type) := List (Nat × α)

end Sys2Proof
end

