-- ==== Sys2Proof/Config.lean ====
section
/-! DEFINITION. What one module fixes (the keystone's placements, the fuses) and the free values: constants with no
body, which nothing can evaluate, for what the manual leaves open. -/

namespace Sys2Proof.Config

/-- The harvest map as fused: which of the 64 cores of `HARV.MAP`[i] are live (R12). DESIGN CHOICE (log 2): every
core is live. -/
def harvMap (_i : Nat) : Word := BitVec.allOnes 64

/-- Where the keystone placed the frame record's copy in service (R79). DESIGN CHOICE (log 4). -/
def frecBase : Nat := 0x0078_0000_0000

/-- Where the keystone placed the second copy of the record: 4 GiB on, so that the two copies of every granule lie on
different stacks under R177 (R186). DESIGN CHOICE (log 4). -/
def frecCopy : Nat := 0x0079_0000_0000

/-- Where the keystone placed the logical position table (R13). DESIGN CHOICE (log 4). -/
def lptBase : Nat := 0x0078_1000_0000

/-- Where the keystone placed the race table (R204). DESIGN CHOICE (log 4). -/
def raceBase : Nat := 0x007A_0000_0000

/-- log2 of the race table's entry count: 28 unless the module is configured otherwise (R205). -/
def raceLog : Nat := 28

/-- The bits of a free value of any width, numbered by the state's counter (log 6). -/
opaque freeNat : Nat → Nat

/-- The result of a special function within the bound of R353: the model picks the candidate that this free number
selects (log 6). -/
opaque freeSfn : Nat → Nat → Nat

/-- Which of two codes of a block format a tie goes to where bit 0 of both is clear or of both is set (R376), by type and
element (log 6). -/
opaque freeTie : Nat → Nat → Bool

/-- The 64-bit CRC of a flit's other bits (R39): the manual names no polynomial (log 6). -/
opaque crc64 : Nat → Nat

/-- The keystone's RSA-3072 signature of a message, under an identity key that never leaves it (R35; log 6). -/
opaque signature : List Nat → Nat

/-- A byte of the device identity certificate chain (R35; log 6). -/
opaque certByte : Nat → Nat

end Sys2Proof.Config
end

