-- ==== Sys2Proof/Syntax.lean ====
section
/-! DEFINITION. The instructions and steps of the Umabry 4800: one constructor for each row of the opcode table.

The rows with an encoding (10_encoding R246 to R253 and the instruction chapters) carry the raw values of
their encoding fields, named by a letter: `d` the bits 11:7 (rd, vd or pd), `a` the bits 16:12 or the base
register of a branch, `b` the bits 21:17, `la` the lookahead of R148, `imm` and `off` the immediate and offset
before sign extension, `s` a size, `t` the lane type, `z` merge or zero, `p` the governing predicate, `c` a
condition, a scope or a channel as the owning chapter lays the field out, `o` the order suffix or the operation.
In format T `a` is tidA, `e` is tidB and `t` the accumulator.
The rows without an encoding are steps of engines, of register writes and of the outside world
(95_what_each_step_holds); what such a step needs to know (a register number, a value written, a core) stands in
the state as the step's parameters, listed in brackets beside its constructor. The rows with fields come first,
which keeps the compiled constructor tags small. -/

namespace Sys2Proof

/-- One step of the part: an instruction of a thread, or a step of an engine or of the outside world. -/
inductive Instr where
  /-- R279 ADD. Adds two registers. -/
  | add (d : Nat) (a : Nat) (b : Nat)
  /-- R279 SUB. Subtracts two registers. -/
  | sub (d : Nat) (a : Nat) (b : Nat)
  /-- R279 MUL. Low 64 bits of the product. -/
  | mul (d : Nat) (a : Nat) (b : Nat)
  /-- R279 MULH. High 64 bits of the signed product. -/
  | mulh (d : Nat) (a : Nat) (b : Nat)
  /-- R279 MULHU. High 64 bits of the unsigned product. -/
  | mulhu (d : Nat) (a : Nat) (b : Nat)
  /-- R280 DIV. Signed division, never trapping. -/
  | div (d : Nat) (a : Nat) (b : Nat)
  /-- R280 DIVU. Unsigned division, never trapping. -/
  | divu (d : Nat) (a : Nat) (b : Nat)
  /-- R280 REM. Signed remainder. -/
  | rem (d : Nat) (a : Nat) (b : Nat)
  /-- R280 REMU. Unsigned remainder. -/
  | remu (d : Nat) (a : Nat) (b : Nat)
  /-- R279 AND. Bitwise and. -/
  | and (d : Nat) (a : Nat) (b : Nat)
  /-- R279 OR. Bitwise or. -/
  | or (d : Nat) (a : Nat) (b : Nat)
  /-- R279 XOR. Bitwise exclusive or. -/
  | xor (d : Nat) (a : Nat) (b : Nat)
  /-- R279 ANDN. x AND NOT y. -/
  | andn (d : Nat) (a : Nat) (b : Nat)
  /-- R279 SHL. Left shift by y[5:0]. -/
  | shl (d : Nat) (a : Nat) (b : Nat)
  /-- R279 SHR. Logical right shift. -/
  | shr (d : Nat) (a : Nat) (b : Nat)
  /-- R279 SAR. Arithmetic right shift. -/
  | sar (d : Nat) (a : Nat) (b : Nat)
  /-- R279 ROL. Rotate left. -/
  | rol (d : Nat) (a : Nat) (b : Nat)
  /-- R279 CLZ. Count leading zeros. -/
  | clz (d : Nat) (a : Nat)
  /-- R279 CTZ. Count trailing zeros. -/
  | ctz (d : Nat) (a : Nat)
  /-- R279 POPC. Population count. -/
  | popc (d : Nat) (a : Nat)
  /-- R279 MIN. Signed minimum. -/
  | min (d : Nat) (a : Nat) (b : Nat)
  /-- R279 MAX. Signed maximum. -/
  | max (d : Nat) (a : Nat) (b : Nat)
  /-- R279 MINU. Unsigned minimum. -/
  | minu (d : Nat) (a : Nat) (b : Nat)
  /-- R279 MAXU. Unsigned maximum. -/
  | maxu (d : Nat) (a : Nat) (b : Nat)
  /-- R279 SLT. Signed set-less-than. -/
  | slt (d : Nat) (a : Nat) (b : Nat)
  /-- R279 SLTU. Unsigned set-less-than. -/
  | sltu (d : Nat) (a : Nat) (b : Nat)
  /-- R279 SEQ. Set if equal. -/
  | seq (d : Nat) (a : Nat) (b : Nat)
  /-- R281 ADDI. Adds a sign-extended immediate. -/
  | addi (d : Nat) (a : Nat) (imm : Nat)
  /-- R281 ANDI. And with a zero-extended immediate. -/
  | andi (d : Nat) (a : Nat) (imm : Nat)
  /-- R281 ORI. Or with a zero-extended immediate; NOP is ORI g0, g0, 0. -/
  | ori (d : Nat) (a : Nat) (imm : Nat)
  /-- R281 XORI. Exclusive or with a zero-extended immediate. -/
  | xori (d : Nat) (a : Nat) (imm : Nat)
  /-- R281 SLTI. Signed compare with an immediate. -/
  | slti (d : Nat) (a : Nat) (imm : Nat)
  /-- R282 SHLI. Left shift by an immediate. -/
  | shli (d : Nat) (a : Nat) (n : Nat)
  /-- R282 SHRI. Logical right shift by an immediate. -/
  | shri (d : Nat) (a : Nat) (n : Nat)
  /-- R282 SARI. Arithmetic right shift by an immediate. -/
  | sari (d : Nat) (a : Nat) (n : Nat)
  /-- R282 ROLI. Rotate left by an immediate. -/
  | roli (d : Nat) (a : Nat) (n : Nat)
  /-- R283 IMMH. Shifts rd left by 20 and merges a 20-bit immediate. -/
  | immh (d : Nat) (imm : Nat)
  /-- R285 LEA. Adds a scaled index to a base. -/
  | lea (d : Nat) (a : Nat) (b : Nat) (s : Nat)
  /-- R286 BFX. Extracts a bitfield, zero-extended. -/
  | bfx (d : Nat) (a : Nat) (b : Nat)
  /-- R286 BFX_SX. Extracts a bitfield, sign-extended. -/
  | bfxSx (d : Nat) (a : Nat) (b : Nat)
  /-- R286 BFI. Inserts a bitfield into rd. -/
  | bfi (d : Nat) (a : Nat) (b : Nat)
  /-- R287 CLMUL. Low half of a carry-less product. -/
  | clmul (d : Nat) (a : Nat) (b : Nat)
  /-- R287 CLMULH. High half of a carry-less product. -/
  | clmulh (d : Nat) (a : Nat) (b : Nat)
  /-- R290 BCC. Compares two registers and branches if the condition holds. -/
  | bcc (a : Nat) (b : Nat) (cond : Nat) (off : Nat)
  /-- R290 BZ. Compares a register with zero and branches. -/
  | bz (a : Nat) (cond : Nat) (off : Nat)
  /-- R290 J. Unconditional jump. -/
  | j (off : Nat)
  /-- R293 CALL. Slides the window up by k, writes the link word and transfers. -/
  | call (k : Nat) (off : Nat)
  /-- R298 PAD. Landing pad that changes no state. -/
  | pad (lab : Nat)
  /-- R299 JTAB. Bounded indirect jump through a table to a PAD with the right label. -/
  | jtab (d : Nat) (a : Nat) (b : Nat)
  /-- R299 CALLT. Bounded indirect call through a table with a window slide. -/
  | callt (d : Nat) (a : Nat) (b : Nat) (k : Nat)
  /-- R294 RET. Slides the window back by the link word's k and returns. -/
  | ret
  /-- R291 LOOP. Decrements a counter and branches while it is nonzero. -/
  | loop (a : Nat) (imm : Nat)
  /-- R302 REP. Repeats the next instruction n times with stepped fields. -/
  | rep (nm1 : Nat) (mask : Nat)
  /-- R296 SPILLW. Spills 16 register-stack entries to the backing stack. -/
  | spillw
  /-- R296 FILLW. Fills 16 register-stack entries from the backing stack. -/
  | fillw
  /-- R306 LD. Plain sign-extending load, long-latency. -/
  | ld (d : Nat) (base : Nat) (s : Nat) (off : Nat) (la : Nat)
  /-- R306 LDU. Plain zero-extending load, long-latency. -/
  | ldu (d : Nat) (base : Nat) (s : Nat) (off : Nat) (la : Nat)
  /-- R306 ST. Plain store. -/
  | st (d : Nat) (base : Nat) (s : Nat) (off : Nat)
  /-- R307 LDX. Strong relaxed load. -/
  | ldx (d : Nat) (a : Nat) (s : Nat) (la : Nat)
  /-- R307 STX. Strong relaxed store. -/
  | stx (d : Nat) (a : Nat) (s : Nat)
  /-- R307 LDACQ. Acquire load of a scope. -/
  | ldacq (d : Nat) (a : Nat) (sc : Nat) (s : Nat) (la : Nat)
  /-- R307 STREL. Release store of a scope. -/
  | strel (d : Nat) (a : Nat) (sc : Nat) (s : Nat)
  /-- R308 LDF. Waits until the words are full and loads them, leaving them full. -/
  | ldf (d : Nat) (a : Nat) (sc : Nat) (s : Nat) (la : Nat)
  /-- R308 LDF_E. Waits until the words are full, loads them and empties them. -/
  | ldfE (d : Nat) (a : Nat) (sc : Nat) (s : Nat) (la : Nat)
  /-- R308 STF. Stores, sets the full bits and serves waiters. -/
  | stf (d : Nat) (a : Nat) (sc : Nat) (s : Nat)
  /-- R312 AMOADD. Atomic add with return. -/
  | amoadd (d : Nat) (a : Nat) (sc : Nat) (ord : Nat) (s : Nat) (la : Nat)
  /-- R312 AMOAND. Atomic and with return. -/
  | amoand (d : Nat) (a : Nat) (sc : Nat) (ord : Nat) (s : Nat) (la : Nat)
  /-- R312 AMOOR. Atomic or with return. -/
  | amoor (d : Nat) (a : Nat) (sc : Nat) (ord : Nat) (s : Nat) (la : Nat)
  /-- R312 AMOXOR. Atomic exclusive or with return. -/
  | amoxor (d : Nat) (a : Nat) (sc : Nat) (ord : Nat) (s : Nat) (la : Nat)
  /-- R312 AMOMIN. Atomic signed minimum with return. -/
  | amomin (d : Nat) (a : Nat) (sc : Nat) (ord : Nat) (s : Nat) (la : Nat)
  /-- R312 AMOMAX. Atomic signed maximum with return. -/
  | amomax (d : Nat) (a : Nat) (sc : Nat) (ord : Nat) (s : Nat) (la : Nat)
  /-- R312 AMOMINU. Atomic unsigned minimum with return. -/
  | amominu (d : Nat) (a : Nat) (sc : Nat) (ord : Nat) (s : Nat) (la : Nat)
  /-- R312 AMOMAXU. Atomic unsigned maximum with return. -/
  | amomaxu (d : Nat) (a : Nat) (sc : Nat) (ord : Nat) (s : Nat) (la : Nat)
  /-- R312 AMOSWAP. Atomic swap with return. -/
  | amoswap (d : Nat) (a : Nat) (sc : Nat) (ord : Nat) (s : Nat) (la : Nat)
  /-- R312 AMOCAS. Atomic compare-and-swap with the new value in rd + 1. -/
  | amocas (d : Nat) (a : Nat) (sc : Nat) (ord : Nat) (s : Nat) (la : Nat)
  /-- R312 AMOFADD. Atomic FP32 or BF16 add with return. -/
  | amofadd (d : Nat) (a : Nat) (sc : Nat) (ord : Nat) (s : Nat) (la : Nat)
  /-- R312 AMOADD_NR. Add reduction without return. -/
  | amoaddNr (d : Nat) (a : Nat) (sc : Nat) (ord : Nat) (s : Nat)
  /-- R312 AMOAND_NR. And reduction. -/
  | amoandNr (d : Nat) (a : Nat) (sc : Nat) (ord : Nat) (s : Nat)
  /-- R312 AMOOR_NR. Or reduction. -/
  | amoorNr (d : Nat) (a : Nat) (sc : Nat) (ord : Nat) (s : Nat)
  /-- R312 AMOXOR_NR. Exclusive-or reduction. -/
  | amoxorNr (d : Nat) (a : Nat) (sc : Nat) (ord : Nat) (s : Nat)
  /-- R312 AMOMIN_NR. Signed minimum reduction. -/
  | amominNr (d : Nat) (a : Nat) (sc : Nat) (ord : Nat) (s : Nat)
  /-- R312 AMOMAX_NR. Signed maximum reduction. -/
  | amomaxNr (d : Nat) (a : Nat) (sc : Nat) (ord : Nat) (s : Nat)
  /-- R312 AMOMINU_NR. Unsigned minimum reduction. -/
  | amominuNr (d : Nat) (a : Nat) (sc : Nat) (ord : Nat) (s : Nat)
  /-- R312 AMOMAXU_NR. Unsigned maximum reduction. -/
  | amomaxuNr (d : Nat) (a : Nat) (sc : Nat) (ord : Nat) (s : Nat)
  /-- R312 AMOSWAP_NR. Swap without return. -/
  | amoswapNr (d : Nat) (a : Nat) (sc : Nat) (ord : Nat) (s : Nat)
  /-- R312 AMOFADD_NR. Floating-point add reduction. -/
  | amofaddNr (d : Nat) (a : Nat) (sc : Nat) (ord : Nat) (s : Nat)
  /-- R313 FENCE. Full fence of a scope. -/
  | fence (sc : Nat)
  /-- R313 FENCE_LD. Orders earlier loads before all later accesses. -/
  | fenceLd (sc : Nat)
  /-- R313 FENCE_SL. Orders earlier stores before later loads. -/
  | fenceSl (sc : Nat)
  /-- R313 FENCE_ST. Orders earlier stores before later stores. -/
  | fenceSt (sc : Nat)
  /-- R315 BAR. Barrier arrival and wait at a level. -/
  | bar (lv : Nat)
  /-- R209 BAR_GEN. Generation barrier that advances the tenant's race generation. -/
  | barGen (lv : Nat)
  /-- R315 BARA. Split-phase barrier arrival. -/
  | bara (lv : Nat)
  /-- R315 BARW. Split-phase barrier wait. -/
  | barw (lv : Nat)
  /-- R316 SCLK. Reads the core's synchronisation clock. -/
  | sclk (d : Nat)
  /-- R316 SCLK_INC. Increments and reads the synchronisation clock. -/
  | sclkInc (d : Nat)
  /-- R320 SEND. Releases and offers a message to a channel of a logical core. -/
  | send (d : Nat) (a : Nat)
  /-- R321 RECV. Long-latency receive from a channel. -/
  | recv (d : Nat) (ch : Nat) (la : Nat)
  /-- R321 RECVQ. Receive that stalls at issue until a message is present. -/
  | recvq (d : Nat) (ch : Nat)
  /-- R324 PMRG. Merges two (max, sum) pairs. -/
  | pmrg (d : Nat) (a : Nat) (b : Nat)
  /-- R325 CPY. Starts a trestle tile copy from a descriptor. -/
  | cpy (a : Nat)
  /-- R327 CPYM. Starts a multicast copy into several local stores. -/
  | cpym (a : Nat)
  /-- R327 PERMIT. Sets the core's copy permit window and count. -/
  | permit (d : Nat) (a : Nat) (b : Nat)
  /-- R328 CTWAIT. Waits until any tag of the mask is set, with a .sys acquire. -/
  | ctwait (d : Nat) (a : Nat)
  /-- R328 CTWAIT_ALL. Waits until all tags of the mask are set. -/
  | ctwaitAll (d : Nat) (a : Nat)
  /-- R328 CTFF. Finds the lowest set tag of a mask. -/
  | ctff (d : Nat) (a : Nat)
  /-- R328 CTCLR. Clears tag and error bits of a mask. -/
  | ctclr (a : Nat)
  /-- R141 GANG. Fuses the cores of an aligned interval into a gang. -/
  | gang (n : Nat)
  /-- R144 SPLIT. Dissolves the gang. -/
  | split
  /-- R146 HALT. Closes windows and frees the thread slot. -/
  | halt
  /-- R147 HALT_K. Halts and names a successor share for retention. -/
  | haltK (a : Nat)
  /-- R399 WAIT. Stalls until a timeout, message, copy or interrupt. -/
  | wait (d : Nat) (a : Nat)
  /-- R399 YIELD. Gives issue turns to the other ready threads. -/
  | yield
  /-- R145 SPAWN. Starts a sibling thread on the lowest free slot. -/
  | spawn (d : Nat) (a : Nat) (b : Nat)
  /-- R393 MFS. Reads a system register. -/
  | mfs (d : Nat) (a : Nat) (c : Nat) (num : Nat)
  /-- R393 MTS. Writes a system register. -/
  | mts (d : Nat) (a : Nat) (c : Nat) (num : Nat)
  /-- R398 TRAP. Closes windows and takes user trap cause 12. -/
  | trap (a : Nat)
  /-- R398 RFT. Returns from a user trap. -/
  | rft
  /-- R398 BRK. Takes user trap cause 11. -/
  | brk
  /-- R400 INVX. Invalidates translations and instruction caches. -/
  | invx (d : Nat) (a : Nat) (b : Nat)
  /-- R401 KZERO. Empties a key slot after every pier acknowledges. -/
  | kzero (a : Nat)
  /-- R402 LSCLR. Clears a core's local store, deck share and tile state. -/
  | lsclr (d : Nat) (a : Nat)
  /-- R403 SVCR. Resumes, redirects, halts or replaces a parked thread. -/
  | svcr (d : Nat) (a : Nat) (b : Nat)
  /-- R404 FOFFER. Frame offer transaction issued by the accelerator kernel. -/
  | foffer (d : Nat) (a : Nat) (b : Nat)
  /-- R404 FWITHDRAW. Frame withdraw transaction. -/
  | fwithdraw (d : Nat) (a : Nat) (b : Nat)
  /-- R404 FACCEPT. Frame accept transaction. -/
  | faccept (d : Nat) (a : Nat) (b : Nat)
  /-- R404 FLEND. Frame lend transaction. -/
  | flend (d : Nat) (a : Nat) (b : Nat)
  /-- R404 FRECALL. Frame recall transaction. -/
  | frecall (d : Nat) (a : Nat) (b : Nat)
  /-- R404 FRETURN. Frame return transaction. -/
  | freturn (d : Nat) (a : Nat) (b : Nat)
  /-- R404 FQUERY. Reads a frame's entry into rd + 1 and rd + 2. -/
  | fquery (d : Nat) (a : Nat)
  /-- R405 LAUNCH. Release followed by a doorbell write to a queue. -/
  | launch (d : Nat) (a : Nat) (b : Nat)
  /-- R405 FCINC. Release and atomic increment of a fence counter. -/
  | fcinc (a : Nat) (b : Nat)
  /-- R405 FCWAIT. Waits until a fence counter reaches a value, with acquire. -/
  | fcwait (d : Nat) (a : Nat) (b : Nat)
  /-- R405 FCREAD. Reads a fence counter without ordering. -/
  | fcread (d : Nat) (a : Nat)
  /-- R247 VMOV_16. 16-bit whole-register vector copy. -/
  | vmov16 (d : Nat) (s : Nat) (g : Nat)
  /-- R247 VADD_16. 16-bit INT32 vector add. -/
  | vadd16 (d : Nat) (s : Nat) (g : Nat)
  /-- R247 VSUB_16. 16-bit INT32 vector subtract. -/
  | vsub16 (d : Nat) (s : Nat) (g : Nat)
  /-- R247 VMUL_16. 16-bit INT32 vector multiply. -/
  | vmul16 (d : Nat) (s : Nat) (g : Nat)
  /-- R247 VAND_16. 16-bit vector and. -/
  | vand16 (d : Nat) (s : Nat) (g : Nat)
  /-- R247 VOR_16. 16-bit vector or. -/
  | vor16 (d : Nat) (s : Nat) (g : Nat)
  /-- R247 VXOR_16. 16-bit vector exclusive or. -/
  | vxor16 (d : Nat) (s : Nat) (g : Nat)
  /-- R247 VMIN_16. 16-bit INT32 vector minimum. -/
  | vmin16 (d : Nat) (s : Nat) (g : Nat)
  /-- R247 VMAX_16. 16-bit INT32 vector maximum. -/
  | vmax16 (d : Nat) (s : Nat) (g : Nat)
  /-- R247 VSHL_16. 16-bit INT32 vector shift left. -/
  | vshl16 (d : Nat) (s : Nat) (g : Nat)
  /-- R247 VSAR_16. 16-bit INT32 arithmetic shift right. -/
  | vsar16 (d : Nat) (s : Nat) (g : Nat)
  /-- R247 VFADD_16. 16-bit FP32 vector add. -/
  | vfadd16 (d : Nat) (s : Nat) (g : Nat)
  /-- R247 VFSUB_16. 16-bit FP32 vector subtract. -/
  | vfsub16 (d : Nat) (s : Nat) (g : Nat)
  /-- R247 VFMUL_16. 16-bit FP32 vector multiply. -/
  | vfmul16 (d : Nat) (s : Nat) (g : Nat)
  /-- R247 VFMAX_16. 16-bit FP32 vector maximum. -/
  | vfmax16 (d : Nat) (s : Nat) (g : Nat)
  /-- R247 VFMIN_16. 16-bit FP32 vector minimum. -/
  | vfmin16 (d : Nat) (s : Nat) (g : Nat)
  /-- R333 VMOV. Predicated vector copy. -/
  | vmov (d : Nat) (x : Nat) (b : Nat) (p : Nat) (z : Nat) (t : Nat)
  /-- R333 VADD. Lane add, wrapping. -/
  | vadd (d : Nat) (a : Nat) (b : Nat) (p : Nat) (z : Nat) (t : Nat)
  /-- R333 VSUB. Lane subtract. -/
  | vsub (d : Nat) (a : Nat) (b : Nat) (p : Nat) (z : Nat) (t : Nat)
  /-- R333 VMUL. Low half of lane product. -/
  | vmul (d : Nat) (a : Nat) (b : Nat) (p : Nat) (z : Nat) (t : Nat)
  /-- R333 VMULH. High half of signed lane product. -/
  | vmulh (d : Nat) (a : Nat) (b : Nat) (p : Nat) (z : Nat) (t : Nat)
  /-- R333 VMULH_U. High half of unsigned lane product. -/
  | vmulhU (d : Nat) (a : Nat) (b : Nat) (p : Nat) (z : Nat) (t : Nat)
  /-- R333 VMIN. Signed lane minimum. -/
  | vmin (d : Nat) (a : Nat) (b : Nat) (p : Nat) (z : Nat) (t : Nat)
  /-- R333 VMAX. Signed lane maximum. -/
  | vmax (d : Nat) (a : Nat) (b : Nat) (p : Nat) (z : Nat) (t : Nat)
  /-- R333 VMIN_U. Unsigned lane minimum. -/
  | vminU (d : Nat) (a : Nat) (b : Nat) (p : Nat) (z : Nat) (t : Nat)
  /-- R333 VMAX_U. Unsigned lane maximum. -/
  | vmaxU (d : Nat) (a : Nat) (b : Nat) (p : Nat) (z : Nat) (t : Nat)
  /-- R333 VADD_SAT. Saturating signed lane add. -/
  | vaddSat (d : Nat) (a : Nat) (b : Nat) (p : Nat) (z : Nat) (t : Nat)
  /-- R333 VSUB_SAT. Saturating signed lane subtract. -/
  | vsubSat (d : Nat) (a : Nat) (b : Nat) (p : Nat) (z : Nat) (t : Nat)
  /-- R333 VAND. Lane and. -/
  | vand (d : Nat) (a : Nat) (b : Nat) (p : Nat) (z : Nat) (t : Nat)
  /-- R333 VOR. Lane or. -/
  | vor (d : Nat) (a : Nat) (b : Nat) (p : Nat) (z : Nat) (t : Nat)
  /-- R333 VXOR. Lane exclusive or. -/
  | vxor (d : Nat) (a : Nat) (b : Nat) (p : Nat) (z : Nat) (t : Nat)
  /-- R334 VSHL. Lane shift left. -/
  | vshl (d : Nat) (a : Nat) (b : Nat) (p : Nat) (z : Nat) (t : Nat)
  /-- R334 VSHR. Lane logical shift right. -/
  | vshr (d : Nat) (a : Nat) (b : Nat) (p : Nat) (z : Nat) (t : Nat)
  /-- R334 VSAR. Lane arithmetic shift right. -/
  | vsar (d : Nat) (a : Nat) (b : Nat) (p : Nat) (z : Nat) (t : Nat)
  /-- R334 VABS. Lane absolute value, wrapping. -/
  | vabs (d : Nat) (a : Nat) (p : Nat) (z : Nat) (t : Nat)
  /-- R334 VABS_SAT. Saturating lane absolute value. -/
  | vabsSat (d : Nat) (a : Nat) (p : Nat) (z : Nat) (t : Nat)
  /-- R334 VCMP_EQ. Lane compare equal into a predicate. -/
  | vcmpEq (d : Nat) (a : Nat) (b : Nat) (p : Nat) (z : Nat) (t : Nat)
  /-- R334 VCMP_NE. Lane compare not equal. -/
  | vcmpNe (d : Nat) (a : Nat) (b : Nat) (p : Nat) (z : Nat) (t : Nat)
  /-- R334 VCMP_LT. Signed lane compare less than. -/
  | vcmpLt (d : Nat) (a : Nat) (b : Nat) (p : Nat) (z : Nat) (t : Nat)
  /-- R334 VCMP_GE. Signed lane compare greater or equal. -/
  | vcmpGe (d : Nat) (a : Nat) (b : Nat) (p : Nat) (z : Nat) (t : Nat)
  /-- R334 VCMP_LTU. Unsigned lane compare less than. -/
  | vcmpLtu (d : Nat) (a : Nat) (b : Nat) (p : Nat) (z : Nat) (t : Nat)
  /-- R334 VCMP_GEU. Unsigned lane compare greater or equal. -/
  | vcmpGeu (d : Nat) (a : Nat) (b : Nat) (p : Nat) (z : Nat) (t : Nat)
  /-- R334 VSEL. Selects lanes from va or vb by predicate. -/
  | vsel (d : Nat) (a : Nat) (b : Nat) (p : Nat) (t : Nat)
  /-- R335 PAND. Predicate and. -/
  | pand (d : Nat) (a : Nat) (b : Nat)
  /-- R335 POR. Predicate or. -/
  | por (d : Nat) (a : Nat) (b : Nat)
  /-- R335 PXOR. Predicate exclusive or. -/
  | pxor (d : Nat) (a : Nat) (b : Nat)
  /-- R335 PNOT. Predicate not. -/
  | pnot (d : Nat) (a : Nat)
  /-- R335 PFIRST. Keeps the first active lane of a predicate. -/
  | pfirst (d : Nat) (a : Nat) (t : Nat)
  /-- R335 PCNT. Counts active lanes into a scalar. -/
  | pcnt (d : Nat) (a : Nat) (t : Nat)
  /-- R335 VQLEN. Returns the vector length in bytes. -/
  | vqlen (d : Nat)
  /-- R335 VBOUND. Builds a predicate of lanes below a bound. -/
  | vbound (d : Nat) (a : Nat) (b : Nat) (t : Nat)
  /-- R336 VBCAST. Broadcasts a scalar into lanes. -/
  | vbcast (d : Nat) (a : Nat) (p : Nat) (z : Nat) (t : Nat)
  /-- R336 VEXT. Extracts a lane, zero-extended. -/
  | vext (d : Nat) (a : Nat) (b : Nat) (t : Nat)
  /-- R336 VEXT_SX. Extracts a lane, sign-extended. -/
  | vextSx (d : Nat) (a : Nat) (b : Nat) (t : Nat)
  /-- R336 VINS. Inserts a scalar into a lane. -/
  | vins (d : Nat) (a : Nat) (b : Nat) (t : Nat)
  /-- R337 VPERM. Permutes lanes by index. -/
  | vperm (d : Nat) (a : Nat) (b : Nat) (p : Nat) (z : Nat) (t : Nat)
  /-- R338 VRED. Reduces active lanes to a scalar. -/
  | vred (d : Nat) (a : Nat) (p : Nat) (t : Nat) (op : Nat)
  /-- R338 VSCAN. Inclusive scan of active lanes. -/
  | vscan (d : Nat) (a : Nat) (p : Nat) (z : Nat) (t : Nat) (op : Nat)
  /-- R342 VLD. Contiguous vector load. -/
  | vld (d : Nat) (a : Nat) (p : Nat) (z : Nat) (t : Nat) (la : Nat)
  /-- R342 VLDS. Strided vector load. -/
  | vlds (d : Nat) (a : Nat) (p : Nat) (z : Nat) (t : Nat) (la : Nat)
  /-- R342 VGATH. Indexed vector gather. -/
  | vgath (d : Nat) (a : Nat) (b : Nat) (p : Nat) (z : Nat) (t : Nat) (la : Nat)
  /-- R343 VST. Contiguous vector store. -/
  | vst (d : Nat) (a : Nat) (p : Nat) (t : Nat)
  /-- R343 VSTS. Strided vector store. -/
  | vsts (d : Nat) (a : Nat) (b : Nat) (p : Nat) (t : Nat)
  /-- R343 VSCAT. Indexed vector scatter. -/
  | vscat (d : Nat) (a : Nat) (b : Nat) (p : Nat) (t : Nat)
  /-- R347 VFADD. Floating-point lane add. -/
  | vfadd (d : Nat) (a : Nat) (b : Nat) (p : Nat) (z : Nat) (t : Nat)
  /-- R347 VFSUB. Floating-point lane subtract. -/
  | vfsub (d : Nat) (a : Nat) (b : Nat) (p : Nat) (z : Nat) (t : Nat)
  /-- R347 VFMUL. Floating-point lane multiply. -/
  | vfmul (d : Nat) (a : Nat) (b : Nat) (p : Nat) (z : Nat) (t : Nat)
  /-- R348 VFMIN. Floating-point lane minimum. -/
  | vfmin (d : Nat) (a : Nat) (b : Nat) (p : Nat) (z : Nat) (t : Nat)
  /-- R348 VFMAX. Floating-point lane maximum. -/
  | vfmax (d : Nat) (a : Nat) (b : Nat) (p : Nat) (z : Nat) (t : Nat)
  /-- R348 VFCMP_EQ. Floating-point compare equal. -/
  | vfcmpEq (d : Nat) (a : Nat) (b : Nat) (p : Nat) (z : Nat) (t : Nat)
  /-- R348 VFCMP_NE. Floating-point compare not equal. -/
  | vfcmpNe (d : Nat) (a : Nat) (b : Nat) (p : Nat) (z : Nat) (t : Nat)
  /-- R348 VFCMP_LT. Floating-point compare less than. -/
  | vfcmpLt (d : Nat) (a : Nat) (b : Nat) (p : Nat) (z : Nat) (t : Nat)
  /-- R348 VFCMP_LE. Floating-point compare less or equal. -/
  | vfcmpLe (d : Nat) (a : Nat) (b : Nat) (p : Nat) (z : Nat) (t : Nat)
  /-- R348 VFCMP_GT. Floating-point compare greater than. -/
  | vfcmpGt (d : Nat) (a : Nat) (b : Nat) (p : Nat) (z : Nat) (t : Nat)
  /-- R348 VFCMP_GE. Floating-point compare greater or equal. -/
  | vfcmpGe (d : Nat) (a : Nat) (b : Nat) (p : Nat) (z : Nat) (t : Nat)
  /-- R348 VFCMP_UN. Floating-point compare unordered. -/
  | vfcmpUn (d : Nat) (a : Nat) (b : Nat) (p : Nat) (z : Nat) (t : Nat)
  /-- R347 VFMA. Fused multiply-add with optional negations. -/
  | vfma (d : Nat) (a : Nat) (b : Nat) (p : Nat) (z : Nat) (t : Nat) (np : Nat) (na : Nat)
  /-- R350 VCVT. Converts lanes between formats. -/
  | vcvt (d : Nat) (a : Nat) (src : Nat) (sat : Nat) (p : Nat) (z : Nat) (mode : Nat) (dst : Nat)
  /-- R351 VDOT. Packed dot product accumulated into 32-bit lanes. -/
  | vdot (d : Nat) (a : Nat) (b : Nat) (fmt : Nat) (sat : Nat) (la : Nat)
  /-- R352 VCLMUL. Carry-less product of 64-bit lanes. -/
  | vclmul (d : Nat) (a : Nat) (b : Nat) (hi : Nat) (la : Nat)
  /-- R353 VSFN. Special function computed in the quad's special-function unit. -/
  | vsfn (d : Nat) (a : Nat) (fn : Nat) (p : Nat) (z : Nat) (t : Nat) (la : Nat)
  /-- R366 TMMA. Tile matrix multiply-accumulate. -/
  | tmma (acc : Nat) (dA : Nat) (dB : Nat) (fA : Nat) (fB : Nat) (la : Nat)
  /-- R366 TMMA_SAT. Saturating tile matrix multiply-accumulate. -/
  | tmmaSat (acc : Nat) (dA : Nat) (dB : Nat) (fA : Nat) (fB : Nat) (la : Nat)
  /-- R367 TMMAC. Complex tile matrix multiply-accumulate. -/
  | tmmac (acc : Nat) (dA : Nat) (dB : Nat) (fA : Nat) (fB : Nat) (la : Nat)
  /-- R367 TMMAC_SAT. Saturating complex tile multiply-accumulate. -/
  | tmmacSat (acc : Nat) (dA : Nat) (dB : Nat) (fA : Nat) (fB : Nat) (la : Nat)
  /-- R369 TMMX. Microprogrammed semiring tile product. -/
  | tmmx (acc : Nat) (dA : Nat) (dB : Nat) (fA : Nat) (fB : Nat) (la : Nat)
  /-- R370 TADD. Elementwise tile add of a tensor. -/
  | tadd (acc : Nat) (dA : Nat) (fA : Nat) (la : Nat)
  /-- R370 TMUL. Elementwise tile multiply by a tensor. -/
  | tmul (acc : Nat) (dA : Nat) (fA : Nat) (la : Nat)
  /-- R371 TACT. Applies an activation to every tile element. -/
  | tact (acc : Nat) (fn : Nat) (la : Nat)
  /-- R372 TRED. Reduces each tile row into column 0. -/
  | tred (acc : Nat) (fn : Nat) (la : Nat)
  /-- R373 TTRN. Transposes a tile in place. -/
  | ttrn (acc : Nat) (la : Nat)
  /-- R374 TCVT. Converts a tile between FP32 and INT32. -/
  | tcvt (acc : Nat) (ty : Nat) (mode : Nat) (la : Nat)
  /-- R375 TZERO. Zeroes a tile and sets its type tag. -/
  | tzero (acc : Nat) (ty : Nat) (la : Nat)
  /-- R376 TST. Stores a tile region into a tensor with conversion. -/
  | tst (acc : Nat) (dA : Nat) (sat : Nat) (mode : Nat) (la : Nat)
  /-- R361 TDESC. Loads a tensor identifier entry and increments its GEN. -/
  | tdesc (dA : Nat) (ra : Nat) (la : Nat)
  /-- R361 TDRD. Stores a tensor identifier entry to memory. -/
  | tdrd (dA : Nat) (ra : Nat) (la : Nat)
  /-- R368 TUPROG. Loads the core's inner-loop microprogram buffer. -/
  | tuprog (ra : Nat) (la : Nat)
  /-- R379 TREC. Opens record mode. -/
  | trec
  /-- R379 TRECE. Closes record mode. -/
  | trece
  /-- R379 TMARK. Appends a mark record to the adjoint log. -/
  | tmark (ra : Nat)
  /-- R385 TREV. Walks the adjoint log backwards running architected adjoints. -/
  | trev (la : Nat)
  /-- R379 TLOGQ. Waits for reserved records to be written and returns ADJ.PTR. -/
  | tlogq (ra : Nat)
  /-- R11 COLD_RESET. Cold reset: every register takes its cold value, the keystone publishes the harvest map, initialises the frame record and designates the system cores. -/
  | coldReset
  /-- R431 WARM_RESET. Warm reset: in-flight accesses are performed or dropped, side logs are dropped, cores and quads are cleared, caches are emptied, and launches end without completion. Parameters: identities of the forwarded accesses that are performed. -/
  | warmReset
  /-- R18 CLK_LOAD. A write of 1 to CLK.CMD LOAD checks the plan at CLK.PLAN under R17, or is refused while a load is in progress. -/
  | clkLoad
  /-- R21 PASSENGER_RELOCK. A passenger's PLL completes its relock to the accepted plan, and the next passenger in socket order begins its relock. -/
  | passengerRelock
  /-- R25 PTP_EXCHANGE. A two-step IEEE 1588 exchange disciplines a time unit or the interposer master, including the one-time alignment of a follower. Parameters: unit, master, bound. -/
  | ptpExchange
  /-- R28 PTP_EXCHANGE_FAIL. A failed exchange is counted, and a fourth consecutive failure enters HOLDOVER. Parameters: unit. -/
  | ptpExchangeFail
  /-- R24 DTIME_WRAP. DTIME wraps modulo 2^64 and TIME.WRAP of the die increments. Parameters: die. -/
  | dtimeWrap
  /-- R26 TIME_ROLE_WRITE. A write of TIME.ROLE is accepted only while every scale-up port is DISABLED and a ROLE of 3 is ignored. Parameters: v. -/
  | timeRoleWrite
  /-- R30 FENCE_TOKEN_RETURN. An ordering point or pier group returns a handshake token once the sender's earlier accesses in scope are performed there. Parameters: h, slot, recip. -/
  | fenceTokenReturn
  /-- R33 PARAPET_THROTTLE. A power, current or temperature limit lowers die clocks by band-safe steps or gates issue, and counts a throttle entry. Parameters: cause, gated dies as a mask, sockets as a mask, their clocks. -/
  | parapetThrottle
  /-- R33 TEMPERATURE_TRIP. At 110 degrees the parapet removes power from the package and records the cause for the keystone. -/
  | temperatureTrip
  /-- R32 PAR_CAP_WRITE. A write of PAR.CAP clamps the cap to 600-1,800 W and sets the enforced limit. Parameters: v. -/
  | parCapWrite
  /-- R36 SPDM_GET_VERSION. The keystone answers the SPDM GET_VERSION request over DOE. -/
  | spdmGetVersion
  /-- R36 SPDM_GET_CAPABILITIES. The keystone answers the SPDM GET_CAPABILITIES request. -/
  | spdmGetCapabilities
  /-- R36 SPDM_NEGOTIATE_ALGORITHMS. The keystone answers the SPDM NEGOTIATE_ALGORITHMS request. -/
  | spdmNegotiateAlgorithms
  /-- R36 SPDM_GET_DIGESTS. The keystone answers the SPDM GET_DIGESTS request. -/
  | spdmGetDigests
  /-- R36 SPDM_GET_CERTIFICATE. The keystone returns the device identity certificate chain. Parameters: off, len. -/
  | spdmGetCertificate
  /-- R36 SPDM_CHALLENGE. The keystone answers the SPDM CHALLENGE with an RSA-3072 signature. Parameters: nonce. -/
  | spdmChallenge
  /-- R36 SPDM_GET_MEASUREMENTS. The keystone returns the indexed measurements 1-5. Parameters: index. -/
  | spdmGetMeasurements
  /-- R36 SPDM_KEY_EXCHANGE. Secure-session requests are answered with the SPDM error UnsupportedRequest. -/
  | spdmKeyExchange
  /-- R37 FW_RECOVERY_IMAGE. In recovery, the keystone takes a signed image streamed over the PCIe recovery path. Parameters: version, sigOk, image. -/
  | fwRecoveryImage
  /-- R39 LINK_FLIT_RECEIVE. A scale-up port receives a 256-B flit, checks CRC and sequence, and delivers it in order or negatively acknowledges it. Parameters: port, flit, crcOk. -/
  | linkFlitReceive
  /-- R39 FLIT_REPLAY. On a negative acknowledgement the sender replays the flit and every later flit from its replay buffer. Parameters: port, seq. -/
  | flitReplay
  /-- R42 LINK_DOWN. A port sees its peer's port disabled or lost and goes DOWN. Parameters: port. -/
  | linkDown
  /-- R42 LINK_TRAINING_DONE. Link training and node-id exchange complete and the port reads UP, or stays TRAINING on duplicate ids. Parameters: port, peer, peerPort. -/
  | linkTrainingDone
  /-- R42 PORT_ENABLE. Setting FAB.PCTL EN on a DISABLED port starts link training. Parameters: port. -/
  | portEnable
  /-- R42 PORT_DISABLE. Clearing FAB.PCTL EN resends or completes unacknowledged flits and takes the port to DISABLED. Parameters: port. -/
  | portDisable
  /-- R42 PORT_RETRAIN_TIMER. A port that went DOWN with EN = 1 starts training again 1 ms later. Parameters: port. -/
  | portRetrainTimer
  /-- R43 FAB_NODE_WRITE. A write of FAB.NODE sets the node id, ignored while any port is out of DISABLED. Parameters: v. -/
  | fabNodeWrite
  /-- R45 REMOTE_ACCESS_INBOUND. The record engine checks an inbound remote access and performs it at the home pier or refuses it. Parameters: tenant, pa, op, size, data. -/
  | remoteAccessInbound
  /-- R47 COLL_QB_WRITE. A write of COLL.QB that sets EN checks the tenant and LOG and zeroes the engine's consumer index. Parameters: t, v. -/
  | collQbWrite
  /-- R49 COLL_ALLREDUCE. The collective engine takes an ALLREDUCE descriptor, checks it and its group, and contributes to the group's reduction. Parameters: t. -/
  | collAllreduce
  /-- R53 COLL_PUT. The collective engine takes a PUT descriptor and sends LEN bytes to the receive buffer at the target node. Parameters: t. -/
  | collPut
  /-- R50 ALLREDUCE_COMPLETE. All contributions have combined; DST and then STATUS are written and FCINC is added to FC. Parameters: id, pos, others. -/
  | allreduceComplete
  /-- R51 COLL_TIMEOUT. A collective still open at its group timeout completes with TIMEOUT. Parameters: id. -/
  | collTimeout
  /-- R51 COLL_MEMBER_LOST. A member abandons its open collectives on reset, and the others complete with MEMBERLOST. Parameters: id. -/
  | collMemberLost
  /-- R54 PUT_RECEIVE. The target checks the key registration, writes the data in ASID and adds INC to the fence counter, or answers FABPERM. Parameters: tenant, key, off, len, data. -/
  | putReceive
  /-- R64 ETH_FRAME_RECEIVE. An ingest port receives a frame, matches rules, and writes it into a ring slot or drops and counts it. Parameters: port, frame, fcsOk, len. -/
  | ethFrameReceive
  /-- R64 ING_TAIL_REREAD. The ingest engine re-reads TAIL at least every 1 us while occupancy is at or above HWM. Parameters: ring. -/
  | ingTailReread
  /-- R65 PFC_XOFF_RESEND. The port resends XOFF every 32,768 quanta while the high-water condition holds. Parameters: port, prio. -/
  | pfcXoffResend
  /-- R61 ING_RULE_LOAD. A write of ING.RLD reads, checks and replaces one flow rule of a port in one step. Parameters: v. -/
  | ingRuleLoad
  /-- R62 ING_RCTL_WRITE. A write of ING.RCTL configures a ring; setting EN is checked and clearing EN stops delivery at the next frame boundary. Parameters: ring, v. -/
  | ingRctlWrite
  /-- R68 POOL_HCLR. A write of POOL.HCLR zeroes one pool page's access counts. Parameters: page. -/
  | poolHclr
  /-- R69 POOL_FAILURE. A pool failure poisons or fatally stops accesses to affected pages according to their fail attribute and reports to both kernels. Parameters: page, count. -/
  | poolFailure
  /-- R84 HOST_CXL_MEM_ACCESS. The host port receives a CXL.mem access and performs it after the frame check, or refuses it with poison and a REFUSED event. Parameters: hpa, op (0 read, 1 write, 2 read for ownership), data, mask. -/
  | hostCxlMemAccess
  /-- R72 HCW_ENABLE. Writing HCW.CTL EN from 0 to 1 checks the ring configuration and zeroes HCW.CPI and HCW.CCI, or sets BADCFG. Parameters: v. -/
  | hcwEnable
  /-- R72 HCW_DISABLE. Writing HCW.CTL EN to 0 stops command fetch after the command being fetched. Parameters: v. -/
  | hcwDisable
  /-- R74 HCW_NOP. Host command NOP completes with VAL0 0. -/
  | hcwNop
  /-- R74 HCW_BADOP. A command with an unknown OP or a nonzero reserved byte completes as BADOP once accepted. -/
  | hcwBadop
  /-- R81 HCW_FOFFER. Host command FOFFER runs the offer transaction on a frame with HOST as issuer. -/
  | hcwFoffer
  /-- R81 HCW_FWITHDRAW. Host command FWITHDRAW returns an OFFERED frame to OWNED. -/
  | hcwFwithdraw
  /-- R81 HCW_FACCEPT. Host command FACCEPT takes an OFFERED frame from the accelerator kernel. -/
  | hcwFaccept
  /-- R81 HCW_FLEND. Host command FLEND lends an OWNED frame to the accelerator kernel. -/
  | hcwFlend
  /-- R81 HCW_FRECALL. Host command FRECALL starts the recall of a LENT frame with a deadline. -/
  | hcwFrecall
  /-- R81 HCW_FRETURN. Host command FRETURN returns a borrowed frame to its owner. -/
  | hcwFreturn
  /-- R82 HCW_FQUERY. Host command FQUERY returns a frame's entry without changing it. -/
  | hcwFquery
  /-- R18 HCW_CLKPLAN. Host command CLKPLAN reads a clock plan from host memory and loads it, completing when the load ends. -/
  | hcwClkplan
  /-- R37 HCW_FWCHUNK. Host command FWCHUNK streams part of a firmware image that the keystone checks and writes. Parameters: version, sigOk (2: the write fails and leaves no valid image), last. -/
  | hcwFwchunk
  /-- R97 HCW_VFRESET. Host command VFRESET starts the reset of a virtual function. -/
  | hcwVfreset
  /-- R158 HCW_KBOOT. Host command KBOOT loads the accelerator kernel image, builds ASID 0 and starts the boot system core. -/
  | hcwKboot
  /-- R77 HCW_EVREPLAY. Host command EVREPLAY re-delivers journalled event records after a given DSEQ, preceded by REPLAYGAP if needed. -/
  | hcwEvreplay
  /-- R77 HCW_CMDSTAT. Host command CMDSTAT returns UNKNOWN, PENDING or DONE for an HSEQ. -/
  | hcwCmdstat
  /-- R87 HCW_AMSG. Host command AMSG delivers 48 B to the accelerator event ring as a KIND 7 record. -/
  | hcwAmsg
  /-- R76 HCW_ECI_WRITE. A write of HCW.ECI lets waiting event records be written into the ring, oldest first. Parameters: v. -/
  | hcwEciWrite
  /-- R83 REVOCATION_ACK. An abutment or the host port acknowledges an invalidation; at the last acknowledgement the transaction's status is returned. Parameters: id, who. -/
  | revocationAck
  /-- R86 RECALL_DEADLINE_EXPIRY. The deadline of a RECALLING frame passes and the record engine commits the overrun and revokes the borrower. Parameters: frame. -/
  | recallDeadlineExpiry
  /-- R86 FRAME_RETIRE. A frame is retired in one record transaction, every mapping is revoked and RETIRED events go to both kernels. Parameters: frame. -/
  | frameRetire
  /-- R186 RECORD_REBUILD. The keystone completes the rebuild of a lost frame-record part and resumes two-copy service. -/
  | recordRebuild
  /-- R179 PIER_ACCESS. A request arrives at its home pier and is performed there, including atomics, encryption, race checks and CRC checks. Parameters: id, crc, miss. -/
  | pierAccess
  /-- R185 PIER_ROW_REPAIR. A failed row is repaired with a spare row, remap entry or spare granules, or its frames are retired. Parameters: pier, granules. -/
  | pierRowRepair
  /-- R187 HOT_ROW_WINDOW. A 4 us refresh-management window admits one activation of a hot row and refreshes its neighbours. Parameters: pier, row. -/
  | hotRowWindow
  /-- R187 REFRESH_WINDOW_END. A 32 ms refresh window ends; a row is made hot or cool according to its activation count. Parameters: pier, row, activations. -/
  | refreshWindowEnd
  /-- R87 FREC_AEVCON_WRITE. A write of FREC.AEVCON lets waiting accelerator event records be written. Parameters: v. -/
  | frecAevconWrite
  /-- R87 FREC_AEV_CONFIG_WRITE. A valid write of FREC.AEVB and FREC.AEVS configures the accelerator event ring and releases waiting records. Parameters: base, size. -/
  | frecAevConfigWrite
  /-- R89 TEN_CFG_ENABLE. A write setting TEN.CFG EN checks the tenant's ranges and key and makes it ACTIVE. Parameters: t, v. -/
  | tenCfgEnable
  /-- R89 TEN_CFG_DISABLE. A write clearing TEN.CFG EN starts a reset of the tenant. Parameters: t, v. -/
  | tenCfgDisable
  /-- R97 VF_FLR. A PCIe function-level reset of a virtual function starts the reset of its tenant. Parameters: t. -/
  | vfFlr
  /-- R97 VF_RESET_COMPLETE. Once the tenant's contexts are quiesced, the reset clears stores, queues, rings and counters, sets STATE OFF and issues the completion. Parameters: t. -/
  | vfResetComplete
  /-- R92 PART_ENABLE. A write setting PART.CTL EN checks NBASE and NLEN and sets the partition's interval. Parameters: pj, v. -/
  | partEnable
  /-- R95 PART_RESIZE. A write of PART.CTL GO checks the new interval, sets BUSY and starts pre-empting leaving cores. Parameters: pj, v. -/
  | partResize
  /-- R95 PART_RESIZE_COMMIT. After leaving cores are quiesced and cleared, PART.BASE and PART.LEN take the new values and BUSY clears. Parameters: pj. -/
  | partResizeCommit
  /-- R92 PART_DISABLE. A write clearing PART.CTL EN succeeds only with no resident work and no tenant naming the partition, otherwise INUSE. Parameters: pj, v. -/
  | partDisable
  /-- R96 PART_EXCL_SET. Setting a PART.EXCL bit starts removal of the core from its partition. Parameters: h. -/
  | partExclSet
  /-- R96 PART_EXCL_DONE. The excluded core's work is re-dealt and its stores are cleared, and the bit reads 1. Parameters: h. -/
  | partExclDone
  /-- R96 PART_EXCL_CLEAR. Clearing a PART.EXCL bit returns the core to membership for later launches. Parameters: h. -/
  | partExclClear
  /-- R99 KEY_LOAD. KEY.CMD LOAD loads a key slot from KEY.DATA. Parameters: slot. -/
  | keyLoad
  /-- R99 KEY_GEN. KEY.CMD GEN loads a key slot from the keystone's random source. Parameters: slot. -/
  | keyGen
  /-- R102 SCRUB_START. A write of 1 to SCRUB.CMD checks the list and starts the scrub engine in MARKING. -/
  | scrubStart
  /-- R103 SCRUB_MARK_ENTRY. The scrub engine takes one list entry and marks the frame SCRUBBING with revocation, or skips it. -/
  | scrubMarkEntry
  /-- R104 SCRUB_FRAME_COMMIT. After a frame's 256 granules are zeroed, one transaction commits it FREE; after the last, STATE is DONE and the system core is interrupted. -/
  | scrubFrameCommit
  /-- R105 SCRUB_RESUME. After a warm reset the scrub engine resumes at entry MARK or restarts frame DONE from its first granule. -/
  | scrubResume
  /-- R106 SCHED_QUEUE_ENABLE. A write setting SCHED.QCFG EN checks the tenant, range and LOGN and enables the queue. Parameters: q, v. -/
  | schedQueueEnable
  /-- R106 SCHED_QUEUE_DISABLE. Clearing SCHED.QCFG EN stops dequeue after the entry in progress. Parameters: q. -/
  | schedQueueDisable
  /-- R107 VF_DOORBELL. A host doorbell write to a virtual function's BAR sets a queue's TAIL, or is ignored or overruns. Parameters: t, i, tail. -/
  | vfDoorbell
  /-- R114 SCHED_DEQUEUE. The leader checks the head entry, records the launch and commits HEAD by compare-and-swap, then sends deals. Parameters: pj. -/
  | schedDequeue
  /-- R114 SCHED_DEAL_ACCEPT. A die scheduler accepts a deal once, sets its ACK bit and dispatches shares to its cores. Parameters: pj, die. -/
  | schedDealAccept
  /-- R115 SCHED_LEADERSHIP_MOVE. A new leader takes a partition by compare-and-swap and re-deals an unacknowledged launch. Parameters: pj. -/
  | schedLeadershipMove
  /-- R113 SCHED_DRAIN_WRITE. A write of SCHED.DRAIN drains dies from leadership or makes them eligible again. Parameters: v. -/
  | schedDrainWrite
  /-- R119 SHARE_DISPATCH. A group's routine starts on a free thread slot with the initial registers of R119. Parameters: h. -/
  | shareDispatch
  /-- R120 LAUNCH_BARRIER_COMPLETE. The launch barrier of a domain completes and the data-movement routine starts. Parameters: h. -/
  | launchBarrierComplete
  /-- R120 SHARE_END. All threads of a share have halted; the core clears or retains its stores and discards its messages. Parameters: h. -/
  | shareEnd
  /-- R121 LAUNCH_COMPLETE. Every share has ended; the leader writes STATUS, adds DINC and sends MSI-X. Parameters: pj. -/
  | launchComplete
  /-- R123 WATCHDOG_EXPIRY. A thread's routine cycle count reaches TASK.LIMIT and the thread raises WATCHDOG and parks. Parameters: h, slot. -/
  | watchdogExpiry
  /-- R124 SCHED_END. A write of SCHED.END quiesces the partition's resident launch, discards its replay and completes it ENDED. Parameters: pj. -/
  | schedEnd
  /-- R125 SLICE_END. A tenant's slice expires and the partition is quiesced and passed on, or a new slice begins. Parameters: pj. -/
  | sliceEnd
  /-- R126 QUIESCE_COMPLETE. A core's in-flight work has landed or been saved to its replay area and save record. Parameters: h. -/
  | quiesceComplete
  /-- R130 SHARE_RESTORE. A saved share is restored: header checked, state restored, replay entries run and issue resumes. Parameters: h. -/
  | shareRestore
  /-- R131 DISPLACED_SHARE_SWITCH. A core holding several shares switches to the next after halt, barrier wait or 100 us. Parameters: h. -/
  | displacedShareSwitch
  /-- R147 RETENTION_EXPIRY. The HALT.K retention window expires, and the local store and deck share are cleared. Parameters: h. -/
  | retentionExpiry
  /-- R110 FC_VAL_WRITE. The accelerator kernel writes a fence counter's value through FC.VAL. Parameters: i, v. -/
  | fcValWrite
  /-- R150 LONG_LATENCY_RESULT. The result of a long-latency instruction lands in its pending-table entry. Parameters: h, slot, idx. -/
  | longLatencyResult
  /-- R136 SPAN_ENTRY_START. The span starts the head entry of the next core's dispatch queue in round-robin order. Parameters: quad. -/
  | spanEntryStart
  /-- R141 GANG_FORM. The last member arrives in GANG, the leader is chosen and all members continue. Parameters: h. -/
  | gangForm
  /-- R157 FAULT_RECORD_DELIVER. A kernel fault record is written into its system core's fault ring when room and configuration allow. Parameters: h. -/
  | faultRecordDeliver
  /-- R157 SVC_CORE_WRITE. A write to SVC.CORE entries 8-31 adds a system core, ignored after the first partition is enabled. Parameters: i, v. -/
  | svcCoreWrite
  /-- R159 INTERRUPT_DELIVERY. An enabled pending interrupt makes the interrupt slot's thread take the user trap INTR. Parameters: h. -/
  | interruptDelivery
  /-- R159 SYS_IPI_WRITE. A write to SYS.IPI sets IPI at the named system core. Parameters: i. -/
  | sysIpiWrite
  /-- R158 SYS_START_WRITE. A write to SYS.START starts slot 0 of a system core at the given address. Parameters: i, v. -/
  | sysStartWrite
  /-- R158 BOOT_THREAD_START. After a warm reset the keystone starts the boot system core at SYS.BOOT with g2 = 1. -/
  | bootThreadStart
  /-- R175 SIDE_LOG_RETRY. The abutment retries the head side-log entry at an INVX completion or at least every 100 us. Parameters: h. -/
  | sideLogRetry
  /-- R173 HELD_STORE_ENTER. A scalar store held at its abutment enters the side log when an entry frees. Parameters: h. -/
  | heldStoreEnter
  /-- R175 SLOG_RETRY. SLOG.CMD RETRY retries the head side-log entry of a core. Parameters: h. -/
  | slogRetry
  /-- R175 SLOG_DISCARD. SLOG.CMD DISCARD drops every side-log entry of a core and abandons its held copies. Parameters: h. -/
  | slogDiscard
  /-- R181 MIG_START. MIG.CMD START checks the ranges, marks the destination SCRUBBING and sets the source range moving. Parameters: size. -/
  | migStart
  /-- R182 MIG_DRAIN_DONE. Every pier holding source granules acknowledges its drain and the copy begins. -/
  | migDrainDone
  /-- R182 MIG_COPY_DONE. The migration copy of every granule finishes and STATE becomes COPIED. -/
  | migCopyDone
  /-- R182 MIG_COMMIT. MIG.CMD COMMIT moves ownership to the destination, invalidates the source and releases held requests. -/
  | migCommit
  /-- R182 MIG_ABORT. MIG.CMD ABORT releases held requests to the source and scrubs the destination. -/
  | migAbort
  /-- R182 MIG_SCRUB_DONE. The migration engine finishes writing the freed frames, commits them FREE and returns to IDLE. -/
  | migScrubDone
  /-- R176 PLACE_MAP_WRITE. A write of PLACE.MAP changes slab placement only where every frame is FREE and owned by ACCEL, otherwise sets PLACE.ERR. Parameters: v. -/
  | placeMapWrite
  /-- R180 HOT_CLR. A write of HOT.CLR zeroes one region's hotness counts, or all of them. Parameters: v. -/
  | hotClr
  /-- R209 RACE_SWEEP_DONE. Every pier finishes clearing a tenant's race records of the coming generation. Parameters: t. -/
  | raceSweepDone
  /-- R309 LDF_RESEND. A full/empty request returned by a full pier waiter table is re-sent within 1 us. Parameters: id. -/
  | ldfResend
  /-- R315 BARRIER_COMPLETE. A barrier instance completes when all members have arrived, and waiting members continue. Parameters: h, level. -/
  | barrierComplete
  /-- R320 MESSAGE_ACCEPT. A waiting SEND offer is accepted into its channel when room appears. Parameters: h, slot, chan. -/
  | messageAccept
  /-- R326 COPY_COMPLETE. A trestle copy has performed every destination word, or is abandoned, and its CTAG bit is set. Parameters: h, tag. -/
  | copyComplete
  /-- R399 WAIT_TIMEOUT. The WAIT timer of a thread expires and WAIT completes with TIME set. Parameters: h, slot. -/
  | waitTimeout
  /-- R7 REGISTER_WRITE. A write to a system register with no behaviour of its own updates its writable fields. Parameters: n, idx, v. -/
  | registerWrite
  /-- R33 THROTTLE_END. The power, current or temperature condition clears, the parapet lifts clock lowering or issue gating, and the PWR, CURR or TEMP bit clears. Parameters: cause. -/
  | throttleEnd
  /-- R53 PUT_COMPLETE. The target's answer to a PUT reaches the sending collective engine, which writes STATUS (OK, FABPERM or UNREACHABLE) and adds FCINC to the tenant's fence counter. Parameters: id, status. -/
  | putComplete
  /-- R61 RULE_LOAD_COMPLETE. A flow-rule load ends, taking ING.RSTAT from LOADING to OK, BADRULE or BADTABLE. -/
  | ruleLoadComplete
  deriving DecidableEq, Repr

end Sys2Proof
end

