-- ==== Sys2Proof/WellFormed.lean ====
section
/-! DEFINITION. Which instructions are well formed: every field fits its place in the encoding (10_encoding R248)
and no field holds a code that the owning chapter leaves unassigned (R254). A word whose fields are not well formed
raises ILLEGAL. A step without an encoding has no field. -/

namespace Sys2Proof

/-- Every field lies in its range and holds an assigned code (R254). -/
def Instr.wf : Instr → Bool
  | .coldReset => true
  | .warmReset => true
  | .clkLoad => true
  | .passengerRelock => true
  | .ptpExchange => true
  | .ptpExchangeFail => true
  | .dtimeWrap => true
  | .timeRoleWrite => true
  | .fenceTokenReturn => true
  | .parapetThrottle => true
  | .temperatureTrip => true
  | .parCapWrite => true
  | .spdmGetVersion => true
  | .spdmGetCapabilities => true
  | .spdmNegotiateAlgorithms => true
  | .spdmGetDigests => true
  | .spdmGetCertificate => true
  | .spdmChallenge => true
  | .spdmGetMeasurements => true
  | .spdmKeyExchange => true
  | .fwRecoveryImage => true
  | .linkFlitReceive => true
  | .flitReplay => true
  | .linkDown => true
  | .linkTrainingDone => true
  | .portEnable => true
  | .portDisable => true
  | .portRetrainTimer => true
  | .fabNodeWrite => true
  | .remoteAccessInbound => true
  | .collQbWrite => true
  | .collAllreduce => true
  | .collPut => true
  | .allreduceComplete => true
  | .collTimeout => true
  | .collMemberLost => true
  | .putReceive => true
  | .ethFrameReceive => true
  | .ingTailReread => true
  | .pfcXoffResend => true
  | .ingRuleLoad => true
  | .ingRctlWrite => true
  | .poolHclr => true
  | .poolFailure => true
  | .hostCxlMemAccess => true
  | .hcwEnable => true
  | .hcwDisable => true
  | .hcwNop => true
  | .hcwBadop => true
  | .hcwFoffer => true
  | .hcwFwithdraw => true
  | .hcwFaccept => true
  | .hcwFlend => true
  | .hcwFrecall => true
  | .hcwFreturn => true
  | .hcwFquery => true
  | .hcwClkplan => true
  | .hcwFwchunk => true
  | .hcwVfreset => true
  | .hcwKboot => true
  | .hcwEvreplay => true
  | .hcwCmdstat => true
  | .hcwAmsg => true
  | .hcwEciWrite => true
  | .revocationAck => true
  | .recallDeadlineExpiry => true
  | .frameRetire => true
  | .recordRebuild => true
  | .pierAccess => true
  | .pierRowRepair => true
  | .hotRowWindow => true
  | .refreshWindowEnd => true
  | .frecAevconWrite => true
  | .frecAevConfigWrite => true
  | .tenCfgEnable => true
  | .tenCfgDisable => true
  | .vfFlr => true
  | .vfResetComplete => true
  | .partEnable => true
  | .partResize => true
  | .partResizeCommit => true
  | .partDisable => true
  | .partExclSet => true
  | .partExclDone => true
  | .partExclClear => true
  | .keyLoad => true
  | .keyGen => true
  | .scrubStart => true
  | .scrubMarkEntry => true
  | .scrubFrameCommit => true
  | .scrubResume => true
  | .schedQueueEnable => true
  | .schedQueueDisable => true
  | .vfDoorbell => true
  | .schedDequeue => true
  | .schedDealAccept => true
  | .schedLeadershipMove => true
  | .schedDrainWrite => true
  | .shareDispatch => true
  | .launchBarrierComplete => true
  | .shareEnd => true
  | .launchComplete => true
  | .watchdogExpiry => true
  | .schedEnd => true
  | .sliceEnd => true
  | .quiesceComplete => true
  | .shareRestore => true
  | .displacedShareSwitch => true
  | .retentionExpiry => true
  | .fcValWrite => true
  | .longLatencyResult => true
  | .spanEntryStart => true
  | .gangForm => true
  | .faultRecordDeliver => true
  | .svcCoreWrite => true
  | .interruptDelivery => true
  | .sysIpiWrite => true
  | .sysStartWrite => true
  | .bootThreadStart => true
  | .sideLogRetry => true
  | .heldStoreEnter => true
  | .slogRetry => true
  | .slogDiscard => true
  | .migStart => true
  | .migDrainDone => true
  | .migCopyDone => true
  | .migCommit => true
  | .migAbort => true
  | .migScrubDone => true
  | .placeMapWrite => true
  | .hotClr => true
  | .raceSweepDone => true
  | .ldfResend => true
  | .barrierComplete => true
  | .messageAccept => true
  | .copyComplete => true
  | .waitTimeout => true
  | .registerWrite => true
  | .add d a b => decide (d < 32) && decide (a < 32) && decide (b < 32)
  | .sub d a b => decide (d < 32) && decide (a < 32) && decide (b < 32)
  | .mul d a b => decide (d < 32) && decide (a < 32) && decide (b < 32)
  | .mulh d a b => decide (d < 32) && decide (a < 32) && decide (b < 32)
  | .mulhu d a b => decide (d < 32) && decide (a < 32) && decide (b < 32)
  | .div d a b => decide (d < 32) && decide (a < 32) && decide (b < 32)
  | .divu d a b => decide (d < 32) && decide (a < 32) && decide (b < 32)
  | .rem d a b => decide (d < 32) && decide (a < 32) && decide (b < 32)
  | .remu d a b => decide (d < 32) && decide (a < 32) && decide (b < 32)
  | .and d a b => decide (d < 32) && decide (a < 32) && decide (b < 32)
  | .or d a b => decide (d < 32) && decide (a < 32) && decide (b < 32)
  | .xor d a b => decide (d < 32) && decide (a < 32) && decide (b < 32)
  | .andn d a b => decide (d < 32) && decide (a < 32) && decide (b < 32)
  | .shl d a b => decide (d < 32) && decide (a < 32) && decide (b < 32)
  | .shr d a b => decide (d < 32) && decide (a < 32) && decide (b < 32)
  | .sar d a b => decide (d < 32) && decide (a < 32) && decide (b < 32)
  | .rol d a b => decide (d < 32) && decide (a < 32) && decide (b < 32)
  | .clz d a => decide (d < 32) && decide (a < 32)
  | .ctz d a => decide (d < 32) && decide (a < 32)
  | .popc d a => decide (d < 32) && decide (a < 32)
  | .min d a b => decide (d < 32) && decide (a < 32) && decide (b < 32)
  | .max d a b => decide (d < 32) && decide (a < 32) && decide (b < 32)
  | .minu d a b => decide (d < 32) && decide (a < 32) && decide (b < 32)
  | .maxu d a b => decide (d < 32) && decide (a < 32) && decide (b < 32)
  | .slt d a b => decide (d < 32) && decide (a < 32) && decide (b < 32)
  | .sltu d a b => decide (d < 32) && decide (a < 32) && decide (b < 32)
  | .seq d a b => decide (d < 32) && decide (a < 32) && decide (b < 32)
  | .addi d a imm => decide (d < 32) && decide (a < 32) && decide (imm < 32768)
  | .andi d a imm => decide (d < 32) && decide (a < 32) && decide (imm < 32768)
  | .ori d a imm => decide (d < 32) && decide (a < 32) && decide (imm < 32768)
  | .xori d a imm => decide (d < 32) && decide (a < 32) && decide (imm < 32768)
  | .slti d a imm => decide (d < 32) && decide (a < 32) && decide (imm < 32768)
  | .shli d a n => decide (d < 32) && decide (a < 32) && decide (n < 64)
  | .shri d a n => decide (d < 32) && decide (a < 32) && decide (n < 64)
  | .sari d a n => decide (d < 32) && decide (a < 32) && decide (n < 64)
  | .roli d a n => decide (d < 32) && decide (a < 32) && decide (n < 64)
  | .immh d imm => decide (d < 32) && decide (imm < 1048576)
  | .lea d a b s => decide (d < 32) && decide (a < 32) && decide (b < 32) && decide (s < 16)
  | .bfx d a b => decide (d < 32) && decide (a < 32) && decide (b < 32)
  | .bfxSx d a b => decide (d < 32) && decide (a < 32) && decide (b < 32)
  | .bfi d a b => decide (d < 32) && decide (a < 32) && decide (b < 32)
  | .clmul d a b => decide (d < 32) && decide (a < 32) && decide (b < 32)
  | .clmulh d a b => decide (d < 32) && decide (a < 32) && decide (b < 32)
  | .bcc a b cond off =>
    decide (a < 32) && decide (b < 32) && decide (cond < 8) && decide (off < 4096) && decide (cond < 6)
  | .bz a cond off => decide (a < 32) && decide (cond < 8) && decide (off < 4096) && decide (cond < 4)
  | .j off => decide (off < 33554432)
  | .call k off => decide (k < 16) && decide (off < 2097152)
  | .pad lab => decide (lab < 65536)
  | .jtab d a b => decide (d < 32) && decide (a < 32) && decide (b < 32)
  | .callt d a b k => decide (d < 32) && decide (a < 32) && decide (b < 32) && decide (k < 16)
  | .ret => true
  | .loop a imm => decide (a < 32) && decide (imm < 32768)
  | .rep nm1 mask => decide (nm1 < 64) && decide (mask < 8)
  | .spillw => true
  | .fillw => true
  | .ld d base s off la =>
    decide (d < 32) && decide (base < 32) && decide (s < 4) && decide (off < 256) && decide (la < 16)
  | .ldu d base s off la =>
    decide (d < 32) && decide (base < 32) && decide (s < 4) && decide (off < 256) && decide (la < 16) && decide (s < 3)
  | .st d base s off => decide (d < 32) && decide (base < 32) && decide (s < 4) && decide (off < 256)
  | .ldx d a s la => decide (d < 32) && decide (a < 32) && decide (s < 4) && decide (la < 16)
  | .stx d a s => decide (d < 32) && decide (a < 32) && decide (s < 4)
  | .ldacq d a sc s la =>
    decide (d < 32) && decide (a < 32) && decide (sc < 8) && decide (s < 4) && decide (la < 16) && decide (sc < 5)
  | .strel d a sc s => decide (d < 32) && decide (a < 32) && decide (sc < 8) && decide (s < 4) && decide (sc < 5)
  | .ldf d a sc s la =>
    decide (d < 32) && decide (a < 32) && decide (sc < 8) && decide (s < 2) && decide (la < 16) && decide (sc < 5)
  | .ldfE d a sc s la =>
    decide (d < 32) && decide (a < 32) && decide (sc < 8) && decide (s < 2) && decide (la < 16) && decide (sc < 5)
  | .stf d a sc s => decide (d < 32) && decide (a < 32) && decide (sc < 8) && decide (s < 2) && decide (sc < 5)
  | .amoadd d a sc ord s la =>
    decide (d < 32) && decide (a < 32) && decide (sc < 8) && decide (ord < 4) && decide (s < 2) && decide (la < 16) && decide (sc < 5)
  | .amoand d a sc ord s la =>
    decide (d < 32) && decide (a < 32) && decide (sc < 8) && decide (ord < 4) && decide (s < 2) && decide (la < 16) && decide (sc < 5)
  | .amoor d a sc ord s la =>
    decide (d < 32) && decide (a < 32) && decide (sc < 8) && decide (ord < 4) && decide (s < 2) && decide (la < 16) && decide (sc < 5)
  | .amoxor d a sc ord s la =>
    decide (d < 32) && decide (a < 32) && decide (sc < 8) && decide (ord < 4) && decide (s < 2) && decide (la < 16) && decide (sc < 5)
  | .amomin d a sc ord s la =>
    decide (d < 32) && decide (a < 32) && decide (sc < 8) && decide (ord < 4) && decide (s < 2) && decide (la < 16) && decide (sc < 5)
  | .amomax d a sc ord s la =>
    decide (d < 32) && decide (a < 32) && decide (sc < 8) && decide (ord < 4) && decide (s < 2) && decide (la < 16) && decide (sc < 5)
  | .amominu d a sc ord s la =>
    decide (d < 32) && decide (a < 32) && decide (sc < 8) && decide (ord < 4) && decide (s < 2) && decide (la < 16) && decide (sc < 5)
  | .amomaxu d a sc ord s la =>
    decide (d < 32) && decide (a < 32) && decide (sc < 8) && decide (ord < 4) && decide (s < 2) && decide (la < 16) && decide (sc < 5)
  | .amoswap d a sc ord s la =>
    decide (d < 32) && decide (a < 32) && decide (sc < 8) && decide (ord < 4) && decide (s < 2) && decide (la < 16) && decide (sc < 5)
  | .amocas d a sc ord s la =>
    decide (d < 32) && decide (a < 32) && decide (sc < 8) && decide (ord < 4) && decide (s < 2) && decide (la < 16) && decide (sc < 5) && decide (d < 31)
  | .amofadd d a sc ord s la =>
    decide (d < 32) && decide (a < 32) && decide (sc < 8) && decide (ord < 4) && decide (s < 2) && decide (la < 16) && decide (sc < 5)
  | .amoaddNr d a sc ord s =>
    decide (d < 32) && decide (a < 32) && decide (sc < 8) && decide (ord < 4) && decide (s < 2) && decide (sc < 5)
  | .amoandNr d a sc ord s =>
    decide (d < 32) && decide (a < 32) && decide (sc < 8) && decide (ord < 4) && decide (s < 2) && decide (sc < 5)
  | .amoorNr d a sc ord s =>
    decide (d < 32) && decide (a < 32) && decide (sc < 8) && decide (ord < 4) && decide (s < 2) && decide (sc < 5)
  | .amoxorNr d a sc ord s =>
    decide (d < 32) && decide (a < 32) && decide (sc < 8) && decide (ord < 4) && decide (s < 2) && decide (sc < 5)
  | .amominNr d a sc ord s =>
    decide (d < 32) && decide (a < 32) && decide (sc < 8) && decide (ord < 4) && decide (s < 2) && decide (sc < 5)
  | .amomaxNr d a sc ord s =>
    decide (d < 32) && decide (a < 32) && decide (sc < 8) && decide (ord < 4) && decide (s < 2) && decide (sc < 5)
  | .amominuNr d a sc ord s =>
    decide (d < 32) && decide (a < 32) && decide (sc < 8) && decide (ord < 4) && decide (s < 2) && decide (sc < 5)
  | .amomaxuNr d a sc ord s =>
    decide (d < 32) && decide (a < 32) && decide (sc < 8) && decide (ord < 4) && decide (s < 2) && decide (sc < 5)
  | .amoswapNr d a sc ord s =>
    decide (d < 32) && decide (a < 32) && decide (sc < 8) && decide (ord < 4) && decide (s < 2) && decide (sc < 5)
  | .amofaddNr d a sc ord s =>
    decide (d < 32) && decide (a < 32) && decide (sc < 8) && decide (ord < 4) && decide (s < 2) && decide (sc < 5)
  | .fence sc => decide (sc < 8) && decide (sc < 5)
  | .fenceLd sc => decide (sc < 8) && decide (sc < 5)
  | .fenceSl sc => decide (sc < 8) && decide (sc < 5)
  | .fenceSt sc => decide (sc < 8) && decide (sc < 5)
  | .bar lv => decide (lv < 32)
  | .barGen lv => decide (lv < 32)
  | .bara lv => decide (lv < 32)
  | .barw lv => decide (lv < 32)
  | .sclk d => decide (d < 32)
  | .sclkInc d => decide (d < 32)
  | .send d a => decide (d < 32) && decide (a < 32)
  | .recv d ch la => decide (d < 32) && decide (ch < 8) && decide (la < 16)
  | .recvq d ch => decide (d < 32) && decide (ch < 8)
  | .pmrg d a b => decide (d < 32) && decide (a < 32) && decide (b < 32)
  | .cpy a => decide (a < 32)
  | .cpym a => decide (a < 32)
  | .permit d a b => decide (d < 32) && decide (a < 32) && decide (b < 32)
  | .ctwait d a => decide (d < 32) && decide (a < 32)
  | .ctwaitAll d a => decide (d < 32) && decide (a < 32)
  | .ctff d a => decide (d < 32) && decide (a < 32)
  | .ctclr a => decide (a < 32)
  | .gang n => decide (n < 32) && decide (1 ≤ n) && decide (n < 7)
  | .split => true
  | .halt => true
  | .haltK a => decide (a < 32)
  | .wait d a => decide (d < 32) && decide (a < 32)
  | .yield => true
  | .spawn d a b => decide (d < 32) && decide (a < 32) && decide (b < 32)
  | .mfs d a c num => decide (d < 32) && decide (a < 32) && decide (c < 32) && decide (num < 512)
  | .mts d a c num => decide (d < 32) && decide (a < 32) && decide (c < 32) && decide (num < 512)
  | .trap a => decide (a < 32)
  | .rft => true
  | .brk => true
  | .invx d a b => decide (d < 32) && decide (a < 32) && decide (b < 32)
  | .kzero a => decide (a < 32)
  | .lsclr d a => decide (d < 32) && decide (a < 32)
  | .svcr d a b => decide (d < 32) && decide (a < 32) && decide (b < 32)
  | .foffer d a b => decide (d < 32) && decide (a < 32) && decide (b < 32)
  | .fwithdraw d a b => decide (d < 32) && decide (a < 32) && decide (b < 32)
  | .faccept d a b => decide (d < 32) && decide (a < 32) && decide (b < 32)
  | .flend d a b => decide (d < 32) && decide (a < 32) && decide (b < 32)
  | .frecall d a b => decide (d < 32) && decide (a < 32) && decide (b < 32)
  | .freturn d a b => decide (d < 32) && decide (a < 32) && decide (b < 32)
  | .fquery d a => decide (d < 32) && decide (a < 32) && decide (d < 30)
  | .launch d a b => decide (d < 32) && decide (a < 32) && decide (b < 32)
  | .fcinc a b => decide (a < 32) && decide (b < 32)
  | .fcwait d a b => decide (d < 32) && decide (a < 32) && decide (b < 32)
  | .fcread d a => decide (d < 32) && decide (a < 32)
  | .vmov16 d s g => decide (d < 32) && decide (s < 32) && decide (g < 2)
  | .vadd16 d s g => decide (d < 32) && decide (s < 32) && decide (g < 2)
  | .vsub16 d s g => decide (d < 32) && decide (s < 32) && decide (g < 2)
  | .vmul16 d s g => decide (d < 32) && decide (s < 32) && decide (g < 2)
  | .vand16 d s g => decide (d < 32) && decide (s < 32) && decide (g < 2)
  | .vor16 d s g => decide (d < 32) && decide (s < 32) && decide (g < 2)
  | .vxor16 d s g => decide (d < 32) && decide (s < 32) && decide (g < 2)
  | .vmin16 d s g => decide (d < 32) && decide (s < 32) && decide (g < 2)
  | .vmax16 d s g => decide (d < 32) && decide (s < 32) && decide (g < 2)
  | .vshl16 d s g => decide (d < 32) && decide (s < 32) && decide (g < 2)
  | .vsar16 d s g => decide (d < 32) && decide (s < 32) && decide (g < 2)
  | .vfadd16 d s g => decide (d < 32) && decide (s < 32) && decide (g < 2)
  | .vfsub16 d s g => decide (d < 32) && decide (s < 32) && decide (g < 2)
  | .vfmul16 d s g => decide (d < 32) && decide (s < 32) && decide (g < 2)
  | .vfmax16 d s g => decide (d < 32) && decide (s < 32) && decide (g < 2)
  | .vfmin16 d s g => decide (d < 32) && decide (s < 32) && decide (g < 2)
  | .vmov d x b p z t =>
    decide (d < 32) && decide (x < 32) && decide (b < 32) && decide (p < 8) && decide (z < 2) && decide (t < 4)
  | .vadd d a b p z t =>
    decide (d < 32) && decide (a < 32) && decide (b < 32) && decide (p < 8) && decide (z < 2) && decide (t < 4)
  | .vsub d a b p z t =>
    decide (d < 32) && decide (a < 32) && decide (b < 32) && decide (p < 8) && decide (z < 2) && decide (t < 4)
  | .vmul d a b p z t =>
    decide (d < 32) && decide (a < 32) && decide (b < 32) && decide (p < 8) && decide (z < 2) && decide (t < 4)
  | .vmulh d a b p z t =>
    decide (d < 32) && decide (a < 32) && decide (b < 32) && decide (p < 8) && decide (z < 2) && decide (t < 4)
  | .vmulhU d a b p z t =>
    decide (d < 32) && decide (a < 32) && decide (b < 32) && decide (p < 8) && decide (z < 2) && decide (t < 4)
  | .vmin d a b p z t =>
    decide (d < 32) && decide (a < 32) && decide (b < 32) && decide (p < 8) && decide (z < 2) && decide (t < 4)
  | .vmax d a b p z t =>
    decide (d < 32) && decide (a < 32) && decide (b < 32) && decide (p < 8) && decide (z < 2) && decide (t < 4)
  | .vminU d a b p z t =>
    decide (d < 32) && decide (a < 32) && decide (b < 32) && decide (p < 8) && decide (z < 2) && decide (t < 4)
  | .vmaxU d a b p z t =>
    decide (d < 32) && decide (a < 32) && decide (b < 32) && decide (p < 8) && decide (z < 2) && decide (t < 4)
  | .vaddSat d a b p z t =>
    decide (d < 32) && decide (a < 32) && decide (b < 32) && decide (p < 8) && decide (z < 2) && decide (t < 4)
  | .vsubSat d a b p z t =>
    decide (d < 32) && decide (a < 32) && decide (b < 32) && decide (p < 8) && decide (z < 2) && decide (t < 4)
  | .vand d a b p z t =>
    decide (d < 32) && decide (a < 32) && decide (b < 32) && decide (p < 8) && decide (z < 2) && decide (t < 4)
  | .vor d a b p z t =>
    decide (d < 32) && decide (a < 32) && decide (b < 32) && decide (p < 8) && decide (z < 2) && decide (t < 4)
  | .vxor d a b p z t =>
    decide (d < 32) && decide (a < 32) && decide (b < 32) && decide (p < 8) && decide (z < 2) && decide (t < 4)
  | .vshl d a b p z t =>
    decide (d < 32) && decide (a < 32) && decide (b < 32) && decide (p < 8) && decide (z < 2) && decide (t < 4)
  | .vshr d a b p z t =>
    decide (d < 32) && decide (a < 32) && decide (b < 32) && decide (p < 8) && decide (z < 2) && decide (t < 4)
  | .vsar d a b p z t =>
    decide (d < 32) && decide (a < 32) && decide (b < 32) && decide (p < 8) && decide (z < 2) && decide (t < 4)
  | .vabs d a p z t => decide (d < 32) && decide (a < 32) && decide (p < 8) && decide (z < 2) && decide (t < 4)
  | .vabsSat d a p z t => decide (d < 32) && decide (a < 32) && decide (p < 8) && decide (z < 2) && decide (t < 4)
  | .vcmpEq d a b p z t =>
    decide (d < 8) && decide (a < 32) && decide (b < 32) && decide (p < 8) && decide (z < 2) && decide (t < 4)
  | .vcmpNe d a b p z t =>
    decide (d < 8) && decide (a < 32) && decide (b < 32) && decide (p < 8) && decide (z < 2) && decide (t < 4)
  | .vcmpLt d a b p z t =>
    decide (d < 8) && decide (a < 32) && decide (b < 32) && decide (p < 8) && decide (z < 2) && decide (t < 4)
  | .vcmpGe d a b p z t =>
    decide (d < 8) && decide (a < 32) && decide (b < 32) && decide (p < 8) && decide (z < 2) && decide (t < 4)
  | .vcmpLtu d a b p z t =>
    decide (d < 8) && decide (a < 32) && decide (b < 32) && decide (p < 8) && decide (z < 2) && decide (t < 4)
  | .vcmpGeu d a b p z t =>
    decide (d < 8) && decide (a < 32) && decide (b < 32) && decide (p < 8) && decide (z < 2) && decide (t < 4)
  | .vsel d a b p t => decide (d < 32) && decide (a < 32) && decide (b < 32) && decide (p < 8) && decide (t < 4)
  | .pand d a b => decide (d < 8) && decide (a < 8) && decide (b < 8)
  | .por d a b => decide (d < 8) && decide (a < 8) && decide (b < 8)
  | .pxor d a b => decide (d < 8) && decide (a < 8) && decide (b < 8)
  | .pnot d a => decide (d < 8) && decide (a < 8)
  | .pfirst d a t => decide (d < 8) && decide (a < 8) && decide (t < 4)
  | .pcnt d a t => decide (d < 32) && decide (a < 8) && decide (t < 4)
  | .vqlen d => decide (d < 32)
  | .vbound d a b t => decide (d < 8) && decide (a < 32) && decide (b < 32) && decide (t < 4)
  | .vbcast d a p z t => decide (d < 32) && decide (a < 32) && decide (p < 8) && decide (z < 2) && decide (t < 4)
  | .vext d a b t => decide (d < 32) && decide (a < 32) && decide (b < 32) && decide (t < 4)
  | .vextSx d a b t => decide (d < 32) && decide (a < 32) && decide (b < 32) && decide (t < 4)
  | .vins d a b t => decide (d < 32) && decide (a < 32) && decide (b < 32) && decide (t < 4)
  | .vperm d a b p z t =>
    decide (d < 32) && decide (a < 32) && decide (b < 32) && decide (p < 8) && decide (z < 2) && decide (t < 4)
  | .vred d a p t op => decide (d < 32) && decide (a < 32) && decide (p < 8) && decide (t < 4) && decide (op < 8)
  | .vscan d a p z t op =>
    decide (d < 32) && decide (a < 32) && decide (p < 8) && decide (z < 2) && decide (t < 4) && decide (op < 8)
  | .vld d a p z t la =>
    decide (d < 32) && decide (a < 32) && decide (p < 8) && decide (z < 2) && decide (t < 4) && decide (la < 16)
  | .vlds d a p z t la =>
    decide (d < 32) && decide (a < 32) && decide (p < 8) && decide (z < 2) && decide (t < 4) && decide (la < 16) && decide (a < 31)
  | .vgath d a b p z t la =>
    decide (d < 32) && decide (a < 32) && decide (b < 32) && decide (p < 8) && decide (z < 2) && decide (t < 4) && decide (la < 16) && decide (2 ≤ b)
  | .vst d a p t => decide (d < 32) && decide (a < 32) && decide (p < 8) && decide (t < 4)
  | .vsts d a b p t => decide (d < 32) && decide (a < 32) && decide (b < 32) && decide (p < 8) && decide (t < 4)
  | .vscat d a b p t => decide (d < 32) && decide (a < 32) && decide (b < 32) && decide (p < 8) && decide (t < 4)
  | .vfadd d a b p z t =>
    decide (d < 32) && decide (a < 32) && decide (b < 32) && decide (p < 8) && decide (z < 2) && decide (t < 4) && decide (t < 3)
  | .vfsub d a b p z t =>
    decide (d < 32) && decide (a < 32) && decide (b < 32) && decide (p < 8) && decide (z < 2) && decide (t < 4) && decide (t < 3)
  | .vfmul d a b p z t =>
    decide (d < 32) && decide (a < 32) && decide (b < 32) && decide (p < 8) && decide (z < 2) && decide (t < 4) && decide (t < 3)
  | .vfmin d a b p z t =>
    decide (d < 32) && decide (a < 32) && decide (b < 32) && decide (p < 8) && decide (z < 2) && decide (t < 4) && decide (t < 3)
  | .vfmax d a b p z t =>
    decide (d < 32) && decide (a < 32) && decide (b < 32) && decide (p < 8) && decide (z < 2) && decide (t < 4) && decide (t < 3)
  | .vfcmpEq d a b p z t =>
    decide (d < 8) && decide (a < 32) && decide (b < 32) && decide (p < 8) && decide (z < 2) && decide (t < 4) && decide (t < 3)
  | .vfcmpNe d a b p z t =>
    decide (d < 8) && decide (a < 32) && decide (b < 32) && decide (p < 8) && decide (z < 2) && decide (t < 4) && decide (t < 3)
  | .vfcmpLt d a b p z t =>
    decide (d < 8) && decide (a < 32) && decide (b < 32) && decide (p < 8) && decide (z < 2) && decide (t < 4) && decide (t < 3)
  | .vfcmpLe d a b p z t =>
    decide (d < 8) && decide (a < 32) && decide (b < 32) && decide (p < 8) && decide (z < 2) && decide (t < 4) && decide (t < 3)
  | .vfcmpGt d a b p z t =>
    decide (d < 8) && decide (a < 32) && decide (b < 32) && decide (p < 8) && decide (z < 2) && decide (t < 4) && decide (t < 3)
  | .vfcmpGe d a b p z t =>
    decide (d < 8) && decide (a < 32) && decide (b < 32) && decide (p < 8) && decide (z < 2) && decide (t < 4) && decide (t < 3)
  | .vfcmpUn d a b p z t =>
    decide (d < 8) && decide (a < 32) && decide (b < 32) && decide (p < 8) && decide (z < 2) && decide (t < 4) && decide (t < 3)
  | .vfma d a b p z t np na =>
    decide (d < 32) && decide (a < 32) && decide (b < 32) && decide (p < 8) && decide (z < 2) && decide (t < 4) && decide (np < 2) && decide (na < 2) && decide (t < 3)
  | .vcvt d a src sat p z mode dst =>
    decide (d < 32) && decide (a < 32) && decide (src < 16) && decide (sat < 2) && decide (p < 8) && decide (z < 2) && decide (mode < 4) && decide (dst < 16) && decide (dst < 9) && decide (src < 9) && decide (mode < 3)
  | .vdot d a b fmt sat la =>
    decide (d < 32) && decide (a < 32) && decide (b < 32) && decide (fmt < 8) && decide (sat < 2) && decide (la < 16)
  | .vclmul d a b hi la =>
    decide (d < 32) && decide (a < 32) && decide (b < 32) && decide (hi < 2) && decide (la < 16)
  | .vsfn d a fn p z t la =>
    decide (d < 32) && decide (a < 32) && decide (fn < 32) && decide (p < 8) && decide (z < 2) && decide (t < 4) && decide (la < 16) && decide (t < 3) && decide (fn < 8)
  | .tmma acc dA dB fA fB la =>
    decide (acc < 4) && decide (dA < 64) && decide (dB < 64) && decide (fA < 4) && decide (fB < 4) && decide (la < 16)
  | .tmmaSat acc dA dB fA fB la =>
    decide (acc < 4) && decide (dA < 64) && decide (dB < 64) && decide (fA < 4) && decide (fB < 4) && decide (la < 16)
  | .tmmac acc dA dB fA fB la =>
    decide (acc < 4) && decide (dA < 64) && decide (dB < 64) && decide (fA < 4) && decide (fB < 4) && decide (la < 16)
  | .tmmacSat acc dA dB fA fB la =>
    decide (acc < 4) && decide (dA < 64) && decide (dB < 64) && decide (fA < 4) && decide (fB < 4) && decide (la < 16)
  | .tmmx acc dA dB fA fB la =>
    decide (acc < 4) && decide (dA < 64) && decide (dB < 64) && decide (fA < 4) && decide (fB < 4) && decide (la < 16)
  | .tadd acc dA fA la => decide (acc < 4) && decide (dA < 64) && decide (fA < 4) && decide (la < 16)
  | .tmul acc dA fA la => decide (acc < 4) && decide (dA < 64) && decide (fA < 4) && decide (la < 16)
  | .tact acc fn la => decide (acc < 4) && decide (fn < 64) && decide (la < 16) && decide (fn < 4)
  | .tred acc fn la => decide (acc < 4) && decide (fn < 64) && decide (la < 16) && decide (fn < 2)
  | .ttrn acc la => decide (acc < 4) && decide (la < 16)
  | .tcvt acc ty mode la =>
    decide (acc < 4) && decide (ty < 2) && decide (mode < 4) && decide (la < 16) && decide (mode < 3)
  | .tzero acc ty la => decide (acc < 4) && decide (ty < 2) && decide (la < 16)
  | .tst acc dA sat mode la =>
    decide (acc < 4) && decide (dA < 64) && decide (sat < 2) && decide (mode < 4) && decide (la < 16) && decide (mode < 3)
  | .tdesc dA ra la => decide (dA < 64) && decide (ra < 32) && decide (la < 16)
  | .tdrd dA ra la => decide (dA < 64) && decide (ra < 32) && decide (la < 16)
  | .tuprog ra la => decide (ra < 32) && decide (la < 16)
  | .trec => true
  | .trece => true
  | .tmark ra => decide (ra < 32)
  | .trev la => decide (la < 16)
  | .tlogq ra => decide (ra < 32)
  | .throttleEnd => true
  | .putComplete => true
  | .ruleLoadComplete => true

end Sys2Proof
end

