-- ==== Sys2Proof/Decode.lean ====
section
/-! DEFINITION. The decoder, total on any bytes, and the encoder, both from the format and minor tables of
10_encoding (R243 to R254) and of the instruction chapters. -/

namespace Sys2Proof

/-- Why bytes are not an instruction. -/
inductive DecodeError where
  | truncated               -- fewer bytes than the length rule of R243 needs
  | unassigned (w : Nat)    -- a reserved major, an unassigned minor, or a field that must be 0 (R254)
  | illFormed (i : Instr)   -- a field code that the owning chapter does not assign (R254)
  deriving DecidableEq, Repr

/-- Bits `lo + len - 1 : lo` of a word. -/
abbrev fld (w lo len : Nat) : Nat := w / 2 ^ lo % 2 ^ len

/-- Major 0x00 (R253): ADD, SUB, MUL, MULH, MULHU, DIV, DIVU, REM, REMU, AND, OR, XOR, ANDN, SHL, SHR, SAR, ROL, . -/
def decodeMajor00 (w : Nat) : Option Instr :=
  match fld w 22 6 with
  | 0 =>
    if fld w 28 4 = 0 then some (.add (fld w 7 5) (fld w 12 5) (fld w 17 5)) else
    none
  | 1 =>
    if fld w 28 4 = 0 then some (.sub (fld w 7 5) (fld w 12 5) (fld w 17 5)) else
    none
  | 2 =>
    if fld w 28 4 = 0 then some (.mul (fld w 7 5) (fld w 12 5) (fld w 17 5)) else
    none
  | 3 =>
    if fld w 28 4 = 0 then some (.mulh (fld w 7 5) (fld w 12 5) (fld w 17 5)) else
    none
  | 4 =>
    if fld w 28 4 = 0 then some (.mulhu (fld w 7 5) (fld w 12 5) (fld w 17 5)) else
    none
  | 5 =>
    if fld w 28 4 = 0 then some (.div (fld w 7 5) (fld w 12 5) (fld w 17 5)) else
    none
  | 6 =>
    if fld w 28 4 = 0 then some (.divu (fld w 7 5) (fld w 12 5) (fld w 17 5)) else
    none
  | 7 =>
    if fld w 28 4 = 0 then some (.rem (fld w 7 5) (fld w 12 5) (fld w 17 5)) else
    none
  | 8 =>
    if fld w 28 4 = 0 then some (.remu (fld w 7 5) (fld w 12 5) (fld w 17 5)) else
    none
  | 9 =>
    if fld w 28 4 = 0 then some (.and (fld w 7 5) (fld w 12 5) (fld w 17 5)) else
    none
  | 10 =>
    if fld w 28 4 = 0 then some (.or (fld w 7 5) (fld w 12 5) (fld w 17 5)) else
    none
  | 11 =>
    if fld w 28 4 = 0 then some (.xor (fld w 7 5) (fld w 12 5) (fld w 17 5)) else
    none
  | 12 =>
    if fld w 28 4 = 0 then some (.andn (fld w 7 5) (fld w 12 5) (fld w 17 5)) else
    none
  | 13 =>
    if fld w 28 4 = 0 then some (.shl (fld w 7 5) (fld w 12 5) (fld w 17 5)) else
    none
  | 14 =>
    if fld w 28 4 = 0 then some (.shr (fld w 7 5) (fld w 12 5) (fld w 17 5)) else
    none
  | 15 =>
    if fld w 28 4 = 0 then some (.sar (fld w 7 5) (fld w 12 5) (fld w 17 5)) else
    none
  | 16 =>
    if fld w 28 4 = 0 then some (.rol (fld w 7 5) (fld w 12 5) (fld w 17 5)) else
    none
  | 17 =>
    if fld w 17 5 = 0 ∧ fld w 28 4 = 0 then some (.clz (fld w 7 5) (fld w 12 5)) else
    none
  | 18 =>
    if fld w 17 5 = 0 ∧ fld w 28 4 = 0 then some (.ctz (fld w 7 5) (fld w 12 5)) else
    none
  | 19 =>
    if fld w 17 5 = 0 ∧ fld w 28 4 = 0 then some (.popc (fld w 7 5) (fld w 12 5)) else
    none
  | 20 =>
    if fld w 28 4 = 0 then some (.min (fld w 7 5) (fld w 12 5) (fld w 17 5)) else
    none
  | 21 =>
    if fld w 28 4 = 0 then some (.max (fld w 7 5) (fld w 12 5) (fld w 17 5)) else
    none
  | 22 =>
    if fld w 28 4 = 0 then some (.minu (fld w 7 5) (fld w 12 5) (fld w 17 5)) else
    none
  | 23 =>
    if fld w 28 4 = 0 then some (.maxu (fld w 7 5) (fld w 12 5) (fld w 17 5)) else
    none
  | 24 =>
    if fld w 28 4 = 0 then some (.slt (fld w 7 5) (fld w 12 5) (fld w 17 5)) else
    none
  | 25 =>
    if fld w 28 4 = 0 then some (.sltu (fld w 7 5) (fld w 12 5) (fld w 17 5)) else
    none
  | 26 =>
    if fld w 28 4 = 0 then some (.seq (fld w 7 5) (fld w 12 5) (fld w 17 5)) else
    none
  | _ => none

/-- Major 0x01 (R253): ADDI. -/
def decodeMajor01 (w : Nat) : Option Instr :=
  some (.addi (fld w 7 5) (fld w 12 5) (fld w 17 15))

/-- Major 0x02 (R253): ANDI. -/
def decodeMajor02 (w : Nat) : Option Instr :=
  some (.andi (fld w 7 5) (fld w 12 5) (fld w 17 15))

/-- Major 0x03 (R253): ORI. -/
def decodeMajor03 (w : Nat) : Option Instr :=
  some (.ori (fld w 7 5) (fld w 12 5) (fld w 17 15))

/-- Major 0x04 (R253): XORI. -/
def decodeMajor04 (w : Nat) : Option Instr :=
  some (.xori (fld w 7 5) (fld w 12 5) (fld w 17 15))

/-- Major 0x05 (R253): SLTI. -/
def decodeMajor05 (w : Nat) : Option Instr :=
  some (.slti (fld w 7 5) (fld w 12 5) (fld w 17 15))

/-- Major 0x06 (R253): SHLI, SHRI, SARI, ROLI. -/
def decodeMajor06 (w : Nat) : Option Instr :=
  match fld w 23 2 with
  | 0 =>
    if fld w 25 7 = 0 then some (.shli (fld w 7 5) (fld w 12 5) (fld w 17 6)) else
    none
  | 1 =>
    if fld w 25 7 = 0 then some (.shri (fld w 7 5) (fld w 12 5) (fld w 17 6)) else
    none
  | 2 =>
    if fld w 25 7 = 0 then some (.sari (fld w 7 5) (fld w 12 5) (fld w 17 6)) else
    none
  | 3 =>
    if fld w 25 7 = 0 then some (.roli (fld w 7 5) (fld w 12 5) (fld w 17 6)) else
    none
  | _ => none

/-- Major 0x07 (R253): IMMH. -/
def decodeMajor07 (w : Nat) : Option Instr :=
  some (.immh (fld w 7 5) (fld w 12 20))

/-- Major 0x08 (R253): LEA, BFX, BFX_SX, BFI, CLMUL, CLMULH. -/
def decodeMajor08 (w : Nat) : Option Instr :=
  match fld w 22 6 with
  | 0 => some (.lea (fld w 7 5) (fld w 12 5) (fld w 17 5) (fld w 28 4))
  | 1 =>
    if fld w 28 4 = 0 then some (.bfx (fld w 7 5) (fld w 12 5) (fld w 17 5)) else
    if fld w 28 4 = 1 then some (.bfxSx (fld w 7 5) (fld w 12 5) (fld w 17 5)) else
    none
  | 2 =>
    if fld w 28 4 = 0 then some (.bfi (fld w 7 5) (fld w 12 5) (fld w 17 5)) else
    none
  | 3 =>
    if fld w 28 4 = 0 then some (.clmul (fld w 7 5) (fld w 12 5) (fld w 17 5)) else
    none
  | 4 =>
    if fld w 28 4 = 0 then some (.clmulh (fld w 7 5) (fld w 12 5) (fld w 17 5)) else
    none
  | _ => none

/-- Major 0x09 (R253): BCC. -/
def decodeMajor09 (w : Nat) : Option Instr :=
  some (.bcc (fld w 7 5) (fld w 12 5) (fld w 17 3) (fld w 20 12))

/-- Major 0x0A (R253): BZ. -/
def decodeMajor0A (w : Nat) : Option Instr :=
  if fld w 12 5 = 0 then some (.bz (fld w 7 5) (fld w 17 3) (fld w 20 12)) else
  none

/-- Major 0x0B (R253): J. -/
def decodeMajor0B (w : Nat) : Option Instr :=
  some (.j (fld w 7 25))

/-- Major 0x0C (R253): CALL. -/
def decodeMajor0C (w : Nat) : Option Instr :=
  some (.call (fld w 7 4) (fld w 11 21))

/-- Major 0x0D (R253): PAD. -/
def decodeMajor0D (w : Nat) : Option Instr :=
  if fld w 7 5 = 0 ∧ fld w 28 4 = 0 then some (.pad (fld w 12 16)) else
  none

/-- Major 0x0E (R253): JTAB, CALLT. -/
def decodeMajor0E (w : Nat) : Option Instr :=
  match fld w 22 6 with
  | 0 =>
    if fld w 28 4 = 0 then some (.jtab (fld w 7 5) (fld w 12 5) (fld w 17 5)) else
    none
  | 1 => some (.callt (fld w 7 5) (fld w 12 5) (fld w 17 5) (fld w 28 4))
  | _ => none

/-- Major 0x0F (R253): RET, LOOP, REP. -/
def decodeMajor0F (w : Nat) : Option Instr :=
  match fld w 7 5 with
  | 0 =>
    if fld w 12 20 = 0 then some .ret else
    none
  | 1 => some (.loop (fld w 12 5) (fld w 17 15))
  | 2 =>
    if fld w 12 5 = 0 ∧ fld w 26 6 = 0 then some (.rep (fld w 17 6) (fld w 23 3)) else
    none
  | _ => none

/-- Major 0x10 (R253): LD, LDU. -/
def decodeMajor10 (w : Nat) : Option Instr :=
  match fld w 19 1 with
  | 0 => some (.ld (fld w 7 5) (fld w 12 5) (fld w 17 2) (fld w 20 8) (fld w 28 4))
  | 1 => some (.ldu (fld w 7 5) (fld w 12 5) (fld w 17 2) (fld w 20 8) (fld w 28 4))
  | _ => none

/-- Major 0x11 (R253): ST. -/
def decodeMajor11 (w : Nat) : Option Instr :=
  if fld w 19 1 = 0 ∧ fld w 28 4 = 0 then some (.st (fld w 7 5) (fld w 12 5) (fld w 17 2) (fld w 20 8)) else
  none

/-- Major 0x12 (R253): LDX, STX. -/
def decodeMajor12 (w : Nat) : Option Instr :=
  match fld w 26 2 with
  | 0 =>
    if fld w 17 7 = 0 then some (.ldx (fld w 7 5) (fld w 12 5) (fld w 24 2) (fld w 28 4)) else
    none
  | 1 =>
    if fld w 17 7 = 0 ∧ fld w 28 4 = 0 then some (.stx (fld w 7 5) (fld w 12 5) (fld w 24 2)) else
    none
  | _ => none

/-- Major 0x13 (R253): LDACQ, STREL. -/
def decodeMajor13 (w : Nat) : Option Instr :=
  match fld w 26 2 with
  | 0 =>
    if fld w 20 4 = 0 then some (.ldacq (fld w 7 5) (fld w 12 5) (fld w 17 3) (fld w 24 2) (fld w 28 4)) else
    none
  | 1 =>
    if fld w 20 4 = 0 ∧ fld w 28 4 = 0 then some (.strel (fld w 7 5) (fld w 12 5) (fld w 17 3) (fld w 24 2)) else
    none
  | _ => none

/-- Major 0x14 (R253): LDF, LDF_E, STF. -/
def decodeMajor14 (w : Nat) : Option Instr :=
  match fld w 26 2 with
  | 0 =>
    if fld w 20 4 = 0 ∧ fld w 25 1 = 1 then some (.ldf (fld w 7 5) (fld w 12 5) (fld w 17 3) (fld w 24 1) (fld w 28 4)) else
    none
  | 1 =>
    if fld w 20 4 = 0 ∧ fld w 25 1 = 1 then some (.ldfE (fld w 7 5) (fld w 12 5) (fld w 17 3) (fld w 24 1) (fld w 28 4)) else
    none
  | 2 =>
    if fld w 20 4 = 0 ∧ fld w 25 1 = 1 ∧ fld w 28 4 = 0 then some (.stf (fld w 7 5) (fld w 12 5) (fld w 17 3) (fld w 24 1)) else
    none
  | _ => none

/-- Major 0x15 (R253): AMOADD, AMOAND, AMOOR, AMOXOR, AMOMIN, AMOMAX, AMOMINU, AMOMAXU, AMOSWAP, AMOCAS, AMOFADD,. -/
def decodeMajor15 (w : Nat) : Option Instr :=
  match fld w 24 4 with
  | 0 =>
    if fld w 22 1 = 0 then some (.amoadd (fld w 7 5) (fld w 12 5) (fld w 17 3) (fld w 20 2) (fld w 23 1) (fld w 28 4)) else
    if fld w 22 1 = 1 ∧ fld w 28 4 = 0 then some (.amoaddNr (fld w 7 5) (fld w 12 5) (fld w 17 3) (fld w 20 2) (fld w 23 1)) else
    none
  | 1 =>
    if fld w 22 1 = 0 then some (.amoand (fld w 7 5) (fld w 12 5) (fld w 17 3) (fld w 20 2) (fld w 23 1) (fld w 28 4)) else
    if fld w 22 1 = 1 ∧ fld w 28 4 = 0 then some (.amoandNr (fld w 7 5) (fld w 12 5) (fld w 17 3) (fld w 20 2) (fld w 23 1)) else
    none
  | 2 =>
    if fld w 22 1 = 0 then some (.amoor (fld w 7 5) (fld w 12 5) (fld w 17 3) (fld w 20 2) (fld w 23 1) (fld w 28 4)) else
    if fld w 22 1 = 1 ∧ fld w 28 4 = 0 then some (.amoorNr (fld w 7 5) (fld w 12 5) (fld w 17 3) (fld w 20 2) (fld w 23 1)) else
    none
  | 3 =>
    if fld w 22 1 = 0 then some (.amoxor (fld w 7 5) (fld w 12 5) (fld w 17 3) (fld w 20 2) (fld w 23 1) (fld w 28 4)) else
    if fld w 22 1 = 1 ∧ fld w 28 4 = 0 then some (.amoxorNr (fld w 7 5) (fld w 12 5) (fld w 17 3) (fld w 20 2) (fld w 23 1)) else
    none
  | 4 =>
    if fld w 22 1 = 0 then some (.amomin (fld w 7 5) (fld w 12 5) (fld w 17 3) (fld w 20 2) (fld w 23 1) (fld w 28 4)) else
    if fld w 22 1 = 1 ∧ fld w 28 4 = 0 then some (.amominNr (fld w 7 5) (fld w 12 5) (fld w 17 3) (fld w 20 2) (fld w 23 1)) else
    none
  | 5 =>
    if fld w 22 1 = 0 then some (.amomax (fld w 7 5) (fld w 12 5) (fld w 17 3) (fld w 20 2) (fld w 23 1) (fld w 28 4)) else
    if fld w 22 1 = 1 ∧ fld w 28 4 = 0 then some (.amomaxNr (fld w 7 5) (fld w 12 5) (fld w 17 3) (fld w 20 2) (fld w 23 1)) else
    none
  | 6 =>
    if fld w 22 1 = 0 then some (.amominu (fld w 7 5) (fld w 12 5) (fld w 17 3) (fld w 20 2) (fld w 23 1) (fld w 28 4)) else
    if fld w 22 1 = 1 ∧ fld w 28 4 = 0 then some (.amominuNr (fld w 7 5) (fld w 12 5) (fld w 17 3) (fld w 20 2) (fld w 23 1)) else
    none
  | 7 =>
    if fld w 22 1 = 0 then some (.amomaxu (fld w 7 5) (fld w 12 5) (fld w 17 3) (fld w 20 2) (fld w 23 1) (fld w 28 4)) else
    if fld w 22 1 = 1 ∧ fld w 28 4 = 0 then some (.amomaxuNr (fld w 7 5) (fld w 12 5) (fld w 17 3) (fld w 20 2) (fld w 23 1)) else
    none
  | 8 =>
    if fld w 22 1 = 0 then some (.amoswap (fld w 7 5) (fld w 12 5) (fld w 17 3) (fld w 20 2) (fld w 23 1) (fld w 28 4)) else
    if fld w 22 1 = 1 ∧ fld w 28 4 = 0 then some (.amoswapNr (fld w 7 5) (fld w 12 5) (fld w 17 3) (fld w 20 2) (fld w 23 1)) else
    none
  | 9 =>
    if fld w 22 1 = 0 then some (.amocas (fld w 7 5) (fld w 12 5) (fld w 17 3) (fld w 20 2) (fld w 23 1) (fld w 28 4)) else
    none
  | 10 =>
    if fld w 22 1 = 0 then some (.amofadd (fld w 7 5) (fld w 12 5) (fld w 17 3) (fld w 20 2) (fld w 23 1) (fld w 28 4)) else
    if fld w 22 1 = 1 ∧ fld w 28 4 = 0 then some (.amofaddNr (fld w 7 5) (fld w 12 5) (fld w 17 3) (fld w 20 2) (fld w 23 1)) else
    none
  | _ => none

/-- Major 0x16 (R253): FENCE, FENCE_LD, FENCE_SL, FENCE_ST, BAR, BAR_GEN, BARA, BARW, SCLK, SCLK_INC. -/
def decodeMajor16 (w : Nat) : Option Instr :=
  match fld w 22 6 with
  | 0 =>
    if fld w 7 10 = 0 ∧ fld w 20 2 = 0 ∧ fld w 28 4 = 15 then some (.fence (fld w 17 3)) else
    if fld w 7 10 = 0 ∧ fld w 20 2 = 0 ∧ fld w 28 4 = 3 then some (.fenceLd (fld w 17 3)) else
    if fld w 7 10 = 0 ∧ fld w 20 2 = 0 ∧ fld w 28 4 = 4 then some (.fenceSl (fld w 17 3)) else
    if fld w 7 10 = 0 ∧ fld w 20 2 = 0 ∧ fld w 28 4 = 8 then some (.fenceSt (fld w 17 3)) else
    none
  | 1 =>
    if fld w 7 10 = 0 ∧ fld w 28 4 = 0 then some (.bar (fld w 17 5)) else
    if fld w 7 10 = 0 ∧ fld w 28 4 = 1 then some (.barGen (fld w 17 5)) else
    none
  | 2 =>
    if fld w 7 10 = 0 ∧ fld w 28 4 = 0 then some (.bara (fld w 17 5)) else
    none
  | 3 =>
    if fld w 7 10 = 0 ∧ fld w 28 4 = 0 then some (.barw (fld w 17 5)) else
    none
  | 4 =>
    if fld w 12 10 = 0 ∧ fld w 28 4 = 0 then some (.sclk (fld w 7 5)) else
    if fld w 12 10 = 0 ∧ fld w 28 4 = 1 then some (.sclkInc (fld w 7 5)) else
    none
  | _ => none

/-- Major 0x18 (R253): SEND, RECV, RECVQ, PMRG. -/
def decodeMajor18 (w : Nat) : Option Instr :=
  match fld w 22 6 with
  | 0 =>
    if fld w 17 5 = 0 ∧ fld w 28 4 = 0 then some (.send (fld w 7 5) (fld w 12 5)) else
    none
  | 1 =>
    if fld w 12 5 = 0 ∧ fld w 20 2 = 0 then some (.recv (fld w 7 5) (fld w 17 3) (fld w 28 4)) else
    none
  | 2 =>
    if fld w 12 5 = 0 ∧ fld w 20 2 = 0 ∧ fld w 28 4 = 0 then some (.recvq (fld w 7 5) (fld w 17 3)) else
    none
  | 3 =>
    if fld w 28 4 = 0 then some (.pmrg (fld w 7 5) (fld w 12 5) (fld w 17 5)) else
    none
  | _ => none

/-- Major 0x19 (R253): CPY, CPYM, PERMIT. -/
def decodeMajor19 (w : Nat) : Option Instr :=
  match fld w 22 6 with
  | 0 =>
    if fld w 7 5 = 0 ∧ fld w 17 5 = 0 ∧ fld w 28 4 = 0 then some (.cpy (fld w 12 5)) else
    none
  | 1 =>
    if fld w 7 5 = 0 ∧ fld w 17 5 = 0 ∧ fld w 28 4 = 0 then some (.cpym (fld w 12 5)) else
    none
  | 2 =>
    if fld w 28 4 = 0 then some (.permit (fld w 7 5) (fld w 12 5) (fld w 17 5)) else
    none
  | _ => none

/-- Major 0x1A (R253): CTWAIT, CTWAIT_ALL, CTFF, CTCLR. -/
def decodeMajor1A (w : Nat) : Option Instr :=
  match fld w 22 6 with
  | 0 =>
    if fld w 17 5 = 0 ∧ fld w 28 4 = 0 then some (.ctwait (fld w 7 5) (fld w 12 5)) else
    if fld w 17 5 = 0 ∧ fld w 28 4 = 1 then some (.ctwaitAll (fld w 7 5) (fld w 12 5)) else
    none
  | 1 =>
    if fld w 17 5 = 0 ∧ fld w 28 4 = 0 then some (.ctff (fld w 7 5) (fld w 12 5)) else
    none
  | 2 =>
    if fld w 7 5 = 0 ∧ fld w 17 5 = 0 ∧ fld w 28 4 = 0 then some (.ctclr (fld w 12 5)) else
    none
  | _ => none

/-- Major 0x1C (R253): SPILLW, FILLW. -/
def decodeMajor1C (w : Nat) : Option Instr :=
  match fld w 22 6 with
  | 0 =>
    if fld w 7 15 = 0 ∧ fld w 28 4 = 0 then some .spillw else
    none
  | 1 =>
    if fld w 7 15 = 0 ∧ fld w 28 4 = 0 then some .fillw else
    none
  | _ => none

/-- Major 0x1D (R253): GANG, SPLIT, HALT, HALT_K, WAIT, YIELD, SPAWN. -/
def decodeMajor1D (w : Nat) : Option Instr :=
  match fld w 22 6 with
  | 0 =>
    if fld w 7 10 = 0 ∧ fld w 28 4 = 0 then some (.gang (fld w 17 5)) else
    none
  | 1 =>
    if fld w 7 15 = 0 ∧ fld w 28 4 = 0 then some .split else
    none
  | 2 =>
    if fld w 7 15 = 0 ∧ fld w 28 4 = 0 then some .halt else
    if fld w 7 5 = 0 ∧ fld w 17 5 = 0 ∧ fld w 28 4 = 1 then some (.haltK (fld w 12 5)) else
    none
  | 3 =>
    if fld w 17 5 = 0 ∧ fld w 28 4 = 0 then some (.wait (fld w 7 5) (fld w 12 5)) else
    none
  | 4 =>
    if fld w 7 15 = 0 ∧ fld w 28 4 = 0 then some .yield else
    none
  | 5 =>
    if fld w 28 4 = 0 then some (.spawn (fld w 7 5) (fld w 12 5) (fld w 17 5)) else
    none
  | _ => none

/-- Major 0x20 (R253): VMOV, VADD, VSUB, VMUL, VMULH, VMULH_U, VMIN, VMAX, VMIN_U, VMAX_U, VADD_SAT, VSUB_SAT, VA. -/
def decodeMajor20 (w : Nat) : Option Instr :=
  match fld w 28 4 with
  | 0 => some (.vmov (fld w 7 5) (fld w 12 5) (fld w 17 5) (fld w 22 3) (fld w 25 1) (fld w 26 2))
  | 1 => some (.vadd (fld w 7 5) (fld w 12 5) (fld w 17 5) (fld w 22 3) (fld w 25 1) (fld w 26 2))
  | 2 => some (.vsub (fld w 7 5) (fld w 12 5) (fld w 17 5) (fld w 22 3) (fld w 25 1) (fld w 26 2))
  | 3 => some (.vmul (fld w 7 5) (fld w 12 5) (fld w 17 5) (fld w 22 3) (fld w 25 1) (fld w 26 2))
  | 4 => some (.vmulh (fld w 7 5) (fld w 12 5) (fld w 17 5) (fld w 22 3) (fld w 25 1) (fld w 26 2))
  | 5 => some (.vmulhU (fld w 7 5) (fld w 12 5) (fld w 17 5) (fld w 22 3) (fld w 25 1) (fld w 26 2))
  | 6 => some (.vmin (fld w 7 5) (fld w 12 5) (fld w 17 5) (fld w 22 3) (fld w 25 1) (fld w 26 2))
  | 7 => some (.vmax (fld w 7 5) (fld w 12 5) (fld w 17 5) (fld w 22 3) (fld w 25 1) (fld w 26 2))
  | 8 => some (.vminU (fld w 7 5) (fld w 12 5) (fld w 17 5) (fld w 22 3) (fld w 25 1) (fld w 26 2))
  | 9 => some (.vmaxU (fld w 7 5) (fld w 12 5) (fld w 17 5) (fld w 22 3) (fld w 25 1) (fld w 26 2))
  | 10 => some (.vaddSat (fld w 7 5) (fld w 12 5) (fld w 17 5) (fld w 22 3) (fld w 25 1) (fld w 26 2))
  | 11 => some (.vsubSat (fld w 7 5) (fld w 12 5) (fld w 17 5) (fld w 22 3) (fld w 25 1) (fld w 26 2))
  | 12 => some (.vand (fld w 7 5) (fld w 12 5) (fld w 17 5) (fld w 22 3) (fld w 25 1) (fld w 26 2))
  | 13 => some (.vor (fld w 7 5) (fld w 12 5) (fld w 17 5) (fld w 22 3) (fld w 25 1) (fld w 26 2))
  | 14 => some (.vxor (fld w 7 5) (fld w 12 5) (fld w 17 5) (fld w 22 3) (fld w 25 1) (fld w 26 2))
  | _ => none

/-- Major 0x21 (R253): VSHL, VSHR, VSAR, VABS, VABS_SAT, VCMP_EQ, VCMP_NE, VCMP_LT, VCMP_GE, VCMP_LTU, VCMP_GEU, . -/
def decodeMajor21 (w : Nat) : Option Instr :=
  match fld w 28 4 with
  | 0 => some (.vshl (fld w 7 5) (fld w 12 5) (fld w 17 5) (fld w 22 3) (fld w 25 1) (fld w 26 2))
  | 1 => some (.vshr (fld w 7 5) (fld w 12 5) (fld w 17 5) (fld w 22 3) (fld w 25 1) (fld w 26 2))
  | 2 => some (.vsar (fld w 7 5) (fld w 12 5) (fld w 17 5) (fld w 22 3) (fld w 25 1) (fld w 26 2))
  | 3 =>
    if fld w 17 5 = 0 then some (.vabs (fld w 7 5) (fld w 12 5) (fld w 22 3) (fld w 25 1) (fld w 26 2)) else
    none
  | 4 =>
    if fld w 17 5 = 0 then some (.vabsSat (fld w 7 5) (fld w 12 5) (fld w 22 3) (fld w 25 1) (fld w 26 2)) else
    none
  | 5 =>
    if fld w 10 2 = 0 then some (.vcmpEq (fld w 7 3) (fld w 12 5) (fld w 17 5) (fld w 22 3) (fld w 25 1) (fld w 26 2)) else
    none
  | 6 =>
    if fld w 10 2 = 0 then some (.vcmpNe (fld w 7 3) (fld w 12 5) (fld w 17 5) (fld w 22 3) (fld w 25 1) (fld w 26 2)) else
    none
  | 7 =>
    if fld w 10 2 = 0 then some (.vcmpLt (fld w 7 3) (fld w 12 5) (fld w 17 5) (fld w 22 3) (fld w 25 1) (fld w 26 2)) else
    none
  | 8 =>
    if fld w 10 2 = 0 then some (.vcmpGe (fld w 7 3) (fld w 12 5) (fld w 17 5) (fld w 22 3) (fld w 25 1) (fld w 26 2)) else
    none
  | 9 =>
    if fld w 10 2 = 0 then some (.vcmpLtu (fld w 7 3) (fld w 12 5) (fld w 17 5) (fld w 22 3) (fld w 25 1) (fld w 26 2)) else
    none
  | 10 =>
    if fld w 10 2 = 0 then some (.vcmpGeu (fld w 7 3) (fld w 12 5) (fld w 17 5) (fld w 22 3) (fld w 25 1) (fld w 26 2)) else
    none
  | 11 =>
    if fld w 25 1 = 0 then some (.vsel (fld w 7 5) (fld w 12 5) (fld w 17 5) (fld w 22 3) (fld w 26 2)) else
    none
  | _ => none

/-- Major 0x22 (R253): PAND, POR, PXOR, PNOT, PFIRST, PCNT, VQLEN, VBOUND. -/
def decodeMajor22 (w : Nat) : Option Instr :=
  match fld w 28 4 with
  | 0 =>
    if fld w 10 2 = 0 ∧ fld w 15 2 = 0 ∧ fld w 20 8 = 0 then some (.pand (fld w 7 3) (fld w 12 3) (fld w 17 3)) else
    none
  | 1 =>
    if fld w 10 2 = 0 ∧ fld w 15 2 = 0 ∧ fld w 20 8 = 0 then some (.por (fld w 7 3) (fld w 12 3) (fld w 17 3)) else
    none
  | 2 =>
    if fld w 10 2 = 0 ∧ fld w 15 2 = 0 ∧ fld w 20 8 = 0 then some (.pxor (fld w 7 3) (fld w 12 3) (fld w 17 3)) else
    none
  | 3 =>
    if fld w 10 2 = 0 ∧ fld w 15 13 = 0 then some (.pnot (fld w 7 3) (fld w 12 3)) else
    none
  | 4 =>
    if fld w 10 2 = 0 ∧ fld w 15 11 = 0 then some (.pfirst (fld w 7 3) (fld w 12 3) (fld w 26 2)) else
    none
  | 5 =>
    if fld w 15 11 = 0 then some (.pcnt (fld w 7 5) (fld w 12 3) (fld w 26 2)) else
    none
  | 6 =>
    if fld w 12 16 = 0 then some (.vqlen (fld w 7 5)) else
    none
  | 7 =>
    if fld w 10 2 = 0 ∧ fld w 22 4 = 0 then some (.vbound (fld w 7 3) (fld w 12 5) (fld w 17 5) (fld w 26 2)) else
    none
  | _ => none

/-- Major 0x23 (R253): VBCAST, VEXT, VEXT_SX, VINS. -/
def decodeMajor23 (w : Nat) : Option Instr :=
  match fld w 28 4 with
  | 0 =>
    if fld w 17 5 = 0 then some (.vbcast (fld w 7 5) (fld w 12 5) (fld w 22 3) (fld w 25 1) (fld w 26 2)) else
    none
  | 1 =>
    if fld w 22 4 = 0 then some (.vext (fld w 7 5) (fld w 12 5) (fld w 17 5) (fld w 26 2)) else
    none
  | 2 =>
    if fld w 22 4 = 0 then some (.vextSx (fld w 7 5) (fld w 12 5) (fld w 17 5) (fld w 26 2)) else
    none
  | 3 =>
    if fld w 22 4 = 0 then some (.vins (fld w 7 5) (fld w 12 5) (fld w 17 5) (fld w 26 2)) else
    none
  | _ => none

/-- Major 0x24 (R253): VFADD, VFSUB, VFMUL, VFMIN, VFMAX, VFCMP_EQ, VFCMP_NE, VFCMP_LT, VFCMP_LE, VFCMP_GT, VFCMP. -/
def decodeMajor24 (w : Nat) : Option Instr :=
  match fld w 28 4 with
  | 0 => some (.vfadd (fld w 7 5) (fld w 12 5) (fld w 17 5) (fld w 22 3) (fld w 25 1) (fld w 26 2))
  | 1 => some (.vfsub (fld w 7 5) (fld w 12 5) (fld w 17 5) (fld w 22 3) (fld w 25 1) (fld w 26 2))
  | 2 => some (.vfmul (fld w 7 5) (fld w 12 5) (fld w 17 5) (fld w 22 3) (fld w 25 1) (fld w 26 2))
  | 3 => some (.vfmin (fld w 7 5) (fld w 12 5) (fld w 17 5) (fld w 22 3) (fld w 25 1) (fld w 26 2))
  | 4 => some (.vfmax (fld w 7 5) (fld w 12 5) (fld w 17 5) (fld w 22 3) (fld w 25 1) (fld w 26 2))
  | 5 =>
    if fld w 10 2 = 0 then some (.vfcmpEq (fld w 7 3) (fld w 12 5) (fld w 17 5) (fld w 22 3) (fld w 25 1) (fld w 26 2)) else
    none
  | 6 =>
    if fld w 10 2 = 0 then some (.vfcmpNe (fld w 7 3) (fld w 12 5) (fld w 17 5) (fld w 22 3) (fld w 25 1) (fld w 26 2)) else
    none
  | 7 =>
    if fld w 10 2 = 0 then some (.vfcmpLt (fld w 7 3) (fld w 12 5) (fld w 17 5) (fld w 22 3) (fld w 25 1) (fld w 26 2)) else
    none
  | 8 =>
    if fld w 10 2 = 0 then some (.vfcmpLe (fld w 7 3) (fld w 12 5) (fld w 17 5) (fld w 22 3) (fld w 25 1) (fld w 26 2)) else
    none
  | 9 =>
    if fld w 10 2 = 0 then some (.vfcmpGt (fld w 7 3) (fld w 12 5) (fld w 17 5) (fld w 22 3) (fld w 25 1) (fld w 26 2)) else
    none
  | 10 =>
    if fld w 10 2 = 0 then some (.vfcmpGe (fld w 7 3) (fld w 12 5) (fld w 17 5) (fld w 22 3) (fld w 25 1) (fld w 26 2)) else
    none
  | 11 =>
    if fld w 10 2 = 0 then some (.vfcmpUn (fld w 7 3) (fld w 12 5) (fld w 17 5) (fld w 22 3) (fld w 25 1) (fld w 26 2)) else
    none
  | _ => none

/-- Major 0x25 (R253): VFMA. -/
def decodeMajor25 (w : Nat) : Option Instr :=
  if fld w 30 2 = 0 then some (.vfma (fld w 7 5) (fld w 12 5) (fld w 17 5) (fld w 22 3) (fld w 25 1) (fld w 26 2) (fld w 28 1) (fld w 29 1)) else
  none

/-- Major 0x26 (R253): VCVT. -/
def decodeMajor26 (w : Nat) : Option Instr :=
  some (.vcvt (fld w 7 5) (fld w 12 5) (fld w 17 4) (fld w 21 1) (fld w 22 3) (fld w 25 1) (fld w 26 2) (fld w 28 4))

/-- Major 0x27 (R253): VDOT, VCLMUL. -/
def decodeMajor27 (w : Nat) : Option Instr :=
  match fld w 27 1 with
  | 0 =>
    if fld w 25 1 = 0 then some (.vdot (fld w 7 5) (fld w 12 5) (fld w 17 5) (fld w 22 3) (fld w 26 1) (fld w 28 4)) else
    none
  | 1 =>
    if fld w 22 3 = 0 ∧ fld w 26 1 = 0 then some (.vclmul (fld w 7 5) (fld w 12 5) (fld w 17 5) (fld w 25 1) (fld w 28 4)) else
    none
  | _ => none

/-- Major 0x28 (R253): VSFN. -/
def decodeMajor28 (w : Nat) : Option Instr :=
  some (.vsfn (fld w 7 5) (fld w 12 5) (fld w 17 5) (fld w 22 3) (fld w 25 1) (fld w 26 2) (fld w 28 4))

/-- Major 0x29 (R253): VPERM. -/
def decodeMajor29 (w : Nat) : Option Instr :=
  match fld w 28 4 with
  | 0 => some (.vperm (fld w 7 5) (fld w 12 5) (fld w 17 5) (fld w 22 3) (fld w 25 1) (fld w 26 2))
  | _ => none

/-- Major 0x2A (R253): VRED, VSCAN. -/
def decodeMajor2A (w : Nat) : Option Instr :=
  match fld w 31 1 with
  | 0 =>
    if fld w 17 5 = 0 ∧ fld w 25 1 = 0 then some (.vred (fld w 7 5) (fld w 12 5) (fld w 22 3) (fld w 26 2) (fld w 28 3)) else
    none
  | 1 =>
    if fld w 17 5 = 0 then some (.vscan (fld w 7 5) (fld w 12 5) (fld w 22 3) (fld w 25 1) (fld w 26 2) (fld w 28 3)) else
    none
  | _ => none

/-- Major 0x2B (R253): VLD, VLDS, VGATH. -/
def decodeMajor2B (w : Nat) : Option Instr :=
  match fld w 17 5 with
  | 0 => some (.vld (fld w 7 5) (fld w 12 5) (fld w 22 3) (fld w 25 1) (fld w 26 2) (fld w 28 4))
  | 1 => some (.vlds (fld w 7 5) (fld w 12 5) (fld w 22 3) (fld w 25 1) (fld w 26 2) (fld w 28 4))
  | _ => some (.vgath (fld w 7 5) (fld w 12 5) (fld w 17 5) (fld w 22 3) (fld w 25 1) (fld w 26 2) (fld w 28 4))

/-- Major 0x2C (R253): VST, VSTS, VSCAT. -/
def decodeMajor2C (w : Nat) : Option Instr :=
  match fld w 28 4 with
  | 0 =>
    if fld w 17 5 = 0 ∧ fld w 25 1 = 0 then some (.vst (fld w 7 5) (fld w 12 5) (fld w 22 3) (fld w 26 2)) else
    none
  | 1 =>
    if fld w 25 1 = 0 then some (.vsts (fld w 7 5) (fld w 12 5) (fld w 17 5) (fld w 22 3) (fld w 26 2)) else
    none
  | 2 =>
    if fld w 25 1 = 0 then some (.vscat (fld w 7 5) (fld w 12 5) (fld w 17 5) (fld w 22 3) (fld w 26 2)) else
    none
  | _ => none

/-- Major 0x30 (R253): TMMA, TMMA_SAT, TMMAC, TMMAC_SAT, TMMX. -/
def decodeMajor30 (w : Nat) : Option Instr :=
  match fld w 25 3 with
  | 0 => some (.tmma (fld w 7 2) (fld w 9 6) (fld w 15 6) (fld w 21 2) (fld w 23 2) (fld w 28 4))
  | 1 => some (.tmmaSat (fld w 7 2) (fld w 9 6) (fld w 15 6) (fld w 21 2) (fld w 23 2) (fld w 28 4))
  | 2 => some (.tmmac (fld w 7 2) (fld w 9 6) (fld w 15 6) (fld w 21 2) (fld w 23 2) (fld w 28 4))
  | 3 => some (.tmmacSat (fld w 7 2) (fld w 9 6) (fld w 15 6) (fld w 21 2) (fld w 23 2) (fld w 28 4))
  | 4 => some (.tmmx (fld w 7 2) (fld w 9 6) (fld w 15 6) (fld w 21 2) (fld w 23 2) (fld w 28 4))
  | _ => none

/-- Major 0x31 (R253): TADD, TMUL, TACT, TRED, TTRN, TCVT. -/
def decodeMajor31 (w : Nat) : Option Instr :=
  match fld w 25 3 with
  | 0 =>
    if fld w 15 6 = 0 ∧ fld w 23 2 = 0 then some (.tadd (fld w 7 2) (fld w 9 6) (fld w 21 2) (fld w 28 4)) else
    none
  | 1 =>
    if fld w 15 6 = 0 ∧ fld w 23 2 = 0 then some (.tmul (fld w 7 2) (fld w 9 6) (fld w 21 2) (fld w 28 4)) else
    none
  | 2 =>
    if fld w 9 6 = 0 ∧ fld w 21 4 = 0 then some (.tact (fld w 7 2) (fld w 15 6) (fld w 28 4)) else
    none
  | 3 =>
    if fld w 9 6 = 0 ∧ fld w 21 4 = 0 then some (.tred (fld w 7 2) (fld w 15 6) (fld w 28 4)) else
    none
  | 4 =>
    if fld w 9 16 = 0 then some (.ttrn (fld w 7 2) (fld w 28 4)) else
    none
  | 5 =>
    if fld w 9 12 = 0 ∧ fld w 24 1 = 0 then some (.tcvt (fld w 7 2) (fld w 21 1) (fld w 22 2) (fld w 28 4)) else
    none
  | _ => none

/-- Major 0x32 (R253): TZERO, TST. -/
def decodeMajor32 (w : Nat) : Option Instr :=
  match fld w 25 3 with
  | 0 =>
    if fld w 9 12 = 0 ∧ fld w 22 3 = 0 then some (.tzero (fld w 7 2) (fld w 21 1) (fld w 28 4)) else
    none
  | 1 =>
    if fld w 15 6 = 0 ∧ fld w 24 1 = 0 then some (.tst (fld w 7 2) (fld w 9 6) (fld w 21 1) (fld w 22 2) (fld w 28 4)) else
    none
  | _ => none

/-- Major 0x33 (R253): TDESC, TDRD, TUPROG. -/
def decodeMajor33 (w : Nat) : Option Instr :=
  match fld w 25 3 with
  | 0 =>
    if fld w 7 2 = 0 ∧ fld w 20 5 = 0 then some (.tdesc (fld w 9 6) (fld w 15 5) (fld w 28 4)) else
    none
  | 1 =>
    if fld w 7 2 = 0 ∧ fld w 20 5 = 0 then some (.tdrd (fld w 9 6) (fld w 15 5) (fld w 28 4)) else
    none
  | 2 =>
    if fld w 7 8 = 0 ∧ fld w 20 5 = 0 then some (.tuprog (fld w 15 5) (fld w 28 4)) else
    none
  | _ => none

/-- Major 0x34 (R253): TREC, TRECE, TMARK, TREV, TLOGQ. -/
def decodeMajor34 (w : Nat) : Option Instr :=
  match fld w 25 3 with
  | 0 =>
    if fld w 7 18 = 0 ∧ fld w 28 4 = 0 then some .trec else
    none
  | 1 =>
    if fld w 7 18 = 0 ∧ fld w 28 4 = 0 then some .trece else
    none
  | 2 =>
    if fld w 7 8 = 0 ∧ fld w 20 5 = 0 ∧ fld w 28 4 = 0 then some (.tmark (fld w 15 5)) else
    none
  | 3 =>
    if fld w 7 18 = 0 then some (.trev (fld w 28 4)) else
    none
  | 4 =>
    if fld w 7 8 = 0 ∧ fld w 20 5 = 0 ∧ fld w 28 4 = 0 then some (.tlogq (fld w 15 5)) else
    none
  | _ => none

/-- Major 0x38 (R253): MFS, MTS. -/
def decodeMajor38 (w : Nat) : Option Instr :=
  match fld w 22 1 with
  | 0 => some (.mfs (fld w 7 5) (fld w 12 5) (fld w 17 5) (fld w 23 9))
  | 1 => some (.mts (fld w 7 5) (fld w 12 5) (fld w 17 5) (fld w 23 9))
  | _ => none

/-- Major 0x39 (R253): TRAP, RFT, BRK. -/
def decodeMajor39 (w : Nat) : Option Instr :=
  match fld w 22 6 with
  | 0 =>
    if fld w 7 5 = 0 ∧ fld w 17 5 = 0 ∧ fld w 28 4 = 0 then some (.trap (fld w 12 5)) else
    none
  | 1 =>
    if fld w 7 15 = 0 ∧ fld w 28 4 = 0 then some .rft else
    none
  | 2 =>
    if fld w 7 15 = 0 ∧ fld w 28 4 = 0 then some .brk else
    none
  | _ => none

/-- Major 0x3A (R253): INVX, KZERO, LSCLR, SVCR. -/
def decodeMajor3A (w : Nat) : Option Instr :=
  match fld w 22 6 with
  | 0 =>
    if fld w 28 4 = 0 then some (.invx (fld w 7 5) (fld w 12 5) (fld w 17 5)) else
    none
  | 1 =>
    if fld w 7 5 = 0 ∧ fld w 17 5 = 0 ∧ fld w 28 4 = 0 then some (.kzero (fld w 12 5)) else
    none
  | 2 =>
    if fld w 17 5 = 0 ∧ fld w 28 4 = 0 then some (.lsclr (fld w 7 5) (fld w 12 5)) else
    none
  | 3 =>
    if fld w 28 4 = 0 then some (.svcr (fld w 7 5) (fld w 12 5) (fld w 17 5)) else
    none
  | _ => none

/-- Major 0x3B (R253): FOFFER, FWITHDRAW, FACCEPT, FLEND, FRECALL, FRETURN, FQUERY. -/
def decodeMajor3B (w : Nat) : Option Instr :=
  match fld w 22 6 with
  | 0 =>
    if fld w 28 4 = 0 then some (.foffer (fld w 7 5) (fld w 12 5) (fld w 17 5)) else
    none
  | 1 =>
    if fld w 28 4 = 0 then some (.fwithdraw (fld w 7 5) (fld w 12 5) (fld w 17 5)) else
    none
  | 2 =>
    if fld w 28 4 = 0 then some (.faccept (fld w 7 5) (fld w 12 5) (fld w 17 5)) else
    none
  | 3 =>
    if fld w 28 4 = 0 then some (.flend (fld w 7 5) (fld w 12 5) (fld w 17 5)) else
    none
  | 4 =>
    if fld w 28 4 = 0 then some (.frecall (fld w 7 5) (fld w 12 5) (fld w 17 5)) else
    none
  | 5 =>
    if fld w 28 4 = 0 then some (.freturn (fld w 7 5) (fld w 12 5) (fld w 17 5)) else
    none
  | 6 =>
    if fld w 17 5 = 0 ∧ fld w 28 4 = 0 then some (.fquery (fld w 7 5) (fld w 12 5)) else
    none
  | _ => none

/-- Major 0x3C (R253): LAUNCH, FCINC, FCWAIT, FCREAD. -/
def decodeMajor3C (w : Nat) : Option Instr :=
  match fld w 22 6 with
  | 0 =>
    if fld w 28 4 = 0 then some (.launch (fld w 7 5) (fld w 12 5) (fld w 17 5)) else
    none
  | 1 =>
    if fld w 7 5 = 0 ∧ fld w 28 4 = 0 then some (.fcinc (fld w 12 5) (fld w 17 5)) else
    none
  | 2 =>
    if fld w 28 4 = 0 then some (.fcwait (fld w 7 5) (fld w 12 5) (fld w 17 5)) else
    none
  | 3 =>
    if fld w 17 5 = 0 ∧ fld w 28 4 = 0 then some (.fcread (fld w 7 5) (fld w 12 5)) else
    none
  | _ => none

/-- The 32-bit instruction of a word whose bit 0 is 1, by its major opcode (R253), before the check of R254 on
assigned field codes. -/
def decodeRow32 (w : Nat) : Option Instr :=
  match fld w 1 6 with
  | 0 => decodeMajor00 w
  | 1 => decodeMajor01 w
  | 2 => decodeMajor02 w
  | 3 => decodeMajor03 w
  | 4 => decodeMajor04 w
  | 5 => decodeMajor05 w
  | 6 => decodeMajor06 w
  | 7 => decodeMajor07 w
  | 8 => decodeMajor08 w
  | 9 => decodeMajor09 w
  | 10 => decodeMajor0A w
  | 11 => decodeMajor0B w
  | 12 => decodeMajor0C w
  | 13 => decodeMajor0D w
  | 14 => decodeMajor0E w
  | 15 => decodeMajor0F w
  | 16 => decodeMajor10 w
  | 17 => decodeMajor11 w
  | 18 => decodeMajor12 w
  | 19 => decodeMajor13 w
  | 20 => decodeMajor14 w
  | 21 => decodeMajor15 w
  | 22 => decodeMajor16 w
  | 24 => decodeMajor18 w
  | 25 => decodeMajor19 w
  | 26 => decodeMajor1A w
  | 28 => decodeMajor1C w
  | 29 => decodeMajor1D w
  | 32 => decodeMajor20 w
  | 33 => decodeMajor21 w
  | 34 => decodeMajor22 w
  | 35 => decodeMajor23 w
  | 36 => decodeMajor24 w
  | 37 => decodeMajor25 w
  | 38 => decodeMajor26 w
  | 39 => decodeMajor27 w
  | 40 => decodeMajor28 w
  | 41 => decodeMajor29 w
  | 42 => decodeMajor2A w
  | 43 => decodeMajor2B w
  | 44 => decodeMajor2C w
  | 48 => decodeMajor30 w
  | 49 => decodeMajor31 w
  | 50 => decodeMajor32 w
  | 51 => decodeMajor33 w
  | 52 => decodeMajor34 w
  | 56 => decodeMajor38 w
  | 57 => decodeMajor39 w
  | 58 => decodeMajor3A w
  | 59 => decodeMajor3B w
  | 60 => decodeMajor3C w
  | _ => none

/-- The 16-bit instruction of a halfword whose bit 0 is 0 (R246, R247): every such halfword is one. -/
def decodeRow16 (w : Nat) : Instr :=
  match fld w 1 4 with
  | 0 => .vmov16 (fld w 5 5) (fld w 10 5) (fld w 15 1)
  | 1 => .vadd16 (fld w 5 5) (fld w 10 5) (fld w 15 1)
  | 2 => .vsub16 (fld w 5 5) (fld w 10 5) (fld w 15 1)
  | 3 => .vmul16 (fld w 5 5) (fld w 10 5) (fld w 15 1)
  | 4 => .vand16 (fld w 5 5) (fld w 10 5) (fld w 15 1)
  | 5 => .vor16 (fld w 5 5) (fld w 10 5) (fld w 15 1)
  | 6 => .vxor16 (fld w 5 5) (fld w 10 5) (fld w 15 1)
  | 7 => .vmin16 (fld w 5 5) (fld w 10 5) (fld w 15 1)
  | 8 => .vmax16 (fld w 5 5) (fld w 10 5) (fld w 15 1)
  | 9 => .vshl16 (fld w 5 5) (fld w 10 5) (fld w 15 1)
  | 10 => .vsar16 (fld w 5 5) (fld w 10 5) (fld w 15 1)
  | 11 => .vfadd16 (fld w 5 5) (fld w 10 5) (fld w 15 1)
  | 12 => .vfsub16 (fld w 5 5) (fld w 10 5) (fld w 15 1)
  | 13 => .vfmul16 (fld w 5 5) (fld w 10 5) (fld w 15 1)
  | 14 => .vfmax16 (fld w 5 5) (fld w 10 5) (fld w 15 1)
  | _ => .vfmin16 (fld w 5 5) (fld w 10 5) (fld w 15 1)

/-- A word from its fixed bits and its fields, each with its lowest bit. -/
def word (m : Nat) (fs : List (Nat × Nat)) : Nat := fs.foldl (fun w f => w + f.1 * 2 ^ f.2) m

/-- The word of an instruction and its length in bytes, from the same tables; a step without an encoding has none. -/
def encode : Instr → Option (Nat × Nat)
  | .add d a b => some (word 0x1 [(d, 7), (a, 12), (b, 17)], 4)
  | .sub d a b => some (word 0x400001 [(d, 7), (a, 12), (b, 17)], 4)
  | .mul d a b => some (word 0x800001 [(d, 7), (a, 12), (b, 17)], 4)
  | .mulh d a b => some (word 0xC00001 [(d, 7), (a, 12), (b, 17)], 4)
  | .mulhu d a b => some (word 0x1000001 [(d, 7), (a, 12), (b, 17)], 4)
  | .div d a b => some (word 0x1400001 [(d, 7), (a, 12), (b, 17)], 4)
  | .divu d a b => some (word 0x1800001 [(d, 7), (a, 12), (b, 17)], 4)
  | .rem d a b => some (word 0x1C00001 [(d, 7), (a, 12), (b, 17)], 4)
  | .remu d a b => some (word 0x2000001 [(d, 7), (a, 12), (b, 17)], 4)
  | .and d a b => some (word 0x2400001 [(d, 7), (a, 12), (b, 17)], 4)
  | .or d a b => some (word 0x2800001 [(d, 7), (a, 12), (b, 17)], 4)
  | .xor d a b => some (word 0x2C00001 [(d, 7), (a, 12), (b, 17)], 4)
  | .andn d a b => some (word 0x3000001 [(d, 7), (a, 12), (b, 17)], 4)
  | .shl d a b => some (word 0x3400001 [(d, 7), (a, 12), (b, 17)], 4)
  | .shr d a b => some (word 0x3800001 [(d, 7), (a, 12), (b, 17)], 4)
  | .sar d a b => some (word 0x3C00001 [(d, 7), (a, 12), (b, 17)], 4)
  | .rol d a b => some (word 0x4000001 [(d, 7), (a, 12), (b, 17)], 4)
  | .clz d a => some (word 0x4400001 [(d, 7), (a, 12)], 4)
  | .ctz d a => some (word 0x4800001 [(d, 7), (a, 12)], 4)
  | .popc d a => some (word 0x4C00001 [(d, 7), (a, 12)], 4)
  | .min d a b => some (word 0x5000001 [(d, 7), (a, 12), (b, 17)], 4)
  | .max d a b => some (word 0x5400001 [(d, 7), (a, 12), (b, 17)], 4)
  | .minu d a b => some (word 0x5800001 [(d, 7), (a, 12), (b, 17)], 4)
  | .maxu d a b => some (word 0x5C00001 [(d, 7), (a, 12), (b, 17)], 4)
  | .slt d a b => some (word 0x6000001 [(d, 7), (a, 12), (b, 17)], 4)
  | .sltu d a b => some (word 0x6400001 [(d, 7), (a, 12), (b, 17)], 4)
  | .seq d a b => some (word 0x6800001 [(d, 7), (a, 12), (b, 17)], 4)
  | .addi d a imm => some (word 0x3 [(d, 7), (a, 12), (imm, 17)], 4)
  | .andi d a imm => some (word 0x5 [(d, 7), (a, 12), (imm, 17)], 4)
  | .ori d a imm => some (word 0x7 [(d, 7), (a, 12), (imm, 17)], 4)
  | .xori d a imm => some (word 0x9 [(d, 7), (a, 12), (imm, 17)], 4)
  | .slti d a imm => some (word 0xB [(d, 7), (a, 12), (imm, 17)], 4)
  | .shli d a n => some (word 0xD [(d, 7), (a, 12), (n, 17)], 4)
  | .shri d a n => some (word 0x80000D [(d, 7), (a, 12), (n, 17)], 4)
  | .sari d a n => some (word 0x100000D [(d, 7), (a, 12), (n, 17)], 4)
  | .roli d a n => some (word 0x180000D [(d, 7), (a, 12), (n, 17)], 4)
  | .immh d imm => some (word 0xF [(d, 7), (imm, 12)], 4)
  | .lea d a b s => some (word 0x11 [(d, 7), (a, 12), (b, 17), (s, 28)], 4)
  | .bfx d a b => some (word 0x400011 [(d, 7), (a, 12), (b, 17)], 4)
  | .bfxSx d a b => some (word 0x10400011 [(d, 7), (a, 12), (b, 17)], 4)
  | .bfi d a b => some (word 0x800011 [(d, 7), (a, 12), (b, 17)], 4)
  | .clmul d a b => some (word 0xC00011 [(d, 7), (a, 12), (b, 17)], 4)
  | .clmulh d a b => some (word 0x1000011 [(d, 7), (a, 12), (b, 17)], 4)
  | .bcc a b cond off => some (word 0x13 [(a, 7), (b, 12), (cond, 17), (off, 20)], 4)
  | .bz a cond off => some (word 0x15 [(a, 7), (cond, 17), (off, 20)], 4)
  | .j off => some (word 0x17 [(off, 7)], 4)
  | .call k off => some (word 0x19 [(k, 7), (off, 11)], 4)
  | .pad lab => some (word 0x1B [(lab, 12)], 4)
  | .jtab d a b => some (word 0x1D [(d, 7), (a, 12), (b, 17)], 4)
  | .callt d a b k => some (word 0x40001D [(d, 7), (a, 12), (b, 17), (k, 28)], 4)
  | .ret => some (word 0x1F [], 4)
  | .loop a imm => some (word 0x9F [(a, 12), (imm, 17)], 4)
  | .rep nm1 mask => some (word 0x11F [(nm1, 17), (mask, 23)], 4)
  | .spillw => some (word 0x39 [], 4)
  | .fillw => some (word 0x400039 [], 4)
  | .ld d base s off la => some (word 0x21 [(d, 7), (base, 12), (s, 17), (off, 20), (la, 28)], 4)
  | .ldu d base s off la => some (word 0x80021 [(d, 7), (base, 12), (s, 17), (off, 20), (la, 28)], 4)
  | .st d base s off => some (word 0x23 [(d, 7), (base, 12), (s, 17), (off, 20)], 4)
  | .ldx d a s la => some (word 0x25 [(d, 7), (a, 12), (s, 24), (la, 28)], 4)
  | .stx d a s => some (word 0x4000025 [(d, 7), (a, 12), (s, 24)], 4)
  | .ldacq d a sc s la => some (word 0x27 [(d, 7), (a, 12), (sc, 17), (s, 24), (la, 28)], 4)
  | .strel d a sc s => some (word 0x4000027 [(d, 7), (a, 12), (sc, 17), (s, 24)], 4)
  | .ldf d a sc s la => some (word 0x2000029 [(d, 7), (a, 12), (sc, 17), (s, 24), (la, 28)], 4)
  | .ldfE d a sc s la => some (word 0x6000029 [(d, 7), (a, 12), (sc, 17), (s, 24), (la, 28)], 4)
  | .stf d a sc s => some (word 0xA000029 [(d, 7), (a, 12), (sc, 17), (s, 24)], 4)
  | .amoadd d a sc ord s la => some (word 0x2B [(d, 7), (a, 12), (sc, 17), (ord, 20), (s, 23), (la, 28)], 4)
  | .amoand d a sc ord s la => some (word 0x100002B [(d, 7), (a, 12), (sc, 17), (ord, 20), (s, 23), (la, 28)], 4)
  | .amoor d a sc ord s la => some (word 0x200002B [(d, 7), (a, 12), (sc, 17), (ord, 20), (s, 23), (la, 28)], 4)
  | .amoxor d a sc ord s la => some (word 0x300002B [(d, 7), (a, 12), (sc, 17), (ord, 20), (s, 23), (la, 28)], 4)
  | .amomin d a sc ord s la => some (word 0x400002B [(d, 7), (a, 12), (sc, 17), (ord, 20), (s, 23), (la, 28)], 4)
  | .amomax d a sc ord s la => some (word 0x500002B [(d, 7), (a, 12), (sc, 17), (ord, 20), (s, 23), (la, 28)], 4)
  | .amominu d a sc ord s la => some (word 0x600002B [(d, 7), (a, 12), (sc, 17), (ord, 20), (s, 23), (la, 28)], 4)
  | .amomaxu d a sc ord s la => some (word 0x700002B [(d, 7), (a, 12), (sc, 17), (ord, 20), (s, 23), (la, 28)], 4)
  | .amoswap d a sc ord s la => some (word 0x800002B [(d, 7), (a, 12), (sc, 17), (ord, 20), (s, 23), (la, 28)], 4)
  | .amocas d a sc ord s la => some (word 0x900002B [(d, 7), (a, 12), (sc, 17), (ord, 20), (s, 23), (la, 28)], 4)
  | .amofadd d a sc ord s la => some (word 0xA00002B [(d, 7), (a, 12), (sc, 17), (ord, 20), (s, 23), (la, 28)], 4)
  | .amoaddNr d a sc ord s => some (word 0x40002B [(d, 7), (a, 12), (sc, 17), (ord, 20), (s, 23)], 4)
  | .amoandNr d a sc ord s => some (word 0x140002B [(d, 7), (a, 12), (sc, 17), (ord, 20), (s, 23)], 4)
  | .amoorNr d a sc ord s => some (word 0x240002B [(d, 7), (a, 12), (sc, 17), (ord, 20), (s, 23)], 4)
  | .amoxorNr d a sc ord s => some (word 0x340002B [(d, 7), (a, 12), (sc, 17), (ord, 20), (s, 23)], 4)
  | .amominNr d a sc ord s => some (word 0x440002B [(d, 7), (a, 12), (sc, 17), (ord, 20), (s, 23)], 4)
  | .amomaxNr d a sc ord s => some (word 0x540002B [(d, 7), (a, 12), (sc, 17), (ord, 20), (s, 23)], 4)
  | .amominuNr d a sc ord s => some (word 0x640002B [(d, 7), (a, 12), (sc, 17), (ord, 20), (s, 23)], 4)
  | .amomaxuNr d a sc ord s => some (word 0x740002B [(d, 7), (a, 12), (sc, 17), (ord, 20), (s, 23)], 4)
  | .amoswapNr d a sc ord s => some (word 0x840002B [(d, 7), (a, 12), (sc, 17), (ord, 20), (s, 23)], 4)
  | .amofaddNr d a sc ord s => some (word 0xA40002B [(d, 7), (a, 12), (sc, 17), (ord, 20), (s, 23)], 4)
  | .fence sc => some (word 0xF000002D [(sc, 17)], 4)
  | .fenceLd sc => some (word 0x3000002D [(sc, 17)], 4)
  | .fenceSl sc => some (word 0x4000002D [(sc, 17)], 4)
  | .fenceSt sc => some (word 0x8000002D [(sc, 17)], 4)
  | .bar lv => some (word 0x40002D [(lv, 17)], 4)
  | .barGen lv => some (word 0x1040002D [(lv, 17)], 4)
  | .bara lv => some (word 0x80002D [(lv, 17)], 4)
  | .barw lv => some (word 0xC0002D [(lv, 17)], 4)
  | .sclk d => some (word 0x100002D [(d, 7)], 4)
  | .sclkInc d => some (word 0x1100002D [(d, 7)], 4)
  | .send d a => some (word 0x31 [(d, 7), (a, 12)], 4)
  | .recv d ch la => some (word 0x400031 [(d, 7), (ch, 17), (la, 28)], 4)
  | .recvq d ch => some (word 0x800031 [(d, 7), (ch, 17)], 4)
  | .pmrg d a b => some (word 0xC00031 [(d, 7), (a, 12), (b, 17)], 4)
  | .cpy a => some (word 0x33 [(a, 12)], 4)
  | .cpym a => some (word 0x400033 [(a, 12)], 4)
  | .permit d a b => some (word 0x800033 [(d, 7), (a, 12), (b, 17)], 4)
  | .ctwait d a => some (word 0x35 [(d, 7), (a, 12)], 4)
  | .ctwaitAll d a => some (word 0x10000035 [(d, 7), (a, 12)], 4)
  | .ctff d a => some (word 0x400035 [(d, 7), (a, 12)], 4)
  | .ctclr a => some (word 0x800035 [(a, 12)], 4)
  | .gang n => some (word 0x3B [(n, 17)], 4)
  | .split => some (word 0x40003B [], 4)
  | .halt => some (word 0x80003B [], 4)
  | .haltK a => some (word 0x1080003B [(a, 12)], 4)
  | .wait d a => some (word 0xC0003B [(d, 7), (a, 12)], 4)
  | .yield => some (word 0x100003B [], 4)
  | .spawn d a b => some (word 0x140003B [(d, 7), (a, 12), (b, 17)], 4)
  | .mfs d a c num => some (word 0x71 [(d, 7), (a, 12), (c, 17), (num, 23)], 4)
  | .mts d a c num => some (word 0x400071 [(d, 7), (a, 12), (c, 17), (num, 23)], 4)
  | .trap a => some (word 0x73 [(a, 12)], 4)
  | .rft => some (word 0x400073 [], 4)
  | .brk => some (word 0x800073 [], 4)
  | .invx d a b => some (word 0x75 [(d, 7), (a, 12), (b, 17)], 4)
  | .kzero a => some (word 0x400075 [(a, 12)], 4)
  | .lsclr d a => some (word 0x800075 [(d, 7), (a, 12)], 4)
  | .svcr d a b => some (word 0xC00075 [(d, 7), (a, 12), (b, 17)], 4)
  | .foffer d a b => some (word 0x77 [(d, 7), (a, 12), (b, 17)], 4)
  | .fwithdraw d a b => some (word 0x400077 [(d, 7), (a, 12), (b, 17)], 4)
  | .faccept d a b => some (word 0x800077 [(d, 7), (a, 12), (b, 17)], 4)
  | .flend d a b => some (word 0xC00077 [(d, 7), (a, 12), (b, 17)], 4)
  | .frecall d a b => some (word 0x1000077 [(d, 7), (a, 12), (b, 17)], 4)
  | .freturn d a b => some (word 0x1400077 [(d, 7), (a, 12), (b, 17)], 4)
  | .fquery d a => some (word 0x1800077 [(d, 7), (a, 12)], 4)
  | .launch d a b => some (word 0x79 [(d, 7), (a, 12), (b, 17)], 4)
  | .fcinc a b => some (word 0x400079 [(a, 12), (b, 17)], 4)
  | .fcwait d a b => some (word 0x800079 [(d, 7), (a, 12), (b, 17)], 4)
  | .fcread d a => some (word 0xC00079 [(d, 7), (a, 12)], 4)
  | .vmov16 d s g => some (word 0x0 [(d, 5), (s, 10), (g, 15)], 2)
  | .vadd16 d s g => some (word 0x2 [(d, 5), (s, 10), (g, 15)], 2)
  | .vsub16 d s g => some (word 0x4 [(d, 5), (s, 10), (g, 15)], 2)
  | .vmul16 d s g => some (word 0x6 [(d, 5), (s, 10), (g, 15)], 2)
  | .vand16 d s g => some (word 0x8 [(d, 5), (s, 10), (g, 15)], 2)
  | .vor16 d s g => some (word 0xA [(d, 5), (s, 10), (g, 15)], 2)
  | .vxor16 d s g => some (word 0xC [(d, 5), (s, 10), (g, 15)], 2)
  | .vmin16 d s g => some (word 0xE [(d, 5), (s, 10), (g, 15)], 2)
  | .vmax16 d s g => some (word 0x10 [(d, 5), (s, 10), (g, 15)], 2)
  | .vshl16 d s g => some (word 0x12 [(d, 5), (s, 10), (g, 15)], 2)
  | .vsar16 d s g => some (word 0x14 [(d, 5), (s, 10), (g, 15)], 2)
  | .vfadd16 d s g => some (word 0x16 [(d, 5), (s, 10), (g, 15)], 2)
  | .vfsub16 d s g => some (word 0x18 [(d, 5), (s, 10), (g, 15)], 2)
  | .vfmul16 d s g => some (word 0x1A [(d, 5), (s, 10), (g, 15)], 2)
  | .vfmax16 d s g => some (word 0x1C [(d, 5), (s, 10), (g, 15)], 2)
  | .vfmin16 d s g => some (word 0x1E [(d, 5), (s, 10), (g, 15)], 2)
  | .vmov d x b p z t => some (word 0x41 [(d, 7), (x, 12), (b, 17), (p, 22), (z, 25), (t, 26)], 4)
  | .vadd d a b p z t => some (word 0x10000041 [(d, 7), (a, 12), (b, 17), (p, 22), (z, 25), (t, 26)], 4)
  | .vsub d a b p z t => some (word 0x20000041 [(d, 7), (a, 12), (b, 17), (p, 22), (z, 25), (t, 26)], 4)
  | .vmul d a b p z t => some (word 0x30000041 [(d, 7), (a, 12), (b, 17), (p, 22), (z, 25), (t, 26)], 4)
  | .vmulh d a b p z t => some (word 0x40000041 [(d, 7), (a, 12), (b, 17), (p, 22), (z, 25), (t, 26)], 4)
  | .vmulhU d a b p z t => some (word 0x50000041 [(d, 7), (a, 12), (b, 17), (p, 22), (z, 25), (t, 26)], 4)
  | .vmin d a b p z t => some (word 0x60000041 [(d, 7), (a, 12), (b, 17), (p, 22), (z, 25), (t, 26)], 4)
  | .vmax d a b p z t => some (word 0x70000041 [(d, 7), (a, 12), (b, 17), (p, 22), (z, 25), (t, 26)], 4)
  | .vminU d a b p z t => some (word 0x80000041 [(d, 7), (a, 12), (b, 17), (p, 22), (z, 25), (t, 26)], 4)
  | .vmaxU d a b p z t => some (word 0x90000041 [(d, 7), (a, 12), (b, 17), (p, 22), (z, 25), (t, 26)], 4)
  | .vaddSat d a b p z t => some (word 0xA0000041 [(d, 7), (a, 12), (b, 17), (p, 22), (z, 25), (t, 26)], 4)
  | .vsubSat d a b p z t => some (word 0xB0000041 [(d, 7), (a, 12), (b, 17), (p, 22), (z, 25), (t, 26)], 4)
  | .vand d a b p z t => some (word 0xC0000041 [(d, 7), (a, 12), (b, 17), (p, 22), (z, 25), (t, 26)], 4)
  | .vor d a b p z t => some (word 0xD0000041 [(d, 7), (a, 12), (b, 17), (p, 22), (z, 25), (t, 26)], 4)
  | .vxor d a b p z t => some (word 0xE0000041 [(d, 7), (a, 12), (b, 17), (p, 22), (z, 25), (t, 26)], 4)
  | .vshl d a b p z t => some (word 0x43 [(d, 7), (a, 12), (b, 17), (p, 22), (z, 25), (t, 26)], 4)
  | .vshr d a b p z t => some (word 0x10000043 [(d, 7), (a, 12), (b, 17), (p, 22), (z, 25), (t, 26)], 4)
  | .vsar d a b p z t => some (word 0x20000043 [(d, 7), (a, 12), (b, 17), (p, 22), (z, 25), (t, 26)], 4)
  | .vabs d a p z t => some (word 0x30000043 [(d, 7), (a, 12), (p, 22), (z, 25), (t, 26)], 4)
  | .vabsSat d a p z t => some (word 0x40000043 [(d, 7), (a, 12), (p, 22), (z, 25), (t, 26)], 4)
  | .vcmpEq d a b p z t => some (word 0x50000043 [(d, 7), (a, 12), (b, 17), (p, 22), (z, 25), (t, 26)], 4)
  | .vcmpNe d a b p z t => some (word 0x60000043 [(d, 7), (a, 12), (b, 17), (p, 22), (z, 25), (t, 26)], 4)
  | .vcmpLt d a b p z t => some (word 0x70000043 [(d, 7), (a, 12), (b, 17), (p, 22), (z, 25), (t, 26)], 4)
  | .vcmpGe d a b p z t => some (word 0x80000043 [(d, 7), (a, 12), (b, 17), (p, 22), (z, 25), (t, 26)], 4)
  | .vcmpLtu d a b p z t => some (word 0x90000043 [(d, 7), (a, 12), (b, 17), (p, 22), (z, 25), (t, 26)], 4)
  | .vcmpGeu d a b p z t => some (word 0xA0000043 [(d, 7), (a, 12), (b, 17), (p, 22), (z, 25), (t, 26)], 4)
  | .vsel d a b p t => some (word 0xB0000043 [(d, 7), (a, 12), (b, 17), (p, 22), (t, 26)], 4)
  | .pand d a b => some (word 0x45 [(d, 7), (a, 12), (b, 17)], 4)
  | .por d a b => some (word 0x10000045 [(d, 7), (a, 12), (b, 17)], 4)
  | .pxor d a b => some (word 0x20000045 [(d, 7), (a, 12), (b, 17)], 4)
  | .pnot d a => some (word 0x30000045 [(d, 7), (a, 12)], 4)
  | .pfirst d a t => some (word 0x40000045 [(d, 7), (a, 12), (t, 26)], 4)
  | .pcnt d a t => some (word 0x50000045 [(d, 7), (a, 12), (t, 26)], 4)
  | .vqlen d => some (word 0x60000045 [(d, 7)], 4)
  | .vbound d a b t => some (word 0x70000045 [(d, 7), (a, 12), (b, 17), (t, 26)], 4)
  | .vbcast d a p z t => some (word 0x47 [(d, 7), (a, 12), (p, 22), (z, 25), (t, 26)], 4)
  | .vext d a b t => some (word 0x10000047 [(d, 7), (a, 12), (b, 17), (t, 26)], 4)
  | .vextSx d a b t => some (word 0x20000047 [(d, 7), (a, 12), (b, 17), (t, 26)], 4)
  | .vins d a b t => some (word 0x30000047 [(d, 7), (a, 12), (b, 17), (t, 26)], 4)
  | .vperm d a b p z t => some (word 0x53 [(d, 7), (a, 12), (b, 17), (p, 22), (z, 25), (t, 26)], 4)
  | .vred d a p t op => some (word 0x55 [(d, 7), (a, 12), (p, 22), (t, 26), (op, 28)], 4)
  | .vscan d a p z t op => some (word 0x80000055 [(d, 7), (a, 12), (p, 22), (z, 25), (t, 26), (op, 28)], 4)
  | .vld d a p z t la => some (word 0x57 [(d, 7), (a, 12), (p, 22), (z, 25), (t, 26), (la, 28)], 4)
  | .vlds d a p z t la => some (word 0x20057 [(d, 7), (a, 12), (p, 22), (z, 25), (t, 26), (la, 28)], 4)
  | .vgath d a b p z t la => some (word 0x57 [(d, 7), (a, 12), (b, 17), (p, 22), (z, 25), (t, 26), (la, 28)], 4)
  | .vst d a p t => some (word 0x59 [(d, 7), (a, 12), (p, 22), (t, 26)], 4)
  | .vsts d a b p t => some (word 0x10000059 [(d, 7), (a, 12), (b, 17), (p, 22), (t, 26)], 4)
  | .vscat d a b p t => some (word 0x20000059 [(d, 7), (a, 12), (b, 17), (p, 22), (t, 26)], 4)
  | .vfadd d a b p z t => some (word 0x49 [(d, 7), (a, 12), (b, 17), (p, 22), (z, 25), (t, 26)], 4)
  | .vfsub d a b p z t => some (word 0x10000049 [(d, 7), (a, 12), (b, 17), (p, 22), (z, 25), (t, 26)], 4)
  | .vfmul d a b p z t => some (word 0x20000049 [(d, 7), (a, 12), (b, 17), (p, 22), (z, 25), (t, 26)], 4)
  | .vfmin d a b p z t => some (word 0x30000049 [(d, 7), (a, 12), (b, 17), (p, 22), (z, 25), (t, 26)], 4)
  | .vfmax d a b p z t => some (word 0x40000049 [(d, 7), (a, 12), (b, 17), (p, 22), (z, 25), (t, 26)], 4)
  | .vfcmpEq d a b p z t => some (word 0x50000049 [(d, 7), (a, 12), (b, 17), (p, 22), (z, 25), (t, 26)], 4)
  | .vfcmpNe d a b p z t => some (word 0x60000049 [(d, 7), (a, 12), (b, 17), (p, 22), (z, 25), (t, 26)], 4)
  | .vfcmpLt d a b p z t => some (word 0x70000049 [(d, 7), (a, 12), (b, 17), (p, 22), (z, 25), (t, 26)], 4)
  | .vfcmpLe d a b p z t => some (word 0x80000049 [(d, 7), (a, 12), (b, 17), (p, 22), (z, 25), (t, 26)], 4)
  | .vfcmpGt d a b p z t => some (word 0x90000049 [(d, 7), (a, 12), (b, 17), (p, 22), (z, 25), (t, 26)], 4)
  | .vfcmpGe d a b p z t => some (word 0xA0000049 [(d, 7), (a, 12), (b, 17), (p, 22), (z, 25), (t, 26)], 4)
  | .vfcmpUn d a b p z t => some (word 0xB0000049 [(d, 7), (a, 12), (b, 17), (p, 22), (z, 25), (t, 26)], 4)
  | .vfma d a b p z t np na => some (word 0x4B [(d, 7), (a, 12), (b, 17), (p, 22), (z, 25), (t, 26), (np, 28), (na, 29)], 4)
  | .vcvt d a src sat p z mode dst => some (word 0x4D [(d, 7), (a, 12), (src, 17), (sat, 21), (p, 22), (z, 25), (mode, 26), (dst, 28)], 4)
  | .vdot d a b fmt sat la => some (word 0x4F [(d, 7), (a, 12), (b, 17), (fmt, 22), (sat, 26), (la, 28)], 4)
  | .vclmul d a b hi la => some (word 0x800004F [(d, 7), (a, 12), (b, 17), (hi, 25), (la, 28)], 4)
  | .vsfn d a fn p z t la => some (word 0x51 [(d, 7), (a, 12), (fn, 17), (p, 22), (z, 25), (t, 26), (la, 28)], 4)
  | .tmma acc dA dB fA fB la => some (word 0x61 [(acc, 7), (dA, 9), (dB, 15), (fA, 21), (fB, 23), (la, 28)], 4)
  | .tmmaSat acc dA dB fA fB la => some (word 0x2000061 [(acc, 7), (dA, 9), (dB, 15), (fA, 21), (fB, 23), (la, 28)], 4)
  | .tmmac acc dA dB fA fB la => some (word 0x4000061 [(acc, 7), (dA, 9), (dB, 15), (fA, 21), (fB, 23), (la, 28)], 4)
  | .tmmacSat acc dA dB fA fB la => some (word 0x6000061 [(acc, 7), (dA, 9), (dB, 15), (fA, 21), (fB, 23), (la, 28)], 4)
  | .tmmx acc dA dB fA fB la => some (word 0x8000061 [(acc, 7), (dA, 9), (dB, 15), (fA, 21), (fB, 23), (la, 28)], 4)
  | .tadd acc dA fA la => some (word 0x63 [(acc, 7), (dA, 9), (fA, 21), (la, 28)], 4)
  | .tmul acc dA fA la => some (word 0x2000063 [(acc, 7), (dA, 9), (fA, 21), (la, 28)], 4)
  | .tact acc fn la => some (word 0x4000063 [(acc, 7), (fn, 15), (la, 28)], 4)
  | .tred acc fn la => some (word 0x6000063 [(acc, 7), (fn, 15), (la, 28)], 4)
  | .ttrn acc la => some (word 0x8000063 [(acc, 7), (la, 28)], 4)
  | .tcvt acc ty mode la => some (word 0xA000063 [(acc, 7), (ty, 21), (mode, 22), (la, 28)], 4)
  | .tzero acc ty la => some (word 0x65 [(acc, 7), (ty, 21), (la, 28)], 4)
  | .tst acc dA sat mode la => some (word 0x2000065 [(acc, 7), (dA, 9), (sat, 21), (mode, 22), (la, 28)], 4)
  | .tdesc dA ra la => some (word 0x67 [(dA, 9), (ra, 15), (la, 28)], 4)
  | .tdrd dA ra la => some (word 0x2000067 [(dA, 9), (ra, 15), (la, 28)], 4)
  | .tuprog ra la => some (word 0x4000067 [(ra, 15), (la, 28)], 4)
  | .trec => some (word 0x69 [], 4)
  | .trece => some (word 0x2000069 [], 4)
  | .tmark ra => some (word 0x4000069 [(ra, 15)], 4)
  | .trev la => some (word 0x6000069 [(la, 28)], 4)
  | .tlogq ra => some (word 0x8000069 [(ra, 15)], 4)
  | .coldReset  => none
  | .warmReset  => none
  | .clkLoad  => none
  | .passengerRelock  => none
  | .ptpExchange  => none
  | .ptpExchangeFail  => none
  | .dtimeWrap  => none
  | .timeRoleWrite  => none
  | .fenceTokenReturn  => none
  | .parapetThrottle  => none
  | .temperatureTrip  => none
  | .parCapWrite  => none
  | .spdmGetVersion  => none
  | .spdmGetCapabilities  => none
  | .spdmNegotiateAlgorithms  => none
  | .spdmGetDigests  => none
  | .spdmGetCertificate  => none
  | .spdmChallenge  => none
  | .spdmGetMeasurements  => none
  | .spdmKeyExchange  => none
  | .fwRecoveryImage  => none
  | .linkFlitReceive  => none
  | .flitReplay  => none
  | .linkDown  => none
  | .linkTrainingDone  => none
  | .portEnable  => none
  | .portDisable  => none
  | .portRetrainTimer  => none
  | .fabNodeWrite  => none
  | .remoteAccessInbound  => none
  | .collQbWrite  => none
  | .collAllreduce  => none
  | .collPut  => none
  | .allreduceComplete  => none
  | .collTimeout  => none
  | .collMemberLost  => none
  | .putReceive  => none
  | .ethFrameReceive  => none
  | .ingTailReread  => none
  | .pfcXoffResend  => none
  | .ingRuleLoad  => none
  | .ingRctlWrite  => none
  | .poolHclr  => none
  | .poolFailure  => none
  | .hostCxlMemAccess  => none
  | .hcwEnable  => none
  | .hcwDisable  => none
  | .hcwNop  => none
  | .hcwBadop  => none
  | .hcwFoffer  => none
  | .hcwFwithdraw  => none
  | .hcwFaccept  => none
  | .hcwFlend  => none
  | .hcwFrecall  => none
  | .hcwFreturn  => none
  | .hcwFquery  => none
  | .hcwClkplan  => none
  | .hcwFwchunk  => none
  | .hcwVfreset  => none
  | .hcwKboot  => none
  | .hcwEvreplay  => none
  | .hcwCmdstat  => none
  | .hcwAmsg  => none
  | .hcwEciWrite  => none
  | .revocationAck  => none
  | .recallDeadlineExpiry  => none
  | .frameRetire  => none
  | .recordRebuild  => none
  | .pierAccess  => none
  | .pierRowRepair  => none
  | .hotRowWindow  => none
  | .refreshWindowEnd  => none
  | .frecAevconWrite  => none
  | .frecAevConfigWrite  => none
  | .tenCfgEnable  => none
  | .tenCfgDisable  => none
  | .vfFlr  => none
  | .vfResetComplete  => none
  | .partEnable  => none
  | .partResize  => none
  | .partResizeCommit  => none
  | .partDisable  => none
  | .partExclSet  => none
  | .partExclDone  => none
  | .partExclClear  => none
  | .keyLoad  => none
  | .keyGen  => none
  | .scrubStart  => none
  | .scrubMarkEntry  => none
  | .scrubFrameCommit  => none
  | .scrubResume  => none
  | .schedQueueEnable  => none
  | .schedQueueDisable  => none
  | .vfDoorbell  => none
  | .schedDequeue  => none
  | .schedDealAccept  => none
  | .schedLeadershipMove  => none
  | .schedDrainWrite  => none
  | .shareDispatch  => none
  | .launchBarrierComplete  => none
  | .shareEnd  => none
  | .launchComplete  => none
  | .watchdogExpiry  => none
  | .schedEnd  => none
  | .sliceEnd  => none
  | .quiesceComplete  => none
  | .shareRestore  => none
  | .displacedShareSwitch  => none
  | .retentionExpiry  => none
  | .fcValWrite  => none
  | .longLatencyResult  => none
  | .spanEntryStart  => none
  | .gangForm  => none
  | .faultRecordDeliver  => none
  | .svcCoreWrite  => none
  | .interruptDelivery  => none
  | .sysIpiWrite  => none
  | .sysStartWrite  => none
  | .bootThreadStart  => none
  | .sideLogRetry  => none
  | .heldStoreEnter  => none
  | .slogRetry  => none
  | .slogDiscard  => none
  | .migStart  => none
  | .migDrainDone  => none
  | .migCopyDone  => none
  | .migCommit  => none
  | .migAbort  => none
  | .migScrubDone  => none
  | .placeMapWrite  => none
  | .hotClr  => none
  | .raceSweepDone  => none
  | .ldfResend  => none
  | .barrierComplete  => none
  | .messageAccept  => none
  | .copyComplete  => none
  | .waitTimeout  => none
  | .registerWrite  => none
  | .throttleEnd  => none
  | .putComplete  => none
  | .ruleLoadComplete  => none

/-- The instruction of a whole word of `nbits` bits: the table's row and then the check of R254. -/
def decodeWord32 (w : Nat) : Except DecodeError Instr :=
  match decodeRow32 w with
  | none => .error (.unassigned w)
  | some i => if i.wf then .ok i else .error (.illFormed i)

/-- The length in bytes of the instruction whose first halfword is `h0` (R243). -/
def lengthOf (h0 : Nat) : Nat := if h0 % 2 = 0 then 2 else 4

/-- The instruction at the front of a list of bytes and the bytes after it (R243; little-endian, R2). -/
def decode : List Byte → Except DecodeError (Instr × List Byte)
  | b0 :: b1 :: rest =>
    let h0 := b0.toNat + 256 * b1.toNat
    if h0 % 2 = 0 then .ok (decodeRow16 h0, rest)
    else match rest with
      | b2 :: b3 :: rest' =>
        match decodeWord32 (h0 + 65536 * (b2.toNat + 256 * b3.toNat)) with
        | .ok i => .ok (i, rest')
        | .error e => .error e
      | _ => .error .truncated
  | _ => .error .truncated

/-- The `n` low bytes of a number, lowest first (R2). -/
def bytesOf (w : Nat) : Nat → List Byte
  | 0 => []
  | n + 1 => BitVec.ofNat 8 (w % 256) :: bytesOf (w / 256) n

/-- The bytes of an instruction as memory holds them. -/
def encodeBytes (i : Instr) : Option (List Byte) := (encode i).map fun p => bytesOf p.1 p.2

/-- The instruction the decoder reads from an opcode-table word: the word laid out little-endian, zeros above it. -/
def decodeTableWord (_nbits w : Nat) : Option Instr :=
  match decode (bytesOf w 4) with
  | .ok (i, _) => some i
  | .error _ => none

end Sys2Proof
end

