-- ==== Sys2Proof/Machine/Bits.lean ====
section
/-! DEFINITION. Bit fields, extension and byte order (R2, R257). -/

namespace Sys2Proof.Machine

/-- Bits `hi:lo` of a number. -/
def bits (x hi lo : Nat) : Nat := x / 2 ^ lo % 2 ^ (hi + 1 - lo)

/-- Bit `i` of a number. -/
def bit (x i : Nat) : Bool := x.testBit i

/-- Bits `hi:lo` of a doubleword. -/
def wbits (x : Word) (hi lo : Nat) : Nat := bits x.toNat hi lo

/-- A doubleword with bits `hi:lo` replaced. -/
def putBits (x : Word) (hi lo v : Nat) : Word :=
  let m : Word := BitVec.ofNat 64 ((2 ^ (hi + 1 - lo) - 1) * 2 ^ lo)
  (x &&& ~~~m) ||| (BitVec.ofNat 64 (v * 2 ^ lo) &&& m)

/-- SignExt(x, n) of R257, to 64 bits. -/
def sx (n x : Nat) : Word := (BitVec.ofNat n x).signExtend 64

/-- ZeroExt(x, n) of R257, to 64 bits. -/
def zx (n x : Nat) : Word := (BitVec.ofNat n x).setWidth 64

/-- 1 for true, 0 for false. -/
def b2n (b : Bool) : Nat := if b then 1 else 0

/-- A number as a signed value of `n` bits (S(v)). -/
def sgn (n x : Nat) : Int := if 2 * (x % 2 ^ n) < 2 ^ n then Int.ofNat (x % 2 ^ n) else Int.ofNat (x % 2 ^ n) - 2 ^ n

/-- The `n`-bit code of an integer, wrapping. -/
def unsgn (n : Nat) (z : Int) : Nat := (z % (2 ^ n : Nat)).toNat

/-- `SignExt(a, 57)` of R155: an address with bits 63:57 copies of bit 56. -/
def canon (a : Nat) : Word := sx 57 (a % 2 ^ 57)

/-- A number's bytes put into a list, lowest first. -/
def toBytes : Nat → Nat → List Nat
  | _, 0 => []
  | x, n + 1 => x % 256 :: toBytes (x / 256) n

/-- A list of bytes read as a number, lowest first (R2). -/
def ofBytes : List Nat → Nat
  | [] => 0
  | b :: t => b % 256 + 256 * ofBytes t

/-- The low `n` bits of `x` replaced at bit `lo` of `v`. -/
def setField (v lo n x : Nat) : Nat :=
  v - bits v (lo + n - 1) lo * 2 ^ lo + x % 2 ^ n * 2 ^ lo

/-- Bits of a 64-B record at a byte offset. -/
def recField (r off n : Nat) : Nat := r / 256 ^ off % 256 ^ n

/-- A record from its fields: byte offset, size and value. -/
def mkRec (fs : List (Nat × Nat × Nat)) : Nat := fs.foldl (fun r f => r + f.2.2 % 256 ^ f.2.1 * 256 ^ f.1) 0

/-- The smallest index below `n` at which `f` holds. -/
def firstBelow (n : Nat) (f : Nat → Bool) : Option Nat := (List.range n).find? f

/-- log2 of a power of two. -/
def log2 (x : Nat) : Nat := Nat.log2 x

end Sys2Proof.Machine
end

