-- ==== Sys2Proof/Machine/Fp.lean ====
section
/-! DEFINITION. Number formats and arithmetic (11_numbers): every value is exact, and one function rounds. -/

namespace Sys2Proof.Machine

/-- An exact value of a floating-point format or of exact arithmetic on such values: `fin s m e` is
(−1)^s · m · 2^e. -/
inductive FVal where
  | nan
  | inf (s : Bool)
  | fin (s : Bool) (m : Nat) (e : Int)
  deriving DecidableEq, Repr

/-- A floating-point format (R260): exponent bits, fraction bits and whether its top exponent code holds infinity and
NaN (R263). -/
structure Fmt where
  ew : Nat
  mw : Nat
  special : Bool := true
  deriving DecidableEq, Repr

def fp32 : Fmt := { ew := 8, mw := 23 }
def fp16 : Fmt := { ew := 5, mw := 10 }
def bf16 : Fmt := { ew := 8, mw := 7 }
/-- FP8 E4M3 and E5M2 under `NXM` (R263). -/
def e4m3 (nxm : Bool) : Fmt := { ew := 4, mw := 3, special := nxm }
def e5m2 (nxm : Bool) : Fmt := { ew := 5, mw := 2, special := nxm }

def Fmt.width (f : Fmt) : Nat := 1 + f.ew + f.mw
def Fmt.bias (f : Fmt) : Nat := 2 ^ (f.ew - 1) - 1
/-- Exponent of the unit of a subnormal: value of the lowest fraction bit. -/
def Fmt.qmin (f : Fmt) : Int := 1 - (f.bias : Int) - f.mw
/-- Magnitude code of the largest finite value. -/
def Fmt.maxCode (f : Fmt) : Nat := if f.special then (2 ^ f.ew - 1) * 2 ^ f.mw - 1 else 2 ^ (f.ew + f.mw) - 1
/-- The default NaN (R261): sign 0, top exponent, and the highest fraction bit; E4M3 0x7C and E5M2 0x7E. -/
def Fmt.nanCode (f : Fmt) : Nat :=
  if f.special then (2 ^ f.ew - 1) * 2 ^ f.mw + 2 ^ (f.mw - 1) else 0
def Fmt.signBit (f : Fmt) : Nat := 2 ^ (f.ew + f.mw)

/-- The value of a code (R260, R263). -/
def Fmt.read (f : Fmt) (c : Nat) : FVal :=
  let s := c.testBit (f.ew + f.mw)
  let e := c / 2 ^ f.mw % 2 ^ f.ew
  let m := c % 2 ^ f.mw
  if e = 2 ^ f.ew - 1 ∧ f.special then (if m = 0 then .inf s else .nan)
  else if e = 0 then .fin s m f.qmin
  else .fin s (2 ^ f.mw + m) (f.qmin + (e - 1 : Nat))

/-- Rounding modes (R269); stochastic carries its draw r (R270). -/
inductive RMode where
  | rne
  | trunc
  | stoch (r : Nat)
  deriving DecidableEq, Repr

/-- Whether the magnitude k + rem/den rounds up to k + 1. -/
def roundUp (md : RMode) (k rem den : Nat) : Bool :=
  match md with
  | .rne => decide (2 * rem > den) || (decide (2 * rem = den) && decide (k % 2 = 1))
  | .trunc => false
  | .stoch r => decide (r < 2 ^ 16 * rem / den)

/-- m · 2^e scaled to the unit 2^q, rounded to an integer. -/
def roundScaled (md : RMode) (m : Nat) (e q : Int) : Nat :=
  if q ≤ e then m * 2 ^ (e - q).toNat
  else
    let den := 2 ^ (q - e).toNat
    let k := m / den
    if roundUp md k (m % den) den then k + 1 else k

/-- Round(x, f, m) of R258: the code of the exact value in the format (R269–R272). -/
def Fmt.round (f : Fmt) (md : RMode) (sat : Bool) (x : FVal) : Nat :=
  match x with
  | .nan => f.nanCode
  | .inf s => b2n s * f.signBit + (if f.special then f.maxCode + 1 else f.maxCode)
  | .fin s m e =>
    if m = 0 then b2n s * f.signBit
    else
      let q := max (e + (log2 m : Int) - f.mw) f.qmin
      let k := roundScaled md m e q
      let code := (q - f.qmin).toNat * 2 ^ f.mw + k
      b2n s * f.signBit +
        (if code ≤ f.maxCode then code
         else if sat || !f.special then f.maxCode
         else match md with | .trunc => f.maxCode | _ => f.maxCode + 1)

/-- A signed magnitude as an exact value; an exact zero is +0 (R261). -/
def FVal.ofInt (z e : Int) : FVal := .fin (decide (z < 0)) z.natAbs e

def FVal.neg : FVal → FVal
  | .nan => .nan
  | .inf s => .inf !s
  | .fin s m e => .fin (!s) m e

def FVal.isNan : FVal → Bool
  | .nan => true
  | _ => false

/-- The signed magnitude of a finite value at unit 2^q, q at most its exponent. -/
def FVal.atUnit (q : Int) : FVal → Int
  | .fin s m e => (if s then -1 else 1) * (m * 2 ^ (e - q).toNat : Nat)
  | _ => 0

/-- Exact product (R273, R274). -/
def FVal.mul (x y : FVal) : FVal :=
  match x, y with
  | .nan, _ => .nan
  | _, .nan => .nan
  | .inf s, .inf t => .inf (s != t)
  | .inf s, .fin t m _ => if m = 0 then .nan else .inf (s != t)
  | .fin s m _, .inf t => if m = 0 then .nan else .inf (s != t)
  | .fin s m e, .fin t n k => .fin (s != t) (m * n) (e + k)

/-- Exact sum (R261, R274). -/
def FVal.add (x y : FVal) : FVal :=
  match x, y with
  | .nan, _ => .nan
  | _, .nan => .nan
  | .inf s, .inf t => if s = t then .inf s else .nan
  | .inf s, _ => .inf s
  | _, .inf t => .inf t
  | .fin s m e, .fin t n k =>
    if m = 0 ∧ n = 0 then .fin (s && t) 0 (min e k)
    else
      let q := min e k
      .ofInt ((FVal.fin s m e).atUnit q + (FVal.fin t n k).atUnit q) q

/-- Exact sum of a list; the empty sum is +0. -/
def FVal.sum (l : List FVal) : FVal :=
  match l with
  | [] => .fin false 0 0
  | x :: t => t.foldl FVal.add x

/-- x < y for values that are not NaN. -/
def FVal.lt (x y : FVal) : Bool :=
  match x, y with
  | .inf s, .inf t => s && !t
  | .inf s, .fin _ _ _ => s
  | .fin _ _ _, .inf t => !t
  | .fin _ _ e, .fin _ _ k => decide (x.atUnit (min e k) < y.atUnit (min e k))
  | _, _ => false

/-- Equality as values: +0 = −0. -/
def FVal.eqv (x y : FVal) : Bool :=
  match x, y with
  | .inf s, .inf t => s == t
  | .fin _ _ e, .fin _ _ k => decide (x.atUnit (min e k) = y.atUnit (min e k))
  | _, _ => false

/-- The value rounded to an integer by a mode; a NaN gives 0 and an infinity a value past every range (R272). -/
def FVal.toInt (md : RMode) (x : FVal) : Int :=
  match x with
  | .nan => 0
  | .inf s => (if s then -1 else 1) * (2 ^ 70 : Nat)
  | .fin s m e => (if s then -1 else 1) * (roundScaled md m e 0 : Nat)

/-- The nearest value of a range (R259). -/
def satInt (lo hi z : Int) : Int := if z < lo then lo else if hi < z then hi else z

def satS (n : Nat) (z : Int) : Int := satInt (-(2 ^ (n - 1) : Nat)) ((2 ^ (n - 1) : Nat) - 1) z
def satU (n : Nat) (z : Int) : Int := satInt 0 ((2 ^ n : Nat) - 1) z

/-- The stochastic draw of R270 for a seed and an element index. -/
def draw (seed i : Nat) : Nat :=
  let w := 2 ^ 64
  let z0 := (seed ^^^ (i * 0x9E3779B97F4A7C15 % w)) % w
  let z1 := (z0 ^^^ (z0 / 2 ^ 30)) * 0xBF58476D1CE4E5B9 % w
  let z2 := (z1 ^^^ (z1 / 2 ^ 27)) * 0x94D049BB133111EB % w
  let z3 := z2 ^^^ (z2 / 2 ^ 31)
  z3 / 2 ^ 48

/-! ### Powers of two to 480 bits, for the one rounding of R324 and the bounds of R353 -/

/-- Working precision of the fixed-point series: units of 2^-fxp. -/
def fxp : Nat := 512

/-- ln 2 as the sum of 1/(k·2^k). -/
def ln2Fx : Nat := (List.range 520).foldl (fun a k => a + 2 ^ fxp / ((k + 1) * 2 ^ (k + 1))) 0

/-- The series of e^y for 0 ≤ y < 1 in fixed point. -/
def expFx (y : Nat) : Nat :=
  ((List.range 130).foldl (fun (p : Nat × Nat) n =>
    let t := p.2 * y / 2 ^ fxp / (n + 1)
    (p.1 + t, t)) (2 ^ fxp, 2 ^ fxp)).1

/-- 2^x for an exact dyadic x: an integer x exactly, any other to within 2^-480 of the value, which is irrational and
so never a rounding tie. -/
def FVal.exp2 (x : FVal) : FVal :=
  match x with
  | .nan => .nan
  | .inf s => if s then .fin false 0 0 else .inf false
  | .fin _ 0 _ => .fin false 1 0
  | .fin s m e =>
    -- beyond 2^12 every format overflows or underflows the same way
    if 12 < e + (log2 m : Int) then (if s then .fin false 1 (-100000) else .fin false 1 100000)
    else
      let z := (FVal.fin s m e).atUnit (min e 0)
      let d := 2 ^ (0 - min e 0).toNat
      let n := z.fdiv (d : Nat)
      let fr := (z - n * (d : Nat)).toNat
      if fr = 0 then .fin false 1 n
      else .fin false (expFx (fr * ln2Fx / d)) (n - fxp)

/-- Minimum and maximum with the sign rule of R324: +0 when they are zeros of opposite sign. -/
def FVal.larger (x y : FVal) : FVal :=
  if x.lt y then y else if y.lt x then x
  else match x, y with
    | .fin s m e, .fin t _ _ => if m = 0 then .fin (s && t) 0 e else x
    | _, _ => x

end Sys2Proof.Machine
end

