-- ==== Sys2Proof/Machine/Sfn.lean ====
section
/-! DEFINITION. The special functions (R353, R354): for each function the exact value to some 480 bits, the codes
within its bound, and the one of them that the free choice of log 6 picks. -/

namespace Sys2Proof.Machine

/-- One in fixed point. -/
def oneFx : Int := 2 ^ fxp

/-- Bitwise integer square root of `x`, `n` result bits. -/
def sqrtBits (x : Nat) : Nat → Nat → Nat
  | r, 0 => r
  | r, n + 1 => let c := r + 2 ^ n; sqrtBits x (if c * c ≤ x then c else r) n

/-- arctan(1/n) in fixed point. -/
def atanInv (n : Int) : Int :=
  ((List.range 160).foldl (fun (p : Int × Int) k =>
    (p.1 + (if k % 2 = 0 then 1 else -1) * p.2 / (2 * k + 1 : Nat), p.2 / (n * n))) (0, oneFx / n)).1

/-- π in fixed point (Machin). -/
def piFx : Int := 16 * atanInv 5 - 4 * atanInv 239

/-- ln x for 1 ≤ x < 2 in fixed point. -/
def lnFx (x : Int) : Int :=
  let t := (x - oneFx) * oneFx / (x + oneFx)
  let t2 := t * t / oneFx
  2 * ((List.range 170).foldl (fun (p : Int × Int) k => (p.1 + p.2 / (2 * k + 1 : Nat), p.2 * t2 / oneFx)) (0, t)).1

/-- e^y for a fixed-point y, as a value. -/
def expVal (y : Int) : FVal :=
  let n := y.fdiv (ln2Fx : Int)
  .fin false (expFx (y - n * (ln2Fx : Int)).toNat) (n - fxp)

/-- sin (odd = true) or cos of a fixed-point angle. -/
def sinCos (odd : Bool) (x : Int) : Int :=
  let r := x.fmod (2 * piFx)
  let r2 := r * r / oneFx
  ((List.range 100).foldl (fun (p : Int × Int) k =>
    let d : Int := if odd then ((2 * k + 2) * (2 * k + 3) : Nat) else ((2 * k + 1) * (2 * k + 2) : Nat)
    (p.1 + p.2, -(p.2 * r2 / oneFx / d))) (0, if odd then r else oneFx)).1

/-- A finite value in fixed point. -/
def FVal.fx (x : FVal) : Int :=
  match x with
  | .fin s m e => if -(fxp : Int) ≤ e then (FVal.fin s m e).atUnit (-(fxp : Int))
                  else (if s then -1 else 1) * (m / 2 ^ (-(fxp : Int) - e).toNat : Nat)
  | _ => 0

/-- A fixed-point number as a value. -/
def ofFx (z : Int) : FVal := FVal.ofInt z (-(fxp : Int))

/-- floor(log2 |x|) of a nonzero finite value. -/
def FVal.expOf (x : FVal) : Int := match x with | .fin _ m e => e + (log2 m : Int) | _ => 0

/-- `k` ulp of FP32 at a value. -/
def ulps (k : Nat) (x : FVal) : FVal :=
  match x with
  | .fin _ 0 _ => .fin false k (-149)
  | _ => .fin false k (max x.expOf (-126) - 23)

/-- FP32 codes in the order of their values; both zeros are 0. -/
def ordOf (c : Nat) : Int := if c.testBit 31 then -((c % 2 ^ 31 : Nat) : Int) else (c : Int)
def codeOf (o : Int) : Nat := if o < 0 then 2 ^ 31 + o.natAbs else o.natAbs

/-- The least code at or above, and the greatest at or below, a value. -/
def ordCeil (x : FVal) : Int :=
  let c := fp32.round .trunc true x
  if (fp32.read c).lt x then ordOf c + 1 else ordOf c
def ordFloor (x : FVal) : Int :=
  let c := fp32.round .trunc true x
  if x.lt (fp32.read c) then ordOf c - 1 else ordOf c

/-- The code between two that the free choice picks. -/
def pickOrd (fn c : Nat) (lo hi : Int) : Nat := codeOf (lo + (Config.freeSfn fn c % (hi - lo + 1).toNat : Nat))

/-- The result within a bound of the exact value; a value beyond the format's range rounds under R269 and R271. -/
def within (fn c : Nat) (x t : FVal) : Nat :=
  let r := fp32.round .rne false x
  if fp32.read r = .inf false ∨ fp32.read r = .inf true then r
  else
    let lo := max (ordCeil (x.add t.neg)) (-0x7F7FFFFF)
    let hi := min (ordFloor (x.add t)) 0x7F7FFFFF
    if lo ≤ hi then pickOrd fn c lo hi else r

/-- The exact value of 1/x and of 1/√x to 480 bits or more. -/
def rcpVal (s : Bool) (m : Nat) (e : Int) : FVal := .fin s (2 ^ 600 / m) (-600 - e)
def rsqrtVal (m : Nat) (e : Int) : FVal :=
  let (m1, e1) := if e % 2 = 0 then (m, e) else (2 * m, e - 1)
  .fin false (sqrtBits (2 ^ 1200 / m1) 0 601) (-600 - e1 / 2)

/-- 2^k for m·2^e, when it is a power of two. -/
def pow2? (m : Nat) (e : Int) : Option Int := if m = 2 ^ log2 m then some (e + (log2 m : Int)) else none

/-- Each function on an FP32 code: code 0 exp2, 1 log2, 2 rcp, 3 rsqrt, 4 sin, 5 cos, 6 tanh, 7 sigmoid. -/
def sfn32 (fn c : Nat) : Nat :=
  let nan := fp32.nanCode
  let inf := 0x7F800000
  let one := 0x3F800000
  match fp32.read c with
  | .nan => nan
  | .inf s =>
    match fn with
    | 0 => if s then 0 else inf
    | 1 => if s then nan else inf
    | 2 => if s then 0x80000000 else 0
    | 3 => if s then nan else 0
    | 4 => nan
    | 5 => nan
    | 6 => if s then 0xBF800000 else one
    | _ => if s then 0 else one
  | .fin s 0 _ =>
    match fn with
    | 0 => one
    | 1 => 0xFF800000
    | 2 => if s then 0xFF800000 else inf
    | 3 => if s then 0xFF800000 else inf
    | 4 => c
    | 5 => one
    | 6 => c
    | _ => 0x3F000000
  | .fin s m e =>
    let x := FVal.fin s m e
    match fn with
    | 0 =>
      if ¬ s ∧ ¬ x.lt (.fin false 128 0) then inf
      else
        let v := x.exp2
        match v with
        | .fin _ 1 _ => fp32.round .rne false v
        | _ => if v.lt (.fin false 1 (-149)) then fp32.round .rne false v else within 0 c v (ulps 1 v)
    | 1 =>
      if s then nan
      else match pow2? m e with
        | some k => fp32.round .rne false (.ofInt k 0)
        | none =>
          let n := x.expOf
          let f := lnFx ((FVal.fin false m (-(log2 m : Int))).fx)
          let v := ofFx (n * oneFx + f * oneFx / (ln2Fx : Int))
          let inside := !(x.lt (.fin false 1 (-1))) && !((FVal.fin false 2 0).lt x)
          within 1 c v (if inside then .fin false 1 (-22) else ulps 1 v)
    | 2 => let v := rcpVal s m e; if (pow2? m e).isSome then fp32.round .rne false v else within 2 c v (ulps 1 v)
    | 3 =>
      if s then nan
      else
        let v := rsqrtVal m e
        match pow2? m e with
        | some k => if k % 2 = 0 then fp32.round .rne false (.fin false 1 (-(k / 2))) else within 3 c v (ulps 1 v)
        | none => within 3 c v (ulps 1 v)
    | 4 => if (FVal.fin false 1 15).lt (.fin false m e) then pickOrd 4 c (-0x3F800000) 0x3F800000
           else within 4 c (ofFx (sinCos true x.fx)) (.fin false 1 (-21))
    | 5 => if (FVal.fin false 1 15).lt (.fin false m e) then pickOrd 5 c (-0x3F800000) 0x3F800000
           else within 5 c (ofFx (sinCos false x.fx)) (.fin false 1 (-21))
    | 6 =>
      let a := (FVal.fin false m e)
      let t := if (FVal.fin false 64 0).lt a then 1 else (expVal (-2 * a.fx)).fx
      let v := ofFx ((if s then -1 else 1) * ((oneFx - t) * oneFx / (oneFx + t)))
      let u := ulps 2 v
      let b := FVal.fin false 1 (-23)
      within 6 c v (if u.lt b then b else u)
    | _ =>
      let a := (FVal.fin false m e)
      let t := if (FVal.fin false 200 0).lt a then 1 else (expVal (-a.fx)).fx
      let v := ofFx ((if s then t else oneFx) * oneFx / (oneFx + t))
      let u := ulps 2 v
      let b := FVal.fin false 1 (-23)
      within 7 c v (if u.lt b then b else u)

/-- A special function on a lane of a format: widened exactly, computed in FP32, rounded once (R353). -/
def sfn (f : Fmt) (fn c : Nat) : Nat :=
  let w := fp32.round .rne false (f.read c)
  let r := sfn32 fn w
  if f.mw = 23 then r else f.round .rne false (fp32.read r)

end Sys2Proof.Machine
end

