-- ==== Sys2Proof/Machine/Flags.lean ====
section
/-! DEFINITION. Conditions. Hjelrak has no flag register (R277): a comparison decides a branch or writes 0 or 1. -/

namespace Sys2Proof.Machine

/-- The condition of BCC and BZ by its code: 0 eq, 1 ne, 2 lt, 3 ge, 4 ltu, 5 geu (R289, R290). -/
def condHolds (c : Nat) (x y : Word) : Bool :=
  match c with
  | 0 => x == y
  | 1 => x != y
  | 2 => x.slt y
  | 3 => !(x.slt y)
  | 4 => x.ult y
  | _ => !(x.ult y)

/-- 1 or 0 as a register value. -/
def flagWord (b : Bool) : Word := if b then 1 else 0

end Sys2Proof.Machine
end

