-- ==== Sys2Proof/Machine/SMap.lean ====
section
/-! DEFINITION. Reading and writing a sparse array. -/

namespace Sys2Proof

variable {α : Type}

/-- The element at index `k`, or nothing where the array lists none. -/
def SMap.find? (m : SMap α) (k : Nat) : Option α :=
  match m with
  | [] => none
  | (j, x) :: t => if j = k then some x else if k < j then none else SMap.find? t k

/-- The element at index `k`; `d` is the array's reset element. -/
def SMap.val (m : SMap α) (k : Nat) (d : α) : α :=
  match m with
  | [] => d
  | (j, x) :: t => if j = k then x else if k < j then d else SMap.val t k d

/-- The array with `x` at index `k`. -/
def SMap.put (m : SMap α) (k : Nat) (x : α) : SMap α :=
  match m with
  | [] => [(k, x)]
  | (j, y) :: t => if j = k then (k, x) :: t else if k < j then (k, x) :: (j, y) :: t else (j, y) :: SMap.put t k x

/-- The array with index `k` at its reset element again. -/
def SMap.del (m : SMap α) (k : Nat) : SMap α :=
  match m with
  | [] => []
  | (j, y) :: t => if j = k then t else if k < j then (j, y) :: t else (j, y) :: SMap.del t k

end Sys2Proof
end

