-- ==== Sys2Proof/Machine/Cipher.lean ====
section
/-! DEFINITION. The two functions that the manual takes from published standards: AES-256-XTS (R98; IEEE 1619 over
FIPS 197) and SHA-256 (R35; FIPS 180-4). PRESUMED (log 69): the manual names them and does not repeat them. -/

namespace Sys2Proof.Machine

/-! ### AES-256 -/

/-- A column of the cipher's state: four bytes. -/
structure Col where
  a : Byte := 0
  b : Byte := 0
  c : Byte := 0
  d : Byte := 0
  deriving DecidableEq, Repr

/-- A block of 16 bytes, by columns. -/
structure Blk where
  p : Col := {}
  q : Col := {}
  r : Col := {}
  s : Col := {}
  deriving DecidableEq, Repr

def Col.get (x : Col) (i : Nat) : Byte := match i with | 0 => x.a | 1 => x.b | 2 => x.c | _ => x.d

def Col.set (x : Col) (i : Nat) (v : Byte) : Col :=
  match i with
  | 0 => { x with a := v }
  | 1 => { x with b := v }
  | 2 => { x with c := v }
  | _ => { x with d := v }

/-- Byte `i` of a block. -/
def Blk.get (x : Blk) (i : Nat) : Byte :=
  match i / 4 with
  | 0 => x.p.get (i % 4)
  | 1 => x.q.get (i % 4)
  | 2 => x.r.get (i % 4)
  | _ => x.s.get (i % 4)

def Blk.set (x : Blk) (i : Nat) (v : Byte) : Blk :=
  match i / 4 with
  | 0 => { x with p := x.p.set (i % 4) v }
  | 1 => { x with q := x.q.set (i % 4) v }
  | 2 => { x with r := x.r.set (i % 4) v }
  | _ => { x with s := x.s.set (i % 4) v }

/-- A block from its bytes. -/
def Blk.of (f : Nat → Byte) : Blk :=
  { p := ⟨f 0, f 1, f 2, f 3⟩, q := ⟨f 4, f 5, f 6, f 7⟩, r := ⟨f 8, f 9, f 10, f 11⟩, s := ⟨f 12, f 13, f 14, f 15⟩ }

/-- Multiplication by x in the cipher's field. -/
def xt (x : Byte) : Byte := (x <<< 1) ^^^ (if x.msb then 0x1B else 0)

/-- Multiplication in the cipher's field. -/
def gmul (x y : Byte) : Nat → Byte
  | 0 => 0
  | n + 1 => (if y.getLsbD 0 then x else 0) ^^^ gmul (xt x) (y >>> 1) n

/-- The 254th power, which inverts every element but 0. -/
def ginv (x : Byte) : Byte :=
  let m := fun a b => gmul a b 8
  let x2 := m x x
  let x4 := m x2 x2
  let x8 := m x4 x4
  let x16 := m x8 x8
  let x32 := m x16 x16
  let x64 := m x32 x32
  m (m (m x2 x4) (m x8 x16)) (m (m x32 x64) (m x64 x64))

/-- SubBytes of one byte: the inverse, then the affine map. -/
def sboxOf (x : Byte) : Byte :=
  let y := ginv x
  y ^^^ y.rotateLeft 1 ^^^ y.rotateLeft 2 ^^^ y.rotateLeft 3 ^^^ y.rotateLeft 4 ^^^ 0x63

/-- InvSubBytes of one byte: the inverse affine map, then the inverse. -/
def isboxOf (x : Byte) : Byte := ginv (x.rotateLeft 1 ^^^ x.rotateLeft 3 ^^^ x.rotateLeft 6 ^^^ 0x05)

/-- The two substitutions tabulated. -/
def sboxTable : Array Byte := Array.ofFn fun i : Fin 256 => sboxOf (BitVec.ofNat 8 i.val)
def isboxTable : Array Byte := Array.ofFn fun i : Fin 256 => isboxOf (BitVec.ofNat 8 i.val)
def sbox (x : Byte) : Byte := sboxTable.getD x.toNat 0
def isbox (x : Byte) : Byte := isboxTable.getD x.toNat 0

def Col.map (f : Byte → Byte) (x : Col) : Col := ⟨f x.a, f x.b, f x.c, f x.d⟩
def Col.add (x y : Col) : Col := ⟨x.a ^^^ y.a, x.b ^^^ y.b, x.c ^^^ y.c, x.d ^^^ y.d⟩
def Blk.map (f : Col → Col) (x : Blk) : Blk := ⟨f x.p, f x.q, f x.r, f x.s⟩

/-- AddRoundKey. -/
def Blk.add (x y : Blk) : Blk := ⟨x.p.add y.p, x.q.add y.q, x.r.add y.r, x.s.add y.s⟩

/-- ShiftRows and its inverse. -/
def Blk.shift (x : Blk) : Blk :=
  ⟨⟨x.p.a, x.q.b, x.r.c, x.s.d⟩, ⟨x.q.a, x.r.b, x.s.c, x.p.d⟩, ⟨x.r.a, x.s.b, x.p.c, x.q.d⟩, ⟨x.s.a, x.p.b, x.q.c, x.r.d⟩⟩
def Blk.unshift (x : Blk) : Blk :=
  ⟨⟨x.p.a, x.s.b, x.r.c, x.q.d⟩, ⟨x.q.a, x.p.b, x.s.c, x.r.d⟩, ⟨x.r.a, x.q.b, x.p.c, x.s.d⟩, ⟨x.s.a, x.r.b, x.q.c, x.p.d⟩⟩

/-- MixColumns of a column; its fourth power is the identity, so its third is its inverse. -/
def Col.mix (x : Col) : Col :=
  ⟨xt (x.a ^^^ x.b) ^^^ x.b ^^^ x.c ^^^ x.d, xt (x.b ^^^ x.c) ^^^ x.c ^^^ x.d ^^^ x.a,
   xt (x.c ^^^ x.d) ^^^ x.d ^^^ x.a ^^^ x.b, xt (x.d ^^^ x.a) ^^^ x.a ^^^ x.b ^^^ x.c⟩
def Col.unmix (x : Col) : Col := x.mix.mix.mix

/-- The rounds after the first key; the last has no MixColumns. -/
def aesRounds : List Blk → Blk → Blk
  | [], x => x
  | [k], x => ((x.map (Col.map sbox)).shift).add k
  | k :: ks, x => aesRounds ks ((((x.map (Col.map sbox)).shift).map Col.mix).add k)

def aesUnrounds : List Blk → Blk → Blk
  | [], x => x
  | [k], x => ((x.add k).unshift).map (Col.map isbox)
  | k :: ks, x => ((((aesUnrounds ks x).add k).map Col.unmix).unshift).map (Col.map isbox)

/-- The 60 words of the AES-256 key schedule, newest first. -/
def aesWords (ws : List Col) (i : Nat) : Nat → List Col
  | 0 => ws
  | n + 1 =>
    let last := ws.headD {}
    let back := ws.getD 7 {}
    let t := if i % 8 = 0 then
        (Col.map sbox ⟨last.b, last.c, last.d, last.a⟩).add ⟨BitVec.ofNat 8 (2 ^ (i / 8 - 1)), 0, 0, 0⟩
      else if i % 8 = 4 then Col.map sbox last
      else last
    aesWords (back.add t :: ws) (i + 1) n

/-- The words taken four by four. -/
def byFour : List Col → List Blk
  | p :: q :: r :: s :: t => ⟨p, q, r, s⟩ :: byFour t
  | _ => []

/-- The 15 round keys of a 256-bit key whose byte i is bits 8i + 7 to 8i. -/
def aesKeys (k : BitVec 256) : List Blk :=
  let w := fun (i : Nat) => let b := fun j => k.extractLsb' (32 * i + 8 * j) 8; (⟨b 0, b 1, b 2, b 3⟩ : Col)
  byFour (aesWords ((List.range 8).map w).reverse 8 52).reverse

/-- A block enciphered and deciphered under round keys. -/
def aesEnc (ks : List Blk) (x : Blk) : Blk := match ks with | [] => x | k :: t => aesRounds t (x.add k)
def aesDec (ks : List Blk) (x : Blk) : Blk := match ks with | [] => x | k :: t => (aesUnrounds t x).add k

/-! ### XTS (R98) -/

/-- A block as a number, byte 0 least significant. -/
def Blk.toNat (x : Blk) : Nat := ((List.range 16).map fun i => (x.get i).toNat * 256 ^ i).foldl (· + ·) 0
def Blk.ofNat (n : Nat) : Blk := Blk.of fun i => BitVec.ofNat 8 (n / 256 ^ i)

/-- The tweak of block `j` of a line: the enciphered line number times the j-th power of x. -/
def xtsDouble (n : Nat) : Nat → Nat
  | 0 => n
  | j + 1 => let m := xtsDouble n j; if m < 2 ^ 127 then 2 * m else (2 * m) % 2 ^ 128 ^^^ 0x87
def xtsTweak (key2 : BitVec 256) (line j : Nat) : Blk := Blk.ofNat (xtsDouble (aesEnc (aesKeys key2) (Blk.ofNat line)).toNat j)

/-- Block `j` of the line with bits 47:6 of its address in `line`, enciphered and deciphered. -/
def xtsEnc (key1 key2 : BitVec 256) (line j : Nat) (x : Blk) : Blk :=
  let t := xtsTweak key2 line j
  (aesEnc (aesKeys key1) (x.add t)).add t
def xtsDec (key1 key2 : BitVec 256) (line j : Nat) (x : Blk) : Blk :=
  let t := xtsTweak key2 line j
  (aesDec (aesKeys key1) (x.add t)).add t

/-! ### SHA-256 -/

/-- The first 32 bits of the fractional part of a root, from integer square or cube roots scaled up. -/
def iroot (k n : Nat) : Nat → Nat → Nat → Nat
  | 0, lo, _ => lo
  | f + 1, lo, hi => let m := (lo + hi) / 2; if m ^ k ≤ n then iroot k n f m hi else iroot k n f lo m

def isPrime (n : Nat) : Bool := decide (1 < n) && (List.range n).all fun d => decide (d < 2) || decide (n % d ≠ 0)
def shaPrimes : List Nat := (List.range 312).filter isPrime
def fracRoot (k p : Nat) : BitVec 32 := BitVec.ofNat 32 (iroot k (p * 2 ^ (32 * k)) 40 0 (2 ^ 40))
def shaK : List (BitVec 32) := shaPrimes.map (fracRoot 3)
def shaH : List (BitVec 32) := (shaPrimes.take 8).map (fracRoot 2)

/-- The message schedule, newest first. -/
def shaWords (ws : List (BitVec 32)) : Nat → List (BitVec 32)
  | 0 => ws
  | n + 1 =>
    let x := ws.getD 1 0
    let y := ws.getD 14 0
    let s1 := x.rotateRight 17 ^^^ x.rotateRight 19 ^^^ (x >>> 10)
    let s0 := y.rotateRight 7 ^^^ y.rotateRight 18 ^^^ (y >>> 3)
    shaWords ((s1 + ws.getD 6 0 + s0 + ws.getD 15 0) :: ws) n

/-- One round over the eight working words. -/
def shaRound (v : List (BitVec 32)) (kw : BitVec 32 × BitVec 32) : List (BitVec 32) :=
  match v with
  | [a, b, c, d, e, f, g, h] =>
    let t1 := h + (e.rotateRight 6 ^^^ e.rotateRight 11 ^^^ e.rotateRight 25) + ((e &&& f) ^^^ (~~~e &&& g)) + kw.1 + kw.2
    let t2 := (a.rotateRight 2 ^^^ a.rotateRight 13 ^^^ a.rotateRight 22) + ((a &&& b) ^^^ (a &&& c) ^^^ (b &&& c))
    [t1 + t2, a, b, c, d + t1, e, f, g]
  | _ => v

/-- Words of a block of 64 bytes, the first byte of each most significant. -/
def beWords : List Nat → List (BitVec 32)
  | a :: b :: c :: d :: t => BitVec.ofNat 32 (((a * 256 + b) * 256 + c) * 256 + d) :: beWords t
  | _ => []

/-- One block compressed into the hash value. -/
def shaBlock (ks h : List (BitVec 32)) (bytes : List Nat) : List (BitVec 32) :=
  let w := (shaWords (beWords bytes).reverse 48).reverse
  List.zipWith (· + ·) h ((ks.zip w).foldl shaRound h)

def shaBlocks (ks : List (BitVec 32)) : Nat → List (BitVec 32) → List Nat → List (BitVec 32)
  | 0, h, _ => h
  | n + 1, h, m => shaBlocks ks n (shaBlock ks h (m.take 64)) (m.drop 64)

/-- The message of `n` bytes with its padding. -/
def shaPad (m : List Nat) : List Nat :=
  let n := m.length
  m ++ 0x80 :: List.replicate ((119 - n % 64) % 64) 0 ++ (toBytes (8 * n) 8).reverse

/-- SHA-256 of a message, as the 32 bytes of the digest in order. -/
def sha256 (m : List Nat) : List Nat :=
  let p := shaPad m
  (shaBlocks shaK (p.length / 64) shaH p).flatMap fun x => (toBytes x.toNat 4).reverse

/-- The digest of the `n` bytes of a number, lowest first, as a number whose bytes in that order are the digest's. -/
def shaOf (v n : Nat) : Nat := ofBytes (sha256 (toBytes v n))

end Sys2Proof.Machine
end

