-- ==== Sys2Proof/Machine/State.lean ====
section
/-! DEFINITION. The state of the package: everything the manual gives the machine, as plain data, and its value
right after a cold reset. Every array is sparse; an index that is not listed holds the element given beside the
array. Where the manual gives no reset value the field's default is the value log 1 names. -/

namespace Sys2Proof.Machine

/-- Why the model stops. -/
inductive Fault where
  /-- Raised by `step` while the parapet holds power removed after a temperature trip (R33 step 3): nothing runs until
  a cold reset. Safe: the hardware does nothing either. -/
  | packageOff
  deriving DecidableEq, Repr

/-- Why the model has no meaning for a step. -/
inductive Refusal where
  /-- An instruction whose arm has no meaning yet, by its mnemonic; raised by `exec` alone. Safe. -/
  | notModelled (mnemonic : String)
  deriving DecidableEq, Repr

/-! ### Accesses -/

/-- What an access does at its home (R188, R308, R312). -/
inductive AccKind where
  | load
  | store
  /-- An atomic (`ret`) or reduction with the operation code of R311; `op` 10 is FADD. -/
  | amo (op : Nat) (ret : Bool)
  | ldf
  | ldfE
  | stf
  deriving DecidableEq, Repr

/-- How far an access has come. -/
inductive AccSt where
  /-- Issued, not yet at its die's ordering point (R191). -/
  | issued
  /-- Held at its abutment: by a moving page, by a full pier, or until it translates again (R153, R182, R309). -/
  | held
  /-- Entered the ordering point as its die's n-th entry. -/
  | entered (n : Nat)
  /-- Waits at its home for full words (R309). -/
  | waiting
  /-- Performed at its home; its value is on the way back. -/
  | performed (value : Nat)
  deriving DecidableEq, Repr

/-- One access in flight. `loc` is the location of the model's one byte map; `lane` is the bit of the destination
value it fills. -/
structure Acc where
  id : Nat := 0
  ent : Nat := 0          -- identity of the pending entry it fills, 0 when none
  h : Nat := 0
  slot : Nat := 0
  asid : Nat := 0
  tenant : Nat := 0
  pc : Word := 0
  va : Nat := 0
  size : Nat := 0
  kind : AccKind := .load
  strong : Bool := false
  acq : Bool := false
  rel : Bool := false
  sc : Nat := 3
  ord : Nat := 0
  data : Nat := 0
  data2 : Nat := 0
  lane : Nat := 0
  clk : Nat := 0
  supp : Bool := false
  free : Bool := false      -- a fetch or an engine's access, which race detection does not see (R203)
  pack : Bool := false
  prot : Bool := false
  loc : Nat := 0
  failAttr : Bool := false  -- a pool page's fail attribute is FATAL (R69)
  node : Nat := 0           -- a remote access's package and address there (R44)
  rpa : Nat := 0
  whole : Bool := false     -- part of a write that covers its granule whole (R183)
  gone : Bool := false      -- its request has left for another package, whose answer is to come (R40)
  st : AccSt := .issued
  deriving DecidableEq, Repr

/-! ### Threads -/

/-- The slot states of R134. -/
inductive SlotSt where
  | free
  | active
  | parked (code : Nat)
  deriving DecidableEq, Repr

/-- The destination of a long-latency instruction (R149, R151). `scalar` holds the physical register: 0–7 the g
registers, 8 + i the entry i of the register stack. -/
inductive Dest where
  | none
  | scalar (phys : Nat)
  | vector (n : Nat)
  | ident (n : Nat)
  | tile
  deriving DecidableEq, Repr

/-- What waits to be raised when a window closes (R153). -/
inductive PFault where
  | kernel (code : Nat) (addr : Nat)
  | user (cause : Nat) (info : Nat)
  deriving DecidableEq, Repr

/-- A pending-table entry (R150). `missing` counts the accesses and engine results still outstanding; `retry` holds the
accesses to issue again after a fault: those that faulted or, for a vector, all of them (R153, R342). -/
structure Pend where
  id : Nat := 0
  dest : Dest := .none
  field : Nat := 0
  kind : Nat := 0          -- TRAP.PEND.KIND: 0 scalar, 1 vector, 2 identifier, 3 memory or tile
  cnt : Nat := 0
  value : Nat := 0
  missing : Nat := 0
  sx : Nat := 0            -- bits to sign-extend from, 0 for none
  fault : Option PFault := none
  retry : List Acc := []
  lpc : Word := 0
  chan : Option Nat := none
  msgTag : Bool := false
  nxm : Bool := false      -- NXM as a RECV read it at its issue (R264)
  clk : Nat := 0           -- clock of the message it has taken (R206, R322)
  deriving DecidableEq, Repr

/-- A message of a channel (R318). -/
structure Msg where
  payload : Word := 0
  nxm : Bool := false
  clk : Nat := 0
  id : Nat := 0                    -- names the offer to its sender (R320)
  deriving DecidableEq, Repr

/-- An open split arrival (R315). -/
structure Arrival where
  level : Nat := 0
  clk : Nat := 0
  gen : Bool := false
  done : Option Nat := none     -- the clock the completed instance gives, once it has completed
  deriving DecidableEq, Repr

/-- What a stalled instruction has already done; it re-executes from its start otherwise (R134, R392). -/
inductive Wait where
  | none
  /-- A fence whose tokens are out (R30): the number of the die's next access when they were sent, and the
  recipients that have not yet returned theirs. -/
  | tokens (mark : Nat) (left : List Nat)
  /-- WAIT into field `d` since the given time, with the given tag map and the given interval in ns; `past` once the
  interval has passed (R399). -/
  | waitSince (t : Nat) (ctag : Word) (d : Nat) (x : Word) (past : Bool)
  /-- BARA or BAR has arrived. -/
  | arrived
  /-- GANG has arrived with size `n`. -/
  | gang (n : Nat)
  /-- A frame transaction is committed; its revocation has the given number and the result is known. -/
  | frameTx (id : Nat) (result : Word) (e0 e1 : Word)
  /-- An invalidation is under way; the accesses it waits for. -/
  | inval (ids : List Nat)
  /-- A vector store holds for room in the side log; the lines whose fault records are sent (R343). -/
  | recorded (lines : List Nat)
  /-- CPY or CPYM has read its descriptor (R325). -/
  | desc (d : Nat)
  deriving DecidableEq, Repr

/-- The trap state (R396). -/
structure TrapState where
  act : Bool := false
  cause : Nat := 0
  pc : Word := 0
  info : Word := 0
  lpc : Word := 0
  rep : Word := 0
  pend : List Pend := []
  ent : Nat := 0                   -- place + 1 of the entry whose fault was taken (R153), 0 for none
  mark : Nat := 0                  -- model's own: the next identity when the trap was taken (R345)
  deriving DecidableEq, Repr

/-- What a thread runs for its share (R119, R120, R145). -/
inductive Role where
  | none
  | group (g : Nat) (rtn : Nat)
  | move
  | spawned
  deriving DecidableEq, Repr

/-- A thread slot (R133). -/
structure Thread where
  st : SlotSt := .free
  pc : Word := 0
  g : SMap Word := []            -- g0–g7, 0
  stk : SMap Word := []          -- the 128 physical stack entries, 0
  base : Nat := 0
  low : Nat := 0
  wbsp : Word := 0
  wprog : Nat := 0
  rep : Word := 0                -- REPCNT
  v : SMap VReg := []            -- v0–v31, 0
  p : SMap PReg := []            -- p0–p7, 0
  d : SMap Ident := []           -- d0–d63, 0
  pend : List Pend := []
  utvec : Word := 0
  asid : Nat := 0
  limit : Word := 0
  cyc : Nat := 0
  trap : TrapState := {}
  supp : Bool := false
  chans : SMap (List Msg) := []  -- accepted messages of channels 0–7, oldest first
  offers : SMap (List Msg) := [] -- offers waiting at channels 0–7
  offer : Nat := 0               -- the message of this thread that is offered and not accepted, 0 for none
  arrivals : List Arrival := []
  acqs : List (Nat × Nat) := []  -- acquires not yet at their point: access and scope (R195)
  wait : Wait := .none
  pent : Nat := 0                -- place + 1 of the entry whose fault parked the thread (R153)
  iss : Bool := false            -- model's own: the turn in progress has issued its instruction
  fetched : List (Nat × Nat) := []  -- words of the instruction in progress, by address (R172)
  role : Role := .none
  saved : Bool := false          -- saved by quiescence (R160)
  inGang : Bool := false
  stopped : Bool := false        -- issue stopped by quiescence (R126 step 1)
  deriving DecidableEq, Repr

/-! ### Cores and quads -/

/-- A side-log entry (R173). -/
structure SlogEntry where
  slot : Nat := 0
  asid : Nat := 0
  tenant : Nat := 0
  line : Nat := 0                -- virtual line address
  accs : List Acc := []          -- the stores or the reduction of the line, in order
  deriving DecidableEq, Repr

/-- A fault record waiting in its core (R156, R157). -/
structure FRec where
  pc : Word := 0
  addr : Nat := 0
  code : Nat := 0
  asid : Nat := 0
  tenant : Nat := 0
  slot : Nat := 0
  lpc : Word := 0
  pent : Nat := 0
  info : Nat := 0
  deriving DecidableEq, Repr

/-- An accumulator tile: 64 × 64 elements of 32 bits in row-major order, and its format tag (R355). -/
structure Tile where
  int : Bool := false
  el : SMap Nat := []
  deriving DecidableEq, Repr

/-- An entry of a span dispatch queue (R136, R362): the instruction with what it captured at issue. -/
structure DqEntry where
  id : Nat := 0
  slot : Nat := 0
  ent : Nat := 0
  i : Instr
  args : List Nat := []          -- captured registers, identifiers, masks and seeds
  nxm : Bool := false
  pc : Word := 0
  asid : Nat := 0
  tenant : Nat := 0
  clk : Nat := 0
  supp : Bool := false
  filler : Bool := false         -- a discarded recorded instruction: only its FILLER header is left to write (R383)
  started : Bool := false        -- a header write that has faulted and waits for its retry (R383)
  sent : Bool := false           -- its one fault record has been sent (R175, R383)
  reads : List (Nat × Nat) := []   -- byte ranges it reads, as virtual address and length
  writes : List (Nat × Nat) := []  -- byte ranges it writes
  faulted : Bool := false
  orphan : Bool := false           -- its thread was halted by SVCR: a fault discards it (R160, R365)
  deriving DecidableEq, Repr

/-- A copy in flight (R325–R327). -/
structure Copy where
  id : Nat := 0
  slot : Nat := 0
  asid : Nat := 0
  tenant : Nat := 0
  pc : Word := 0
  clk : Nat := 0
  src : Nat := 0
  dst : Nat := 0
  rows : Nat := 0
  rbytes : Nat := 0
  spitch : Nat := 0
  dpitch : Nat := 0
  tag : Nat := 0
  mcn : Nat := 0
  mck : Nat := 0
  row : Nat := 0
  held : Bool := false
  haddr : Nat := 0                 -- the address whose fault holds it
  err : Bool := false
  took : Bool := false             -- it has taken a count of the target that it is written into (R327)
  targets : List Nat := []         -- targets still to be written
  deriving DecidableEq, Repr

/-- What a core holds of a launch (R117–R120). -/
structure Share where
  q : Nat := 0
  lhead : Nat := 0
  part : Nat := 0
  tenant : Nat := 0
  asid : Nat := 0
  k : Nat := 0
  l : Nat := 0
  g : Nat := 0
  next : Nat := 0                  -- groups started
  done : Nat := 0                  -- groups done
  phase : Nat := 0                 -- 0 dealt, 1 routines, 2 at the launch barrier, 3 data movement, 4 ended
  lvl : Nat := 2
  arrClk : Nat := 0
  arrMark : Nat := 0               -- the next identity when the share arrived at its launch barrier (R315, R421)
  nr : Nat := 1
  pcs : List Word := []
  move : Word := 0
  stk : Word := 0
  desc : Word := 0
  arg : Word := 0
  tlim : Nat := 0
  nxm : Bool := false
  logs : List Nat := []
  succ : Option (Nat × Nat) := none  -- what HALT.K named (R146)
  started : Nat := 0               -- when the share began or was restored (R131)
  deriving DecidableEq, Repr

/-- Retention of a local store and deck share (R147). -/
structure Retain where
  tenant : Nat := 0
  q : Nat := 0
  entry : Nat := 0
  deadline : Nat := 0
  deriving DecidableEq, Repr

/-- A core's place in a gang (R141–R144). -/
structure Gang where
  leader : Nat := 0
  size : Nat := 0
  slot : Nat := 0
  dissolved : Bool := false           -- dissolved: the member leaves once it has issued what was relayed to it
  deriving DecidableEq, Repr

/-- An instruction that a leader has relayed to a follower (R142): its address and word, the leader's next address, whether
a repetition was in progress at the leader (R302), and the landing-pad label that a jump through a table asked for (R299). -/
structure Relay where
  addr : Word := 0
  word : Nat := 0
  next : Word := 0
  act : Bool := false
  label : Nat := 0
  deriving DecidableEq, Repr

/-- The state of one core (R133). -/
structure Core where
  threads : SMap Thread := []
  sclk : Nat := 1
  clkEx : Bool := false
  nxm : Bool := false
  ctag : Word := 0
  ctagErr : Word := 0
  msgDisc : Nat := 0
  dom : SMap Word := []            -- DOM.1–DOM.3
  adjBase : Word := 0
  adjLimit : Word := 0
  adjPtr : Word := 0
  adjCtl : Word := 0
  adjStat : Word := 0
  acc : SMap Tile := []            -- t0–t3
  uprog : Word := 0                -- the inner-loop buffer's four operations (R368)
  slog : List SlogEntry := []
  slogHeld : List Acc := []        -- stores and reductions held at the abutment (R173)
  slogDrop : Nat := 0
  dq : List DqEntry := []
  copies : List Copy := []
  permit : Option (Nat × Nat) := none
  pcount : Nat := 0
  mcWait : List Nat := []          -- multicast copies waiting here, by their identities
  lastSlot : Nat := 3
  lastK : Nat := 0                 -- logical number of the share that ran here last (R131)
  ret : Bool := false
  retain : Option Retain := none
  gang : Option Gang := none
  relay : List Relay := []         -- relayed instructions, oldest first
  frecs : List FRec := []
  ipend : Nat := 0
  imask : Nat := 0
  ictlEn : Bool := false
  ictlSlot : Nat := 0
  share : Option Share := none
  replay : List SlogEntry := []    -- restored side-log entries not yet performed: the core issues nothing (R127)
  haltK : Option (Nat × Nat) := none
  quiesce : Bool := false          -- issue stopped (R126)
  deriving DecidableEq, Repr

/-- An instruction-cache line (R133, R172): 64 bytes fetched for an address space. -/
structure ILine where
  asid : Nat := 0
  line : Nat := 0
  data : Nat := 0
  deriving DecidableEq, Repr

/-- A special-function request (R137). -/
structure SfReq where
  h : Nat := 0
  slot : Nat := 0
  ent : Nat := 0
  value : Nat := 0
  deriving DecidableEq, Repr

/-- The state of one quad (R133). -/
structure Quad where
  icache : List ILine := []
  rot : Nat := 3                   -- member the span served last
  sfq : List SfReq := []
  shareClk : SMap Nat := []        -- the deck shares' clocks (R206)
  deriving DecidableEq, Repr

/-! ### Translation and the frame record -/

/-- A complete cached translation at an abutment (R164). `lo`–`lo + size − 1` is the virtual page. -/
structure Xl where
  abut : Nat := 0
  asid : Nat := 0
  tenant : Nat := 0
  lo : Nat := 0
  size : Nat := 0
  pa : Nat := 0
  ipa : Nat := 0
  rd : Bool := false
  w : Bool := false
  x : Bool := false
  pack : Bool := false
  prot : Bool := false
  fail : Bool := false
  node : Nat := 0                  -- a remote page's package and its address there (R44)
  rpa : Nat := 0
  lo1 : Nat := 0                   -- the stage-1 leaf it derives from: virtual base and size (R170)
  size1 : Nat := 0
  ipa2 : Nat := 0                  -- the stage-2 leaf: intermediate base and size
  size2 : Nat := 0
  tabs : List (Nat × Nat) := []    -- the stage-2 leaves under which its stage-1 tables were read
  deriving DecidableEq, Repr

/-- A frame-record entry (R79). -/
structure Frame where
  state : Nat := 0
  owner : Nat := 1
  borrower : Nat := 0
  rvk : Nat := 0
  prot : Bool := false
  watch : Bool := false
  exported : Bool := false
  lro : Bool := false
  tenant : Nat := 0
  key : Nat := 0
  seq : Nat := 1
  deadline : Nat := 0
  bten : Nat := 0
  deriving DecidableEq, Repr

/-- An event record (R76); `dseq` 0 while it has none. -/
structure EvRec where
  dseq : Nat := 0
  hseq : Word := 0
  kind : Nat := 0
  status : Nat := 0
  flags : Nat := 0
  vals : List Word := []
  deriving DecidableEq, Repr

/-- What happens when every acknowledgement of a revocation is in (R83). -/
inductive AfterRevoke where
  | nothing
  | thread (h slot : Nat)
  | command (hseq : Nat) (vals : List Word)
  | retire (frame : Nat)
  deriving DecidableEq, Repr

/-- A revocation in progress: who has not yet acknowledged (0–63 abutments, 64 the host port). -/
structure Revoke where
  id : Nat := 0
  frame : Nat := 0
  party : Nat := 0
  left : List Nat := []
  after : AfterRevoke := .nothing
  notes : List (Nat × EvRec) := []   -- events that the acknowledgements release: party and record (R81, R86)
  deriving DecidableEq, Repr

/-- A race record (R204). -/
structure RaceRec where
  gen : Nat := 0
  wv : Bool := false
  wcore : Nat := 0
  wclk : Nat := 0
  rv : Bool := false
  rcore : Nat := 0
  rclk : Nat := 0
  line : Nat := 0
  deriving DecidableEq, Repr

/-- A key slot (R98); EMPTY slots hold zeros. -/
structure KeySlot where
  loaded : Bool := false
  key1 : BitVec 256 := 0
  key2 : BitVec 256 := 0
  deriving DecidableEq, Repr

/-! ### The host's side -/

/-- An accepted command in the journal (R75, R77). -/
structure Cmd where
  hseq : Nat := 0
  op : Nat := 0
  args : List Word := []
  started : Bool := false
  done : Bool := false
  status : Nat := 0
  recorded : Bool := false
  deriving DecidableEq, Repr

/-- One event ring: the host's or the accelerator kernel's (R76, R87). -/
structure EvRing where
  issued : Nat := 0                -- DSEQ of the last record issued
  waiting : List EvRec := []
  journal : List EvRec := []       -- the last 4,096 issued records, oldest first
  lost : Nat := 0
  lostSince : Nat := 0
  deriving DecidableEq, Repr

/-- What has left the package. -/
inductive Out where
  | msix (fn vec : Nat)
  | flit (port : Nat) (flit : Nat)
  | nak (port : Nat) (seq : Nat)
  | pfc (port prio quanta : Nat)
  | doe (answer : List Nat)
  | bisnp (frame : Nat)
  | hostRead (hpa : Nat) (data : Nat) (poison : Bool)
  | remote (answer : List Nat)
  /-- A request to another package: its node, the address there, the tenant it carries, and the access (R44, R45). -/
  | request (node rpa tenant : Nat) (kind : AccKind) (size data : Nat)
  /-- A PUT's bytes: the target node, the tenant, the KEY, the offset in the keyed range and the data (R53). -/
  | put (node tenant key offset : Nat) (data : List Nat)
  /-- This member's part of an ALLREDUCE to another member: node, tenant, group, which of its ALLREDUCEs, and bytes (R52). -/
  | contribution (node tenant group seq : Nat) (data : List Nat)
  /-- The other members of an abandoned operation are told so (R51). -/
  | abandon (node tenant group seq : Nat)
  /-- An answer to a time exchange: the asking node and the times of arrival and departure (R26). -/
  | timeAnswer (node t2 t3 : Nat)
  deriving DecidableEq, Repr

/-! ### Clocks -/

/-- A clock plan (R16). -/
structure Plan where
  ref : Nat := 200
  flags : Nat := 1
  freq : List Nat := List.replicate 20 1880
  band : List (Nat × Nat) := List.replicate 16 (0, 0)
  deriving DecidableEq, Repr

/-- A load in progress (R18–R21); `owner` is the HSEQ of a CLKPLAN, 0 for the accelerator kernel. -/
structure PlanLoad where
  owner : Nat := 0
  plan : Plan := {}
  todo : List Nat := []            -- sockets still to relock, in order
  deriving DecidableEq, Repr

/-! ### Links, collectives, ingest -/

/-- A flit that is sent and not yet acknowledged (R39): its sequence number and its bits; the address of the store it
carries, the access that waits for its answer and the collective operation it belongs to, 0 for none, which R40 needs where
the port goes DOWN. -/
structure Sent where
  seq : Nat := 0
  flit : Nat := 0
  addr : Option Nat := none
  acc : Nat := 0
  coll : Nat := 0
  deriving DecidableEq, Repr

/-- A scale-up port's link layer (R39–R42). -/
structure Port where
  state : Nat := 3
  retries : Nat := 0
  peer : Nat := 0
  peerPort : Nat := 0
  txSeq : Nat := 0
  rxSeq : Nat := 0
  replay : List Sent := []         -- unacknowledged flits, oldest first
  failed : Nat := 0                -- replays of the flit below without an acknowledgement
  nak : Option Nat := none         -- the flit last negatively acknowledged
  deriving DecidableEq, Repr

/-- An open collective operation (R46–R53). -/
structure Coll where
  id : Nat := 0
  tenant : Nat := 0
  put : Bool := false
  desc : Nat := 0                  -- the 64 descriptor bytes
  slotVa : Nat := 0
  asid : Nat := 0
  group : Nat := 0
  members : List Nat := []
  rank : Nat := 0
  seq : Nat := 0                   -- which of the tenant's ALLREDUCEs to the group it is (R52)
  deadline : Nat := 0
  contrib : List Nat := []         -- this member's SRC bytes
  lost : Bool := false             -- a PUT whose flit had no route: it ends UNREACHABLE (R40, R53)
  deriving DecidableEq, Repr

/-- An ingest ring's engine side (R62–R65). -/
structure Ring where
  head : Nat := 0
  tailSeen : Nat := 0
  drop : Nat := 0
  deriving DecidableEq, Repr

/-! ### Scheduler -/

/-- A message offered to a logical core whose share has not begun (R318). -/
structure Early where
  k : Nat := 0
  slot : Nat := 0
  chan : Nat := 0
  m : Msg := {}
  deriving DecidableEq, Repr

/-- A launch resident on or saved from a partition (R114–R121). -/
structure Launch where
  q : Nat := 0
  lhead : Nat := 0
  part : Nat := 0
  tenant : Nat := 0
  asid : Nat := 0
  loc : Bool := false              -- its ring lies in host memory (R107)
  slot : Nat := 0                  -- address of its entry's slot
  entry : Nat := 0                 -- the 64 entry bytes
  desc : Nat := 0                  -- the 64 descriptor bytes
  members : List Nat := []         -- h of logical core k, at the commit
  base : Nat := 0                  -- the partition's interval at the commit
  len : Nat := 0
  where_ : List Nat := []          -- h that holds share k now
  left : List Nat := []            -- cores that left the partition since the commit (R95, R96)
  dies : Nat := 0
  acked : Nat := 0
  ended : List Nat := []           -- logical cores whose share has ended
  early : List Early := []         -- offers to shares that have not begun, oldest first
  earlyMc : List (Nat × Nat) := []  -- multicast copies waiting there: target k and the copy's identity
  wclk : Nat := 0                  -- clock of the counter its entry waited for (R206)
  clk : Nat := 0                   -- largest clock of an ended share (R206)
  saved : Bool := false
  late : Bool := false             -- saved after a WATCHDOG: entries of higher PRIO go first (R123)
  stopping : Nat := 0              -- 0 no; 1 saved for a slice end; 2 ended by SCHED.END; 3 reset; 4 SAVEFAIL
  deriving DecidableEq, Repr

/-- A saved share (R126, R128): the core state and the memories its record holds. -/
structure Saved where
  q : Nat := 0
  lhead : Nat := 0
  tenant : Nat := 0
  part : Nat := 0
  k : Nat := 0
  displaced : Bool := false
  host : Nat := 0                  -- core that a displaced share waits on
  core : Core := {}
  sent : SMap Nat := []            -- messages that channel c of slot t held when it was saved, at 8t + c
  replayed : List Acc := []        -- unforwarded atomics and waiting LDF requests
  missed : List (Nat × Nat × Bool) := []  -- barriers completed while it was saved: level, clock and generation (R315)
  deriving DecidableEq, Repr

/-- A partition's scheduling state (R112–R125). -/
structure PartSt where
  leader : Option Nat := none
  owner : Nat := 0
  sliceEnd : Option Nat := none   -- when the slice in progress ends (R125)
  lastQ : SMap Nat := []          -- the queue served last, by PRIO × 256 + tenant, 4,095 (R116)
  resizing : Bool := false
  newBase : Nat := 0
  newLen : Nat := 0
  leaving : List Nat := []
  deriving DecidableEq, Repr

/-- A migration in progress (R182). -/
structure Mig where
  src : Nat := 0
  dst : Nat := 0
  len : Nat := 0
  moving : Bool := false
  drained : Bool := false
  committed : Bool := false        -- COMMIT is done: requests are held until the source is invalidated
  scrub : Nat := 0                 -- base of the range that is written before it is FREE
  deriving DecidableEq, Repr

/-- What moves next, as plain data (log 5). -/
inductive Turn where
  /-- A step without an encoding, with its parameters. -/
  | event (i : Instr) (params : List Nat)
  /-- The thread in this slot issues. -/
  | thread (h slot : Nat)
  /-- An access enters its ordering point (R191). -/
  | enter (id : Nat)
  /-- An abutment drops a cached translation (R164). -/
  | evict (abut idx : Nat)
  /-- The ordering point of a die sends its next entry to its home (R192). -/
  | send (die : Nat)
  /-- A read of a granule is going to fail its CRC check: kind 1 with at most 4 wrong bytes, 2 with more (R183). -/
  | bitError (granule kind : Nat)
  /-- A line misses in its pier buffer for a requester on a die (R180). -/
  | miss (die pa : Nat)
  /-- A quad's instruction cache drops a line. -/
  | evictLine (quad idx : Nat)
  /-- Device time passes, in units of 2^-16 ns. -/
  | elapse (d : Nat)
  /-- The host stores `n` bytes into its own memory. -/
  | hostWrite (hpa n v : Nat)
  /-- A 64-byte line of host memory cannot be read or written from now on (`bad`), or can again (R19, R107, R121). -/
  | hostBad (line : Nat) (bad : Bool)
  /-- A core is going to fail the self-test of the next reset (R11). -/
  | coreFails (h : Nat)
  /-- Firmware sets its power cap (R32). -/
  | fwCap (w : Nat)
  /-- A domain peer at a port asks the interposer master for the time (R26). -/
  | timeAsk (port : Nat)
  /-- The scrub engine (0) writes one granule, or the migration engine (1) copies one (R104, R182). -/
  | granule (engine : Nat)
  /-- A failed pool page is reachable again (R69). -/
  | poolBack (page : Nat)
  /-- A port delivers the frame that it held while a page it writes moved (R64, R182). -/
  | heldFrame (port : Nat)
  deriving DecidableEq, Repr

/-! ### The package -/

/-- The whole state. -/
structure State where
  -- model's own: what moves next, whose turn it is, free values used, identities given out, what left
  agenda : List Turn := []
  params : List Nat := []
  curH : Nat := 0
  curSlot : Nat := 0
  fresh : Nat := 0
  nextId : Nat := 1
  out : List Out := []
  -- system registers of R395 from 0x040 on and the host window of R72, by number and index
  sr : SMap Word := []
  hcw : SMap Word := []
  -- package, clocks and time
  powered : Bool := true
  recordFatal : Bool := false
  poolFatal : Bool := false
  plan : Plan := {}
  freq : List Nat := List.replicate 20 1880   -- current frequency of each socket (R21, R33)
  load : Option PlanLoad := none
  dtime : SMap Word := []          -- units 0–7 the dies, 8–11 X0–X3, 12 the interposer's master
  twrap : SMap Word := []
  tstat : SMap Word := []
  tfail : SMap Nat := []
  aligned : Bool := false
  held : Nat := 0                  -- time by which a follower's units stand still (R26)
  tripCause : Bool := false
  gated : List Nat := []
  fwCap : Nat := 1800              -- firmware's power cap (R32)
  failing : List Nat := []         -- cores that will fail the next reset's self-test (R11)
  fwImage : Nat := 0               -- the firmware image: its bytes as one number, and its length
  fwLen : Nat := 0
  fwVersion : Nat := 0
  fwCounter : Nat := 0
  fwValid : Bool := true
  fwRecovery : Bool := false
  fwParts : List (Nat × Nat × Nat) := []   -- offset, length and bytes of the image parts streamed so far
  bootDigest : Nat := 0
  -- links, collectives, ingest, pool
  ports : SMap Port := []
  collIdx : SMap Nat := []
  colls : List Coll := []
  collSeq : SMap Nat := []         -- ALLREDUCEs submitted so far, by tenant × 4,096 + group (R52)
  rules : SMap (BitVec 512) := []  -- port × 256 + rule, 0
  ruleLoad : Option (Nat × Nat) := none
  rings : SMap Ring := []
  xoff : List (Nat × Nat) := []    -- port and priority with XOFF sent
  ingHeld : List (Nat × List Nat) := []  -- frames that a port holds while a page they write moves, oldest first (R182)
  delivered : List (Nat × Nat) := []     -- flits that a port's link layer has handed to the layer above (R39)
  flitWait : List Sent := []       -- flits that wait for room in a replay buffer, oldest first (R39)
  poolRd : SMap Nat := []
  poolWr : SMap Nat := []
  poolFailed : List Nat := []
  poolCtx : List (Nat × Nat) := [] -- address spaces and tenants that stay stopped after their failed page is back (R69)
  -- host interface and the frame record
  hdmRegs : SMap Word := []        -- the HDM decoder as programmed: 0 HDMBASE, 1 size, 2 control (R70)
  hdmBase : Option Nat := none     -- HDMBASE of the committed decoder
  hostDirty : List Nat := []       -- lines of device memory the host holds modified
  hostBad : List Nat := []         -- 64-byte lines of host memory that cannot be reached
  cmds : List Cmd := []
  evHost : EvRing := {}
  evAcc : EvRing := {}
  frames : SMap Frame := []        -- keystone's frames as `Frame.init` says, others FREE
  revokes : List Revoke := []
  hostChk : List (Nat × Bool) := []  -- the host port's cached frame checks: frame and whether writes pass
  -- tenants, keys, scrub
  keys : SMap KeySlot := []
  keyData : SMap Word := []
  vfResets : List (Nat × Nat × List Nat) := []  -- tenant, step and the VFRESET commands that joined
  exclBusy : List Nat := []
  exclWait : List (Nat × Bool) := []
  scrubMarked : List (Nat × Nat) := []   -- list index and frame of the entries marked
  scrubHeld : Bool := false        -- a warm reset's scrub waits for SCRUB_RESUME (R105)
  -- scheduler
  fcClk : SMap Nat := []
  partSeen : Bool := false         -- some partition has been enabled (R157)
  bootDue : Bool := false          -- a warm reset's boot start is due (R158)
  parts : SMap PartSt := []
  launches : List Launch := []
  saved : List Saved := []
  -- cores
  cores : SMap Core := []
  quads : SMap Quad := []
  -- memory side
  mem : List Host.Cell := []
  fe : SMap Bool := []             -- full/empty bit of word loc / 4, empty
  poison : List Nat := []          -- poisoned granules, loc / 256
  rewritten : SMap Nat := []       -- bytes of a poisoned granule that writes covering it whole have written (R183)
  packed : List Nat := []          -- granules stored packed
  noSym : List Nat := []           -- granules without correction symbols (R186)
  accs : List Acc := []            -- accesses in flight, oldest first
  entered : SMap Nat := []         -- entries of each die's ordering point so far
  sent : SMap Nat := []            -- how many of them have been sent to their homes, in order (R192)
  xls : List Xl := []
  hot : SMap Nat := []             -- hotness counter 4 × region + quadrant
  mig : Option Mig := none
  hotRows : List (Nat × Nat) := []
  bitErr : List (Nat × Nat) := []  -- granules whose next read fails its CRC check: 1 at most 4 wrong bytes, 2 more (R183)
  corrReads : SMap Nat := []       -- corrected reads of a granule since cold reset or its row's repair (R185)
  uncorr : List Nat := []          -- granules with an uncorrectable error in a row not yet repaired (R185)
  recLost : List (Nat × Nat) := [] -- lost parts of the frame record: copy and frame of the copy (R186)
  recAt : SMap Nat := []           -- where a rebuilt part lies: copy × 2048 + frame of the copy
  race : SMap RaceRec := []
  relClk : SMap Nat := []          -- release clock of pier × 256 + tenant
  sweeps : List Nat := []          -- tenants whose generation sweep runs (R209)
  deriving DecidableEq, Repr

/-- The frames that the keystone holds after a cold reset (R79): the record's two copies, the correction region, the
race table, the logical position table and its own frames (DESIGN CHOICE of places, log 4). -/
def keystoneFrame (f : Nat) : Bool :=
  decide (0x7C0000 ≤ f ∧ f < 0x800000) || decide (0x780000 ≤ f ∧ f < 0x780800) || decide (0x790000 ≤ f ∧ f < 0x790800) ||
    decide (0x7A0000 ≤ f ∧ f < 0x7B0000) || decide (0x781000 ≤ f ∧ f < 0x781002)

/-- A frame's entry as the keystone initialises it (R79). -/
def Frame.init (f : Nat) : Frame := if keystoneFrame f then { state := 1, owner := 2 } else {}

/-- The machine right after a cold reset (R11, R79, R134): every slot FREE, no partition, queue or tenant enabled, the
default clock plan in force, memory with nothing listed. -/
def State.reset : State := {}

end Sys2Proof.Machine
end

