-- ==== Sys2Proof/Machine/Ops.lean ====
section
/-! DEFINITION. The named operations over cores, threads, registers, windows and memory that every meaning is built
from, and taking a user trap or a kernel fault (R155, R156, R397) with the return from one (R398, R403). -/

namespace Sys2Proof.Machine

/-! ### Places: sockets, Hilbert index, liveness -/

/-- Die number (socket) of the core at global index `h` (R10, R91). -/
def dieOf (h : Nat) : Nat := if h / 1024 < 4 then h / 1024 else 11 - h / 1024

/-- Die position of a socket (R10). -/
def posOf (die : Nat) : Nat := if die < 4 then die else 11 - die

/-- One level of the inverse of the Hilbert walk of R91. -/
def hilStep (st : Nat × Nat × Nat) (s : Nat) : Nat × Nat × Nat :=
  let (t, x, y) := st
  let rx := t / 2 % 2
  let ry := (t + rx) % 2
  let (x1, y1) := if ry = 0 then (if rx = 1 then (s - 1 - y, s - 1 - x) else (y, x)) else (x, y)
  (t / 4, x1 + s * rx, y1 + s * ry)

/-- (col, row) of the core whose in-die Hilbert index is `d`: the inverse of Hil (R91). -/
def hilInv (d : Nat) : Nat × Nat :=
  let r := [1, 2, 4, 8, 16].foldl hilStep (d, 0, 0)
  (r.2.1, r.2.2)

/-- One level of Hil. -/
def hilFwd (st : Nat × Nat × Nat) (s : Nat) : Nat × Nat × Nat :=
  let (d, x, y) := st
  let rx := x / s % 2
  let ry := y / s % 2
  let d1 := d + s * s * ((3 * rx) ^^^ ry)
  if ry = 0 then (if rx = 1 then (d1, 31 - y, 31 - x) else (d1, y, x)) else (d1, x, y)

/-- Hil(row, col) of R91. -/
def hil (row col : Nat) : Nat := ([16, 8, 4, 2, 1].foldl hilFwd (0, col, row)).1

def colOf (h : Nat) : Nat := (hilInv (h % 1024)).1
def rowOf (h : Nat) : Nat := (hilInv (h % 1024)).2

/-- The abutment of a core: one for four columns, eight for a die (R164). -/
def abutOf (h : Nat) : Nat := dieOf h * 8 + colOf h / 4

/-- Element of `HARV.MAP` and bit of the core (R12). -/
def mapPlace (h : Nat) : Nat × Nat :=
  let n := rowOf h * 32 + colOf h
  (16 * dieOf h + n / 64, n % 64)

/-- The core at `h` is live as fused (R12). -/
def fusedLive (h : Nat) : Bool := decide (h < 8192) && (Config.harvMap (mapPlace h).1).getLsbD (mapPlace h).2

/-- The highest live position below `n` of the die at `base`. -/
def highestLive (live : Nat → Bool) (base : Nat) : Nat → Nat
  | 0 => base
  | n + 1 => if live (base + n) then base + n else highestLive live base n

/-! ### System registers by number (R395) -/

/-- Reset value of element `i` of system register `n`. -/
def srReset (n i : Nat) : Word :=
  match n with
  | 0x20 => Config.harvMap i
  | 0x22 => BitVec.ofNat 64 Config.lptBase
  | 0x45 => 1800
  | 0x70 => BitVec.ofNat 64 Config.frecBase
  | 0x71 => 8388608
  | 0xB0 => if i < 8 then BitVec.ofNat 64 (2 ^ 63 + highestLive fusedLive (1024 * posOf i) 1024) else 0
  | 0xD0 => 0x0808_0800_0000_0000  -- stock of spares, DESIGN CHOICE (log 1)
  | 0xD8 => BitVec.ofNat 64 Config.raceBase
  | 0xD9 => BitVec.ofNat 64 Config.raceLog
  | _ => 0

/-- Stored value of element `i` of system register `n`. -/
def State.srv (s : State) (n i : Nat) : Word := s.sr.val (n * 65536 + i) (srReset n i)

/-- The state with element `i` of system register `n` stored. -/
def State.setSr (s : State) (n i : Nat) (v : Word) : State := { s with sr := s.sr.put (n * 65536 + i) v }

/-- A field of a stored system register. -/
def State.srf (s : State) (n i hi lo : Nat) : Nat := wbits (s.srv n i) hi lo

/-- The state with a field of a stored system register set. -/
def State.setSrf (s : State) (n i hi lo v : Nat) : State := s.setSr n i (putBits (s.srv n i) hi lo v)

/-- A core is live (R12). -/
def State.live (s : State) (h : Nat) : Bool :=
  decide (h < 8192) && (s.srv 0x20 (mapPlace h).1).getLsbD (mapPlace h).2

/-- Index in `SVC.CORE` of a system core (R157). -/
def State.svcIndex (s : State) (h : Nat) : Option Nat :=
  firstBelow 32 fun i => decide (s.srv 0xB0 i = BitVec.ofNat 64 (2 ^ 63 + h))

/-- A thread runs at kernel level exactly on a system core (R391). -/
def State.isSys (s : State) (h : Nat) : Bool := (s.svcIndex h).isSome

/-- Core of `SVC.CORE`[i]; an entry that is not valid routes to entry 0 (R159). -/
def State.svcCore (s : State) (i : Nat) : Nat :=
  if (s.srv 0xB0 i).getLsbD 63 then s.srf 0xB0 i 12 0 else s.srf 0xB0 0 12 0

/-! ### Cores, quads and threads -/

def State.core (s : State) (h : Nat) : Core := s.cores.val h {}
def State.setCore (s : State) (h : Nat) (c : Core) : State := { s with cores := s.cores.put h c }
def State.onCoreAt (s : State) (h : Nat) (f : Core → Core) : State := s.setCore h (f (s.core h))
def State.quad (s : State) (q : Nat) : Quad := s.quads.val q {}
def State.onQuad (s : State) (q : Nat) (f : Quad → Quad) : State := { s with quads := s.quads.put q (f (s.quad q)) }
def Core.thr (c : Core) (k : Nat) : Thread := c.threads.val k {}
def Core.setThr (c : Core) (k : Nat) (t : Thread) : Core := { c with threads := c.threads.put k t }
def State.thr (s : State) (h k : Nat) : Thread := (s.core h).thr k
def State.setThr (s : State) (h k : Nat) (t : Thread) : State := s.onCoreAt h fun c => c.setThr k t
def State.onThr (s : State) (h k : Nat) (f : Thread → Thread) : State := s.setThr h k (f (s.thr h k))

/-- The issuing thread. -/
def State.cur (s : State) : Thread := s.thr s.curH s.curSlot

/-- The issuing thread changed. -/
def State.onCur (s : State) (f : Thread → Thread) : State := s.onThr s.curH s.curSlot f

/-- The issuing thread's core. -/
def State.cc (s : State) : Core := s.core s.curH

/-- The issuing thread's core changed. -/
def State.onCC (s : State) (f : Core → Core) : State := s.onCoreAt s.curH f

/-- The issuing thread runs at kernel level (R391). -/
def State.kernel (s : State) : Bool := s.isSys s.curH

/-- Parameter `i` of the step in progress; 0 where it has none. -/
def State.param (s : State) (i : Nat) : Nat := s.params.getD i 0

/-! ### Scalar, vector, predicate and identifier registers (R252, R292) -/

/-- The physical register of scalar field `n`: g registers 0–7, stack entry i as 8 + i (R149, R292). -/
def Thread.phys (t : Thread) (n : Nat) : Nat := if n < 8 then n else 8 + (t.base + (n - 8)) % 128

/-- The value of a physical scalar register; field 0 reads 0 (R252). -/
def Thread.rdPhys (t : Thread) (i : Nat) : Word :=
  if i = 0 then 0 else if i < 8 then t.g.val i 0 else t.stk.val (i - 8) 0

/-- A physical scalar register written; field 0 discards (R252). -/
def Thread.wrPhys (t : Thread) (i : Nat) (x : Word) : Thread :=
  if i = 0 then t else if i < 8 then { t with g := t.g.put i x } else { t with stk := t.stk.put (i - 8) x }

/-- ReadG(n) of R258. -/
def Thread.readG (t : Thread) (n : Nat) : Word := t.rdPhys (t.phys n)

/-- The write of WriteG(n, x) once its LOOKAHEAD check has passed (R258). -/
def Thread.writeG (t : Thread) (n : Nat) (x : Word) : Thread := t.wrPhys (t.phys n) x

/-- An open window of the thread has scalar field `n` as its destination (R149). Field 0 names no register. -/
def Thread.openG (t : Thread) (n : Nat) : Bool :=
  decide (n ≠ 0) && t.pend.any fun e => decide (e.dest = .scalar (t.phys n))

def Thread.rdV (t : Thread) (n : Nat) : VReg := t.v.val n 0
def Thread.wrV (t : Thread) (n : Nat) (x : VReg) : Thread := { t with v := t.v.put n x }
def Thread.openV (t : Thread) (n : Nat) : Bool := t.pend.any fun e => decide (e.dest = .vector n)

/-- Predicate registers; p0 reads as all-true and discards writes (R252, R330): see `Thread.gov`. -/
def Thread.rdP (t : Thread) (n : Nat) : PReg := t.p.val n 0
def Thread.wrP (t : Thread) (n : Nat) (x : PReg) : Thread := { t with p := t.p.put n x }
def Thread.gov (t : Thread) (n : Nat) : PReg := if n = 0 then BitVec.allOnes 256 else t.rdP n
def Thread.rdD (t : Thread) (n : Nat) : Ident := t.d.val n 0
def Thread.wrD (t : Thread) (n : Nat) (x : Ident) : Thread := { t with d := t.d.put n x }
def Thread.openD (t : Thread) (n : Nat) : Bool := t.pend.any fun e => decide (e.dest = .ident n)

def State.g (s : State) (n : Nat) : Word := s.cur.readG n
def State.wrG (s : State) (n : Nat) (x : Word) : State := s.onCur fun t => t.writeG n x

/-! ### REPCNT (R302) -/

def repRem (r : Word) : Nat := wbits r 22 16
def repAct (r : Word) : Bool := r.getLsbD 15
def repMask (r : Word) : Nat := wbits r 14 12
def repNm1 (r : Word) : Nat := wbits r 11 6
def mkRep (rem : Nat) (act : Bool) (mask nm1 : Nat) : Word :=
  BitVec.ofNat 64 (rem % 128 * 65536 + b2n act * 32768 + mask % 8 * 4096 + nm1 % 64 * 64)

/-- One repetition is done (R302): at the last, ACT clears and the thread goes on after the target. -/
def Thread.repDone (t : Thread) (len : Nat) : Thread :=
  let rem := repRem t.rep - 1
  if rem = 0 then { t with rep := mkRep 0 false (repMask t.rep) (repNm1 t.rep), pc := t.pc + 4 + BitVec.ofNat 64 len }
  else { t with rep := mkRep rem true (repMask t.rep) (repNm1 t.rep) }

/-! ### Issue: windows counted, program counter advanced -/

/-- Every open window counts the instruction that issues (R148), whose accesses used up SUPP (R208). A new entry is made
with one more. -/
def Thread.count (t : Thread) : Thread :=
  { t with pend := t.pend.map fun e => { e with cnt := e.cnt - 1 }, iss := true, supp := false, fetched := [] }

/-- The instruction of `len` bytes has issued: the windows count it, a stall's progress ends, and the thread goes on at
the next instruction or the next repetition (R148, R302). -/
def Thread.retire (t : Thread) (len : Nat) : Thread :=
  let t1 := { t.count with wait := .none }
  if repAct t1.rep then t1.repDone len else { t1 with pc := t1.pc + BitVec.ofNat 64 len }

/-- The same for a transfer to `pc` (R289). Where software has made it a repetition's target, which `REP` refuses, the
repetition's own rule sets the program counter (R302; DEDUCED, log 85). -/
def Thread.goto (t : Thread) (pc : Word) : Thread :=
  let t1 := { t.count with wait := .none }
  if repAct t1.rep then t1.repDone 4 else { t1 with pc := pc }

def State.retire (s : State) (len : Nat) : State := s.onCur fun t => t.retire len
def State.goto (s : State) (pc : Word) : State := s.onCur fun t => t.goto pc

/-- A new identity. -/
def State.newId (s : State) : State × Nat := ({ s with nextId := s.nextId + 1 }, s.nextId)

/-- A new free value's number. -/
def State.freshN (s : State) : State × Nat := ({ s with fresh := s.fresh + 1 }, s.fresh)

/-! ### Gangs ending for a member (R143, R144) -/

/-- A core leaves its gang for good. -/
def Core.leaveGang (c : Core) : Core :=
  match c.gang with
  | none => c
  | some g => { c with gang := none, relay := [], threads := c.threads.put g.slot { c.thr g.slot with inGang := false } }

/-- The members of the gang that `leader` leads: the cores whose gang names it and stands. -/
def State.gangMembers (s : State) (leader : Nat) : List Nat :=
  (s.cores.filter fun p => match p.2.gang with | some g => decide (g.leader = leader) && !g.dissolved | none => false).map Prod.fst

/-- A follower of a dissolved gang: it leaves once it has issued what was relayed to it (R143, R144). -/
def Core.endGang (c : Core) : Core :=
  match c.gang with
  | none => c
  | some g => { c with gang := some { g with dissolved := true } }

/-- The gang that core `leader` leads dissolves: the leader is alone at once, each follower after the last instruction
relayed to it (R143). -/
def State.dissolve (s : State) (leader : Nat) : State :=
  ((s.gangMembers leader).foldl (fun s h => s.onCoreAt h Core.endGang) s).onCoreAt leader Core.leaveGang

/-- The gang ends for a member that traps or parks: a leader's gang dissolves, a follower detaches (R143). -/
def State.gangTrap (s : State) (h slot : Nat) : State :=
  match (s.core h).gang with
  | none => s
  | some g =>
    if g.slot ≠ slot then s
    else if g.leader = h then s.dissolve h else s.onCoreAt h Core.leaveGang

/-! ### Kernel faults and user traps -/

/-- The tenant a thread's requests carry: 0 on a system core (R391), else that of its share (R88). -/
def State.tenantOf (s : State) (h : Nat) : Nat :=
  if s.isSys h then 0 else match (s.core h).share with | some sh => sh.tenant | none => 0

/-- The address space of a thread (R158). -/
def State.asidOf (s : State) (h k : Nat) : Nat :=
  if s.isSys h then (s.thr h k).asid else match (s.core h).share with | some sh => sh.asid | none => (s.thr h k).asid

/-- A fault record joins the records waiting in its core (R156, R157). -/
def State.faultRec (s : State) (h : Nat) (r : FRec) : State :=
  s.onCoreAt h fun c => { c with frecs := c.frecs ++ [r] }

/-- A kernel fault of a thread (R156): it parks at its program counter and a fault record is sent. -/
def State.kfaultAt (s : State) (h k code addr : Nat) (lpc : Word) (pent info : Nat) : State :=
  let t := s.thr h k
  let r : FRec := { pc := t.pc, addr := addr, code := code, asid := s.asidOf h k, tenant := s.tenantOf h, slot := k,
                    lpc := lpc, pent := pent, info := info }
  ((s.onThr h k fun t => { t with st := .parked code, wait := .none, pent := pent, fetched := [] }).faultRec h r).gangTrap h k

/-- A kernel fault of the issuing thread at its instruction, with the faulting address (R156). -/
def State.kfault (s : State) (code addr : Nat) : State := s.kfaultAt s.curH s.curSlot code addr 0 0 0

/-- PAGE, PERM, ... by code (R156). -/
abbrev fPAGE := 1
abbrev fPERM := 2
abbrev fREVOKED := 3
abbrev fPOISON := 4
abbrev fWATCHDOG := 5
abbrev fCLOCKEX := 6
abbrev fILLEGAL := 7
abbrev fPRIV := 8
abbrev fALIGN := 9

def State.illegal (s : State) : State := s.kfault fILLEGAL 0
def State.perm (s : State) (a : Nat) : State := s.kfault fPERM a
def State.alignF (s : State) (a : Nat) : State := s.kfault fALIGN a

/-- A user trap of a thread (R397), with the return address and, under R153, the long-latency instruction and the place + 1
of its entry. It becomes the kernel fault ILLEGAL while UTVEC.ADDR is 0 or a handler runs (R155), which names both
too (R156). -/
def State.utrapAt (s : State) (h k cause : Nat) (info lpc ret : Word) (ent : Nat) : State :=
  let t := s.thr h k
  if wbits t.utvec 56 2 = 0 ∨ t.trap.act = true then s.kfaultAt h k fILLEGAL 0 lpc ent cause
  else
    (s.onThr h k fun t => { t with
      trap := { act := true, cause := cause, pc := ret, info := info, lpc := lpc, rep := t.rep, pend := t.pend, ent := ent, mark := s.nextId },
      supp := false, rep := 0, pend := [], wait := .none, fetched := [],
      pc := canon (wbits t.utvec 56 2 * 4) + BitVec.ofNat 64 (16 * cause) }).gangTrap h k

/-- A user trap of the issuing thread at its own instruction. -/
def State.utrap (s : State) (cause : Nat) (info : Word) : State :=
  s.utrapAt s.curH s.curSlot cause info 0 s.cur.pc 0

/-- LOOKAHEAD (R149). -/
def State.lookahead (s : State) : State := s.utrap 3 0

/-- The dispatched instruction of an entry may run again (R365). -/
def Core.rerun (c : Core) (ent : Nat) (supp : Bool) : Core :=
  { c with dq := c.dq.map fun d => if d.ent = ent ∧ d.faulted = true then { d with faulted := false, supp := supp } else d }

/-- An entry whose access faulted issues it again, on the core that runs its thread now (R131, R153): the accesses go back to
the abutment, where they translate again; they keep their identities, which are their place in program order (R190, R195).
A dispatched instruction runs again in full (R365). -/
def State.reissue (s : State) (h : Nat) (supp : Bool) (e : Pend) : State × Pend :=
  let runs := (s.core h).dq.any fun d => decide (d.ent = e.id) && d.faulted
  let accs := e.retry.map fun a => { a with h := h, ent := e.id, loc := 0, supp := supp, gone := false, st := .held }
  (({ s with accs := s.accs ++ accs }).onCoreAt h fun c => c.rerun e.id supp,
   { e with fault := none, retry := if e.kind = 1 then accs else [], missing := e.missing + e.retry.length + b2n runs })

/-- The entry in place `n` − 1 of a pending table, whose fault was taken, is reissued; the other faulted entries stay and
are taken oldest first when the closing instruction issues again (R153). A message whose tag differed is delivered under a
handler's SUPP, and judged again without it (R265). -/
def State.reissueAt (s : State) (h : Nat) (supp : Bool) (l : List Pend) (n : Nat) : State × List Pend :=
  match n with
  | 0 => (s, l)
  | i + 1 => match l[i]? with
    | none => (s, l)
    | some e => match e.fault with
      | none => (s, l)
      | some (.user 4 _) => (s, l.set i { e with fault := none, chan := if supp then none else e.chan })
      | some _ => let (s1, e1) := s.reissue h supp e; (s1, l.set i e1)

/-! ### Closing windows (R148, R152, R153) -/

/-- The value of a landed entry becomes visible (R148); an identifier's GEN is one more than before (R361). -/
def Thread.land (t : Thread) (e : Pend) : Thread :=
  match e.dest with
  | .none => t
  | .scalar i => t.wrPhys i (if e.sx = 0 then BitVec.ofNat 64 e.value else sx e.sx e.value)
  | .vector n => t.wrV n (BitVec.ofNat 2048 e.value)
  | .ident n => t.wrD n (BitVec.ofNat 512 (setField e.value 256 16 (recField (t.rdD n).toNat 32 2 + 1)))
  | .tile => t

/-- The fault an entry raises at its close: its access's, or NXMISMATCH when its message's tag differs from the NXM that its
RECV read at issue (R153, R264, R321). -/
def Pend.closeFault (e : Pend) : Option PFault :=
  match e.fault with
  | some f => some f
  | none => if e.chan.isSome && e.msgTag != e.nxm then some (.user 4 0) else none

/-- The outcome of closing the windows that are due. -/
inductive Closing where
  | ready (s : State)
  | stall (s : State)
  | taken (s : State)

/-- The first entry with a fault and its place in the table. -/
def firstFault : List Pend → Nat → Option (Nat × Pend × PFault)
  | [], _ => none
  | e :: t, i => match e.closeFault with | some f => some (i, e, f) | none => firstFault t (i + 1)

/-- Marks entry `i` with the fault it raises, which is then held in the entry. -/
def markFault : List Pend → Nat → PFault → List Pend
  | [], _, _ => []
  | e :: t, 0, f => { e with fault := some f } :: t
  | e :: t, i + 1, f => e :: markFault t i f

/-- Closes the entries that `due` selects for the issuing thread: waits for every one, takes the oldest one's fault,
or makes every value visible. -/
def State.close (s : State) (due : Pend → Bool) : Closing :=
  let t := s.cur
  let ds := t.pend.filter due
  if ds.any fun e => decide (e.missing ≠ 0) then .stall s
  else match firstFault (t.pend.map fun e => if due e then e else { e with fault := none, chan := none }) 0 with
    | some (i, e, .kernel c a) =>
      .taken ((s.onCur fun t => { t with pend := markFault t.pend i (.kernel c a) }).kfaultAt
        s.curH s.curSlot c a e.lpc (i + 1) 0)
    | some (i, e, .user c info) =>
      .taken ((s.onCur fun t => { t with pend := markFault t.pend i (.user c info) }).utrapAt
        s.curH s.curSlot c (BitVec.ofNat 64 info) e.lpc s.cur.pc (i + 1))
    | none =>
      .ready (s.onCur fun t => { ds.foldl Thread.land t with pend := t.pend.filter fun e => !due e })

/-- The windows that close at this issue (R148). -/
def State.closeDue (s : State) : Closing := s.close fun e => decide (e.cnt = 0)

/-- Every open window closes before the instruction executes (R152). -/
def State.closingAll (s : State) (f : State → State) : State :=
  match s.close fun _ => true with
  | .ready s1 => f s1
  | .stall s1 => s1
  | .taken s1 => s1

/-- A new pending entry of the issuing thread; the instruction has checked that one is free (R150). -/
def State.alloc (s : State) (e : Pend) (la : Nat) : State × Nat :=
  let (s1, id) := s.newId
  (s1.onCur fun t => { t with pend := t.pend ++ [{ e with id := id, cnt := la + 1, lpc := t.pc }] }, id)

/-- The pending table is full (R150). -/
def Thread.full (t : Thread) : Bool := decide (4 ≤ t.pend.length)

/-- Entry `id` of a thread changed, in the live table or in the trap state (R154). -/
def Thread.onPend (t : Thread) (id : Nat) (f : Pend → Pend) : Thread :=
  let m := fun e : Pend => if e.id = id then f e else e
  { t with pend := t.pend.map m, trap := { t.trap with pend := t.trap.pend.map m } }

/-- One outstanding part of entry `id` has arrived: `n` bits of the value at bit `lane`. -/
def Thread.arrive (t : Thread) (id lane n v : Nat) : Thread :=
  t.onPend id fun e => { e with value := setField e.value lane n v, missing := e.missing - 1 }

/-- The address that a held fault names. -/
def PFault.addr : PFault → Nat
  | .kernel _ a => a
  | .user _ a => a

/-- One outstanding part of entry `id` has faulted; its access is kept for the reissue (R153). Of several, the one at
the lowest address is taken (R342). -/
def Thread.arriveFault (t : Thread) (id : Nat) (f : PFault) (a : Acc) : Thread :=
  t.onPend id fun e =>
    { e with
      missing := e.missing - 1
      retry := if e.kind = 1 then e.retry else e.retry ++ [a]
      fault := match e.fault with | some f0 => some (if f.addr < f0.addr then f else f0) | none => some f }

/-! ### The return from a trap (R398) -/

/-- Windows that a handler has open beyond the places that the saved ones leave of the table's four (R150). -/
def Thread.excess (t : Thread) : Nat := t.trap.pend.length + t.pend.length - 4

/-- The oldest `n` windows of a table are due. -/
def dueFirst (n : Nat) (l : List Pend) : List Pend := (l.take n).map (fun e => { e with cnt := 0 }) ++ l.drop n

/-- RFT once its checks have passed: the saved state comes back, the entry whose fault was taken is
reissued, and windows that the handler left open stay open behind the restored ones. -/
def State.trapReturn (s : State) : State :=
  let t := s.cur
  let supp := decide (t.trap.cause = 10 ∨ t.trap.cause = 4)
  let (s1, pend) := s.reissueAt s.curH supp t.trap.pend t.trap.ent
  s1.onCur fun t => { t with
    rep := t.trap.rep, pend := pend ++ t.pend, supp := supp && decide (t.trap.ent = 0), pc := t.trap.pc, wait := .none,
    trap := { t.trap with act := false, pend := [], ent := 0 } }

/-! ### Memory: one byte map (log 3)

Device HBM and pool bytes lie at their physical address; the local store of core h at 2^52 + h·2^16; the deck of quad q
at 2^53 + q·2^19; host memory at 2^64 + its host physical address. -/

def lsLoc (h off : Nat) : Nat := 2 ^ 52 + h * 65536 + off
def deckLoc (q off : Nat) : Nat := 2 ^ 53 + q * 524288 + off
def hostLoc (hpa : Nat) : Nat := 2 ^ 64 + hpa

/-- The h of the `k`-th live core from position `h` on; none past the end (R14). -/
def nthLive (live : Nat → Bool) : Nat → Nat → Nat → Option Nat
  | 0, _, _ => none
  | fuel + 1, h, k =>
    if live h then (if k = 0 then some h else nthLive live fuel (h + 1) (k - 1)) else nthLive live fuel (h + 1) k

/-- The logical position table's entry k (R14). -/
def lptEntry (live : Nat → Bool) (k : Nat) : Nat :=
  match nthLive live 8192 0 k with
  | some h => dieOf h * 2 ^ 26 + rowOf h * 2 ^ 21 + colOf h * 2 ^ 16 + h
  | none => 0xFFFF_FFFF

/-- What a byte that is not listed reads as: the keystone's logical position table of the cores as fused, and 0
elsewhere (log 3). -/
def memInit (loc : Nat) : Byte :=
  if Config.lptBase ≤ loc ∧ loc < Config.lptBase + 65536 then
    (let o := loc - Config.lptBase
     if o < 4 * 8193 then BitVec.ofNat 8 (lptEntry fusedLive (o / 4) / 256 ^ (o % 4)) else 0)
  else 0

/-- The byte at a location in a list of cells. -/
def memGet : List Host.Cell → Nat → Byte
  | [], a => memInit a
  | (b, x) :: t, a => if b = a then x else if a < b then memInit a else memGet t a

/-- A list of cells with one byte written, in canonical form: addresses rising, no cell equal to what an unlisted
address reads as. -/
def memSet : List Host.Cell → Nat → Byte → List Host.Cell
  | [], a, v => if v = memInit a then [] else [(a, v)]
  | (b, x) :: t, a, v =>
    if b = a then (if v = memInit a then t else (a, v) :: t)
    else if a < b then (if v = memInit a then (b, x) :: t else (a, v) :: (b, x) :: t)
    else (b, x) :: memSet t a v

/-- The canonical form of a memory. -/
def Memory.wfFrom : Nat → List Host.Cell → Bool
  | _, [] => true
  | lo, (a, v) :: t => decide (lo ≤ a) && decide (v ≠ memInit a) && Memory.wfFrom (a + 1) t

def Memory.wf (m : List Host.Cell) : Bool := Memory.wfFrom 0 m

def State.rd8 (s : State) (loc : Nat) : Nat := (memGet s.mem loc).toNat
def State.wr8 (s : State) (loc v : Nat) : State := { s with mem := memSet s.mem loc (BitVec.ofNat 8 v) }

/-- `n` bytes from `loc`, little-endian (R2). -/
def State.rdN (s : State) (loc : Nat) : Nat → Nat
  | 0 => 0
  | n + 1 => s.rd8 loc + 256 * s.rdN (loc + 1) n

/-- `n` bytes written from `loc`, little-endian (R2). -/
def State.wrN (s : State) (loc : Nat) : Nat → Nat → State
  | 0, _ => s
  | n + 1, v => (s.wr8 loc (v % 256)).wrN (loc + 1) n (v / 256)

/-- The full/empty bit of the word at a location (R163). -/
def State.full (s : State) (loc : Nat) : Bool := s.fe.val (loc / 4) false
def State.setFull (s : State) (loc : Nat) (b : Bool) : State := { s with fe := s.fe.put (loc / 4) b }

/-- Every word of `[loc, loc + n)` set to the given full/empty state; `k` words. -/
def State.setFulls (s : State) (loc : Nat) (b : Bool) : Nat → State
  | 0 => s
  | k + 1 => (s.setFull loc b).setFulls (loc + 4) b k

/-- A range of memory cleared to zero with its words empty: the cells and bits of the range dropped and any other
initial contents overwritten. -/
def State.clearRange (s : State) (lo len : Nat) : State :=
  { s with mem := s.mem.filter fun c => !(decide (lo ≤ c.1) && decide (c.1 < lo + len)),
           fe := s.fe.filter fun c => !(decide (lo / 4 ≤ c.1) && decide (c.1 < (lo + len) / 4)) }

/-! ### Time (R23, R24) -/

def State.dt (s : State) (unit : Nat) : Nat := (s.dtime.val unit 0).toNat

/-- `DTIME.NS` of a unit (R23). -/
def State.ns (s : State) (unit : Nat) : Nat := s.dt unit / 65536

/-- `DTIME.NS` has reached a deadline, compared modulo 2^n (R24, R86). -/
def reached (n now deadline : Nat) : Bool := decide ((now + 2 ^ n - deadline % 2 ^ n) % 2 ^ n < 2 ^ (n - 1))

/-! ### Clocks of synchronisation (R206) -/

/-- An increment that an instruction makes would reach 0xFF_FFFF, or the core is clock-exhausted: CLOCKEX. -/
def Core.clockEx (c : Core) : Bool := c.clkEx || decide (c.sclk + 1 = 0xFFFFFF)

def Core.tick (c : Core) : Core := { c with sclk := c.sclk + 1 }

/-- The core acquires a clock; one of 0xFF_FFFF exhausts it (R206). -/
def Core.acquire (c : Core) (k : Nat) : Core :=
  let m := max c.sclk k
  { c with sclk := m, clkEx := c.clkEx || decide (m = 0xFFFFFF) }

/-- An increment that no instruction makes (R206). -/
def Core.tickFree (c : Core) : Core :=
  if c.sclk + 1 ≥ 0xFFFFFF then { c with sclk := 0xFFFFFF, clkEx := true } else c.tick

/-! ### The trap registers (R396) -/

/-- `TRAP.STAT` (R396). -/
def Thread.trapStat (t : Thread) : Nat :=
  b2n t.trap.act * 2 ^ 63 + b2n t.supp * 2 ^ 62 + t.trap.pend.length * 2 ^ 8 + t.trap.cause

/-- An entry's DEST (R396). -/
def Pend.destNum (e : Pend) : Nat :=
  match e.dest with
  | .scalar _ => e.field
  | .vector n => n
  | .ident n => n
  | _ => 0

/-- The value or completion of an entry has arrived (R396). -/
def Pend.landed (e : Pend) : Bool := decide (e.missing = 0) && e.fault.isNone

/-- Entry i of a pending table in the layout of `TRAP.PEND` (R396, R129). -/
def pendWord (l : List Pend) (i : Nat) : Nat :=
  match l[i]? with
  | none => 0
  | some e => 2 ^ 63 + b2n e.landed * 2 ^ 62 + b2n e.fault.isSome * 2 ^ 61 + e.cnt % 16 * 2 ^ 56 + e.kind * 2 ^ 52 + e.destNum

/-- The landed scalar value of entry i (R396, R129). -/
def pendVal (l : List Pend) (i : Nat) : Word :=
  match l[i]? with
  | none => 0
  | some e => if e.kind = 0 ∧ e.landed then (if e.sx = 0 then BitVec.ofNat 64 e.value else sx e.sx e.value) else 0

/-- `TRAP.PEND`[i] and `TRAP.PVAL`[i] (R396). -/
def Thread.trapPend (t : Thread) (i : Nat) : Nat := pendWord t.trap.pend i
def Thread.trapVal (t : Thread) (i : Nat) : Word := pendVal t.trap.pend i

/-! ### Interrupt bits of a system core (R159) -/

def State.setPend (s : State) (h b : Nat) : State :=
  s.onCoreAt h fun c => { c with ipend := c.ipend ||| 2 ^ b }

/-- An event interrupts the system core that an index register names (R159). -/
def State.interrupt (s : State) (idx b : Nat) : State := s.setPend (s.svcCore idx) b

end Sys2Proof.Machine
end

