-- ==== Sys2Proof/Machine/Xlat.lean ====
section
/-! DEFINITION. Virtual spaces (R161, R162), the frame check (R84, R98, R169), the two-stage walk (R164–R168, R178)
the placement of granules on piers (R176–R178), encryption at the piers
(R98, R100) and the check of every read (R183). -/

namespace Sys2Proof.Machine

/-! ### Virtual spaces -/

/-- The rows of R161. -/
inductive Space where
  | ls (off : Nat)
  | deck (off : Nat)
  | global
  | none
  deriving DecidableEq, Repr

def spaceOf (a : Nat) : Space :=
  if 0xFFFFFF0000000000 ≤ a then (if a ≤ 0xFFFFFF000000FFFF then .ls (a - 0xFFFFFF0000000000) else .none)
  else if 0xFFFFFE0000000000 ≤ a then (if a ≤ 0xFFFFFE000007FFFF then .deck (a - 0xFFFFFE0000000000) else .none)
  else if a / 2 ^ 56 = 0 ∨ a / 2 ^ 56 = 0xFF then .global
  else .none

/-- Two addresses lie in one row of R161 that does not raise PERM. -/
def sameRow (a b : Nat) : Bool :=
  match spaceOf a, spaceOf b with
  | .ls _, .ls _ => true
  | .deck _, .deck _ => true
  | .global, .global => decide (a / 2 ^ 56 = b / 2 ^ 56)
  | _, _ => false

/-! ### Partitions and deck shares -/

/-- The enabled partition whose interval contains position `h` (R94). -/
def State.partOf (s : State) (h : Nat) : Option Nat :=
  firstBelow 64 fun j => (s.srv 0x88 j).getLsbD 63 &&
    decide (s.srf 0x89 j 12 0 ≤ h ∧ h < s.srf 0x89 j 12 0 + s.srf 0x8A j 13 0)

/-- Bit of `PART.EXCL` of a core (R96). -/
def State.excl (s : State) (h : Nat) : Bool := (s.srv 0x8B (mapPlace h).1).getLsbD (mapPlace h).2

/-- A core is a member core of partition `j` (R93). -/
def State.member (s : State) (j h : Nat) : Bool :=
  (s.srv 0x88 j).getLsbD 63 && decide (s.srf 0x89 j 12 0 ≤ h ∧ h < s.srf 0x89 j 12 0 + s.srf 0x8A j 13 0)
    && s.live h && !s.excl h && !s.isSys h

/-- The member cores of an interval in ascending h. -/
def State.membersFrom (s : State) (j : Nat) : Nat → Nat → List Nat
  | _, 0 => []
  | h, n + 1 => if s.member j h then h :: s.membersFrom j (h + 1) n else s.membersFrom j (h + 1) n

def State.members (s : State) (j : Nat) : List Nat := s.membersFrom j (s.srf 0x89 j 12 0) (s.srf 0x8A j 13 0)

/-- A thread of core `h` may access the deck share at an offset of its quad's deck (R94). -/
def State.deckOk (s : State) (h off : Nat) : Bool :=
  let p := s.partOf (h / 4 * 4 + off / 0x20000)
  if s.isSys h then decide (p = none) else decide (p = s.partOf h)

/-! ### Placement (R176–R178) -/

/-- The slab of a physical address is homed (R176). -/
def State.homed (s : State) (pa : Nat) : Bool := (s.srv 0xC0 0).getLsbD (pa / 2 ^ 33)

/-- The pier that is home to the granule at a physical address of device HBM (R177, R178). -/
def State.pierOf (s : State) (pa : Nat) : Nat :=
  if s.homed pa then 64 * bits pa 32 30 + (bits pa 13 8 ^^^ bits pa 19 14 ^^^ bits pa 25 20 ^^^ bits pa 29 26)
  else bits pa 16 8 ^^^ bits pa 25 17 ^^^ bits pa 34 26 ^^^ bits pa 38 35

/-- Device HBM, pool and remote physical addresses (R44, R67). -/
def isHbm (pa : Nat) : Bool := decide (pa < 2 ^ 39)
def isPool (pa : Nat) : Bool := decide (2 ^ 46 ≤ pa ∧ pa < 2 ^ 47)
def isRemote (pa : Nat) : Bool := decide (2 ^ 47 ≤ pa ∧ pa < 2 ^ 48)

/-! ### The frame record (R79, R84) -/

def State.frame (s : State) (f : Nat) : Frame := s.frames.val f (Frame.init f)
def State.setFrame (s : State) (f : Nat) (e : Frame) : State := { s with frames := s.frames.put f e }

/-- The page of a location is watched: its frame's entry says so (R203). -/
def State.watchedAt (s : State) (loc : Nat) : Bool := isHbm loc && (s.frame (loc / 65536)).watch

/-! ### Encryption (R98, R100) -/

/-- A pier enciphers what lies here: the frame's entry has PROT = 1 (R98). -/
def State.enciphered (s : State) (loc : Nat) : Bool := isHbm loc && (s.frame (loc / 65536)).prot

/-- The key slot of a location's frame. -/
def State.slotAt (s : State) (loc : Nat) : KeySlot := s.keys.val (s.frame (loc / 65536)).key {}

/-- The slot of an enciphered location is EMPTY (R100). -/
def State.keyGone (s : State) (loc : Nat) : Bool := s.enciphered loc && !(s.slotAt loc).loaded

/-- A reader of this location takes POISON: a poisoned granule (R183), or an EMPTY key slot (R100). -/
def State.poisoned (s : State) (loc : Nat) : Bool := (isHbm loc && s.poison.contains (loc / 256)) || s.keyGone loc

/-- The 16 bytes stored from `loc` on deciphered under a key slot with the tweak of their line (R98). -/
def State.plainBlk (s : State) (k : KeySlot) (loc : Nat) : Blk :=
  xtsDec k.key1 k.key2 (loc / 64 % 2 ^ 42) (loc / 16 % 4) (Blk.ofNat (s.rdN loc 16))

/-- 16 bytes enciphered under a key slot and stored from `loc` on (R98). -/
def State.putBlk (s : State) (k : KeySlot) (loc : Nat) (b : Blk) : State :=
  s.wrN loc 16 (xtsEnc k.key1 k.key2 (loc / 64 % 2 ^ 42) (loc / 16 % 4) b).toNat

/-- The byte that a pier reads at a location, deciphered where its frame is protected. -/
def State.rdP8 (s : State) (loc : Nat) : Nat :=
  if s.enciphered loc then ((s.plainBlk (s.slotAt loc) (loc / 16 * 16)).get (loc % 16)).toNat else s.rd8 loc

/-- A byte written through a pier, enciphered with its block where the frame is protected. -/
def State.wrP8 (s : State) (loc v : Nat) : State :=
  if s.enciphered loc then
    s.putBlk (s.slotAt loc) (loc / 16 * 16) ((s.plainBlk (s.slotAt loc) (loc / 16 * 16)).set (loc % 16) (BitVec.ofNat 8 v))
  else s.wr8 loc v

/-- `n` bytes read through the piers, little-endian. -/
def State.rdP (s : State) (loc : Nat) : Nat → Nat
  | 0 => 0
  | n + 1 => s.rdP8 loc + 256 * s.rdP (loc + 1) n

/-- `n` bytes written through the piers, little-endian. -/
def State.wrP (s : State) (loc : Nat) : Nat → Nat → State
  | 0, _ => s
  | n + 1, v => (s.wrP8 loc (v % 256)).wrP (loc + 1) n (v / 256)

/-- The 64 KiB from `loc` on, deciphered in place under a key slot, or enciphered (R98). -/
def State.decipherPage (s : State) (k : KeySlot) (loc : Nat) : State :=
  (List.range 4096).foldl (fun s i => s.wrN (loc + 16 * i) 16 (s.plainBlk k (loc + 16 * i)).toNat) s

def State.encipherPage (s : State) (k : KeySlot) (loc : Nat) : State :=
  (List.range 4096).foldl (fun s i => s.putBlk k (loc + 16 * i) (Blk.ofNat (s.rdN (loc + 16 * i) 16))) s

/-! ### The check of every read (R183) -/

/-- A failed CRC check (R183): corrected and counted, or counted and poisoned when more than 4 bytes are wrong or the
symbols are gone (R186). Either counts towards the failure of the granule's row (R185). -/
def State.crc (s : State) (pa k : Nat) : State :=
  let p := s.pierOf pa
  let g := pa / 256
  if k = 0 then s
  else if k = 1 ∧ ¬ s.noSym.contains g then
    { s.setSrf 0xD0 p 15 0 (min (s.srf 0xD0 p 15 0 + 1) 65535) with corrReads := s.corrReads.put g (s.corrReads.val g 0 + 1) }
  else
    let s1 := s.setSrf 0xD0 p 31 16 (min (s.srf 0xD0 p 31 16 + 1) 65535)
    { s1 with poison := if s1.poison.contains g then s1.poison else g :: s1.poison
              rewritten := s1.rewritten.del g
              uncorr := if s1.uncorr.contains g then s1.uncorr else g :: s1.uncorr }

/-- A read of `[loc, loc + n)` meets the bit errors that its granules have (R183). -/
def State.checkRead (s : State) (loc n : Nat) : State :=
  let hit := fun p : Nat × Nat => decide (loc / 256 ≤ p.1 ∧ p.1 * 256 < loc + n)
  let s1 := { s with bitErr := s.bitErr.filter fun p => !hit p }
  (s.bitErr.filter hit).foldl (fun s p => s.crc (p.1 * 256) p.2) s1

/-! ### Writes by the package's engines (R100, R183, R184) -/

/-- The granule may be stored packed: equal full/empty states and exponents within base to base + 7 (R184). -/
def State.packable (s : State) (g : Nat) : Bool :=
  let exps := (List.range 128).map fun i => bits (s.rdP (g * 256 + 2 * i) 2) 14 7
  let lo := exps.foldl min 255
  (exps.all fun e => decide (e ≤ lo + 7)) &&
    ((List.range 64).all fun i => s.full (g * 256 + 4 * i) == s.full (g * 256))

/-- After a write the granule is packed exactly when its leaf asks for it and it can be (R184). -/
def State.repack (s : State) (loc : Nat) (pack : Bool) : State :=
  let g := loc / 256
  if pack then
    (if s.packable g then { s with packed := g :: s.packed.erase g } else { s with packed := s.packed.erase g })
  else if s.packed.contains g then { s with packed := s.packed.erase g } else s

/-- After a write of the bytes `[loc, loc + n)` every granule they touch is stored in the form that the leaf asks for
(R184). -/
def State.repackAll (s : State) (loc n : Nat) (pack : Bool) : State :=
  if n = 0 then s
  else (List.range ((loc + n - 1) / 256 - loc / 256 + 1)).foldl (fun s i => s.repack (256 * (loc / 256 + i)) pack) s

/-- A dropped store is counted in bits 31:0, up to their maximum (DESIGN CHOICE, log 11), with the address of the first
(R40, R69, R100). -/
def State.countDrop (s : State) (n na addr : Nat) : State :=
  let s1 := if s.srv n 0 = 0 then s.setSr na 0 (BitVec.ofNat 64 addr) else s
  s1.setSrf n 0 31 0 (min (s1.srf n 0 31 0 + 1) 0xFFFFFFFF)

/-- A write covers every granule that lies in `[loc, loc + n)` whole: their poison marks go (R183). -/
def State.cover (s : State) (loc n : Nat) : State :=
  { s with poison := s.poison.filter fun g => !decide (loc ≤ g * 256 ∧ g * 256 + 256 ≤ loc + n) }

/-- Bytes that an engine or the keystone writes at a physical address: dropped and counted where the key slot is EMPTY, else
enciphered, the granules stored unpacked and those covered whole poisoned no longer (R98, R100, R183, R184). -/
def State.engPut (s : State) (loc n v : Nat) : State :=
  if s.keyGone loc then s.countDrop 0x94 0x95 loc
  else ((s.wrP loc n v).repackAll loc n false).cover loc n

/-- SEQ after a committed transaction; after 0xFFFF_FFFF it continues at 1 (R79). -/
def nextSeq (n : Nat) : Nat := if n = 0xFFFFFFFF then 1 else n + 1

def Frame.bump (e : Frame) : Frame := { e with seq := nextSeq e.seq }

/-- The outcome of the frame check. -/
inductive Chk where
  | grant (ro : Bool)
  | refuse (code : Nat)
  deriving DecidableEq, Repr

/-- A frame of the logical position table in service (R13). -/
def State.lptFrame (s : State) (f : Nat) : Bool := decide (s.srf 0x22 0 47 0 / 65536 = f)

/-- The frame check of R84 for party `p` (0 HOST, 1 ACCEL), tenant `t`, through a leaf that grants write when `w`. -/
def State.frameCheck (s : State) (f p t : Nat) (w : Bool) : Chk :=
  let e := s.frame f
  if e.state = 6 then .refuse fPOISON
  else if e.owner = 2 ∧ s.lptFrame f = true ∧ t = 0 then (if w then .refuse fPERM else .grant true)
  else if p = e.owner ∧ (e.state = 0 ∨ e.state = 1 ∨ e.state = 3 ∨ e.state = 4) ∧ (e.tenant = 0 ∨ e.tenant = t)
      ∧ ¬ (e.prot = true ∧ t = 0) then .grant false
  else if p + 1 = e.borrower ∧ (e.state = 3 ∨ e.state = 4) ∧ (e.bten = 0 ∨ e.bten = t) then .grant e.lro
  else if p + 1 = e.rvk ∨ e.state = 2 ∨ e.state = 5 then .refuse fREVOKED
  else .refuse fPERM

/-- The race records whose line lies in frame `f` are zeroed (R169, R210). -/
def State.zeroRace (s : State) (f : Nat) : State :=
  { s with race := s.race.filter fun p => decide (p.2.line / 1024 ≠ f) }

/-- A leaf of either stage (R167). -/
structure Leaf where
  base : Nat
  size : Nat
  rd : Bool
  w : Bool
  x : Bool
  prot : Bool
  watch : Bool
  exported : Bool
  fail : Bool
  pack : Bool

/-- A fill of a translation of the frame of `pa` on the core side (R84, R98, R169): the check, the commits it makes
and whether the grant is read-only. What the leaf itself may not do here (PROT for tenant 0, 64 KiB on a homed slab) gives PERM
before the check of the frame can give another fault, an order that the rules do not state (DESIGN CHOICE, log 70). -/
def State.frameFill (s : State) (t pa : Nat) (lf : Leaf) : State × Chk :=
  let f := pa / 65536
  let e := s.frame f
  if lf.prot ∧ t = 0 then (s, .refuse fPERM)
  else if s.homed pa ∧ lf.size = 65536 then (s, .refuse fPERM)
  else match s.frameCheck f 1 t lf.w with
  | .refuse c => (s, .refuse c)
  | .grant ro =>
    let key := s.srf 0x80 t 15 8
    let tprot := (s.srv 0x80 t).getLsbD 7
    if e.owner = 1 ∧ (e.state = 0 ∨ e.state = 1 ∨ e.state = 3 ∨ e.state = 4) ∧ (e.tenant = 0 ∨ e.tenant = t) then
      -- the owner's fill
      let e1 := if e.rvk = 2 then { e with rvk := 0 } else e
      if e.state = 0 ∧ t ≠ 0 then
        (s.setFrame f { e1.bump with state := 1, tenant := t, prot := lf.prot, watch := lf.watch,
                                     exported := lf.exported, key := if lf.prot then key else e.key }, .grant ro)
      else if e.prot ∧ tprot ∧ e.key ≠ key then (s, .refuse fPERM)
      else if e.prot = lf.prot ∧ e.watch = lf.watch ∧ e.exported = lf.exported then (s.setFrame f e1, .grant ro)
      else if e.state = 1 ∧ ¬ e.prot ∧ ¬ e.watch ∧ ¬ e.exported ∧ ¬ lf.prot then
        ((s.setFrame f { e1.bump with watch := lf.watch, exported := lf.exported }).zeroRace f, .grant ro)
      else (s, .refuse fPERM)
    else if e.owner = 2 then
      (if lf.watch ∨ lf.exported ∨ lf.prot then (s, .refuse fPERM) else (s, .grant ro))
    else
      let e1 := if e.rvk = 2 then { e with rvk := 0 } else e
      (s.setFrame f e1, .grant ro)

/-! ### The walk (R165–R168) -/

/-- Page size of a leaf at a level. -/
def leafSize (lv : Nat) : Nat := if lv = 2 then 2 ^ 30 else if lv = 3 then 2 ^ 21 else 2 ^ 16

/-- Index of a virtual or intermediate address at a level (R166). -/
def walkIx (lv a : Nat) : Nat :=
  match lv with
  | 0 => bits a 56 48
  | 1 => bits a 47 39
  | 2 => bits a 38 30
  | 3 => bits a 29 21
  | _ => bits a 20 16

/-- A table entry read as a leaf of its level. -/
def leafOf (e lv : Nat) : Leaf :=
  { base := bits e 47 8 * 256, size := leafSize lv, rd := bit e 2, w := bit e 3, x := bit e 4,
    prot := bit e 53, watch := bit e 54, exported := bit e 55, fail := bit e 56, pack := bit e 57 }

/-- One entry of a walk: the next table, a leaf, or the fault it gives (R167, R168). -/
def walkEntry (e lv : Nat) (s2ok : Bool) : Except Nat (Nat ⊕ Leaf) :=
  if ¬ bit e 0 then .error fPAGE
  else if bits e 63 58 ≠ 0 ∨ bits e 52 48 ≠ 0 ∨ bits e 7 5 ≠ 0 then .error fPERM
  else if bits e 57 53 ≠ 0 ∧ ¬ (bit e 1 ∧ s2ok) then .error fPERM
  else if bit e 1 then
    (if lv < 2 then .error fPERM
     else if (bits e 47 8 * 256) % leafSize lv ≠ 0 then .error fPERM
     else .ok (.inr (leafOf e lv)))
  else if lv = 4 then .error fPERM
  else if (bits e 47 8 * 256) % (if lv = 3 then 256 else 4096) ≠ 0 then .error fPERM
  else .ok (.inl (bits e 47 8 * 256))

/-- A walk over levels, reading table entries through `rd`: the leaf, and the stage-2 leaves under which the entries
were read (R166, R170). -/
def walkWith (rd : State → Nat → State × Except Nat (Nat × List (Nat × Nat))) (s2ok : Bool) (a : Nat) :
    List Nat → Nat → List (Nat × Nat) → State → State × Except Nat (Leaf × List (Nat × Nat))
  | [], _, _, s => (s, .error fPERM)
  | lv :: rest, tab, ts, s =>
    match rd s (tab + 8 * walkIx lv a) with
    | (s1, .error c) => (s1, .error c)
    | (s1, .ok (e, us)) =>
      match walkEntry e lv s2ok with
      | .error c => (s1, .error c)
      | .ok (.inr lf) => (s1, .ok (lf, us ++ ts))
      | .ok (.inl next) => walkWith rd s2ok a rest next (us ++ ts) s1

/-- A table entry at a physical address (R166): outside device HBM the walk ends with PERM; a poisoned one gives POISON
(DESIGN CHOICE, log 70). -/
def rdTable (s : State) (pa : Nat) : State × Except Nat (Nat × List (Nat × Nat)) :=
  if isHbm pa then
    (let s1 := s.checkRead pa 8
     if s1.poisoned pa then (s1, .error fPOISON) else (s1, .ok (s1.rdP pa 8, [])))
  else (s, .error fPERM)

/-- A node is a member of this package's domain: some element of `FAB.DOMM` holds it, in bits 18:0 with V in bit 63
(PRESUMED layout, log 11; R43, R44). -/
def State.inDomain (s : State) (node : Nat) : Bool :=
  (List.range 1024).any fun i => decide (s.srv 0x52 i = BitVec.ofNat 64 (2 ^ 63 + node))

/-- Where a physical leaf leads: the physical address of the access and, for a remote one, the package and the address
there (R44). -/
structure Phys where
  pa : Nat := 0
  node : Nat := 0
  rpa : Nat := 0
  deriving DecidableEq, Repr

/-- Where the window-table entry of a remote address lies (R44). -/
def State.windowAt (s : State) (pa : Nat) : Nat := s.srf 0x51 0 47 16 * 65536 + 8 * bits pa 46 30

/-- A completed physical leaf checked under R168, R44 and R67, and its frame filled. A poisoned window-table entry gives POISON, as
a table entry does (R183; log 70). -/
def State.physLeaf (s : State) (t : Nat) (lf : Leaf) (a : Nat) : State × Except Nat (Phys × Leaf) :=
  let pa := lf.base + a % lf.size
  if isHbm pa then
    match s.frameFill t pa lf with
    | (s1, .refuse c) => (s1, .error c)
    | (s1, .grant ro) => (s1, .ok ({ pa := pa }, { lf with w := lf.w && !ro }))
  else if isRemote pa then
    let s := s.checkRead (s.windowAt pa) 8
    let e := s.rdP (s.windowAt pa) 8
    let node := bits e 62 44
    if s.poisoned (s.windowAt pa) then (s, .error fPOISON)
    else if bit e 63 ∧ bits e 43 18 = 0 ∧ s.inDomain node then
      (s, .ok ({ pa := pa, node := node, rpa := bits e 17 0 * 2 ^ 30 + bits pa 29 0 }, lf))
    else (s, .error fPERM)
  else if isPool pa then
    (if lf.watch ∨ lf.prot ∨ lf.pack ∨ lf.size = 2 ^ 30 then (s, .error fPERM) else (s, .ok ({ pa := pa }, lf)))
  else (s, .error fPERM)

/-- Stage 2 of tenant `t` (R165, R166). -/
def State.stage2 (s : State) (t ipa : Nat) : State × Except Nat (Phys × Leaf) :=
  let root := s.srv 0x81 t
  if ¬ root.getLsbD 0 ∨ ¬ isHbm (wbits root 47 16 * 65536) then (s, .error fPERM)
  else match walkWith rdTable true ipa [1, 2, 3, 4] (wbits root 47 16 * 65536) [] s with
    | (s1, .error c) => (s1, .error c)
    | (s1, .ok (lf, _)) => s1.physLeaf t lf ipa

/-- A stage-1 table entry of a tenant's space, read through its stage 2, which must grant read (R166). -/
def rdTable2 (t : Nat) (s : State) (ipa : Nat) : State × Except Nat (Nat × List (Nat × Nat)) :=
  match s.stage2 t ipa with
  | (s1, .error c) => (s1, .error c)
  | (s1, .ok (p, lf)) =>
    if lf.rd then (match rdTable s1 p.pa with
      | (s2, .error c) => (s2, .error c)
      | (s2, .ok (e, _)) => (s2, .ok (e, [(ipa / lf.size * lf.size, lf.size)])))
    else (s1, .error fPERM)

/-- The whole translation of a virtual page for an abutment, without its cache (R164–R168). The entry of the address space is read
as a table entry is (R183; log 70). -/
def State.walk (s : State) (asid t va : Nat) : State × Except Nat Xl :=
  let a := s.srf 0xB8 0 47 16 * 65536 + 16 * asid
  let s := s.checkRead a 16
  let root := s.rdP a 8
  if s.poisoned a then (s, .error fPOISON)
  else if ¬ bit root 0 ∨ bits root 63 48 ≠ 0 ∨ bits root 11 1 ≠ 0 ∨ s.rdP (a + 9) 7 ≠ 0 ∨ s.rdP8 (a + 8) ≠ t then (s, .error fPERM)
  else
    let v57 := va % 2 ^ 57
    let tab := bits root 47 12 * 4096
    let r := if t = 0 then walkWith rdTable true v57 [0, 1, 2, 3, 4] tab [] s
             else walkWith (rdTable2 t) false v57 [0, 1, 2, 3, 4] tab [] s
    match r with
    | (s1, .error c) => (s1, .error c)
    | (s1, .ok (l1, tabs)) =>
      let ipa := l1.base + v57 % l1.size
      let r2 := if t = 0 then s1.physLeaf 0 l1 v57 else s1.stage2 t ipa
      match r2 with
      | (s2, .error c) => (s2, .error c)
      | (s2, .ok (p, l2)) =>
        (s2, .ok { asid := asid, tenant := t, lo := va / 65536 * 65536, size := 65536, pa := p.pa / 65536 * 65536,
                   ipa := ipa / 65536 * 65536, rd := l1.rd && l2.rd, w := l1.w && l2.w, x := l1.x && l2.x,
                   pack := l2.pack, prot := l2.prot, fail := l2.fail, node := p.node, rpa := p.rpa / 65536 * 65536,
                   lo1 := va / l1.size * l1.size, size1 := l1.size, ipa2 := ipa / l2.size * l2.size, size2 := l2.size,
                   tabs := tabs })

/-- A cached translation that serves an address. -/
def Xl.covers (e : Xl) (abut asid t va : Nat) : Bool :=
  decide (e.abut = abut ∧ e.asid = asid ∧ e.tenant = t ∧ e.lo ≤ va ∧ va < e.lo + e.size)

/-- The translation of an address at an abutment: cached, or walked and then cached (R164). -/
def State.translateAt (s : State) (abut asid t va : Nat) : State × Except Nat Xl :=
  match s.xls.find? fun e => e.covers abut asid t va with
  | some e => (s, .ok e)
  | none =>
    match s.walk asid t va with
    | (s1, .error c) => (s1, .error c)
    | (s1, .ok e) => let e1 := { e with abut := abut }; ({ s1 with xls := e1 :: s1.xls }, .ok e1)

/-- What an access needs of its page. -/
inductive Need where
  | rd | wr | rdWr | fetch
  deriving DecidableEq, Repr

def Need.ok (n : Need) (e : Xl) : Bool :=
  match n with
  | .rd => e.rd
  | .wr => e.w
  | .rdWr => e.rd && e.w
  | .fetch => e.x

/-- An access's translation with its permission check (R168). -/
def State.translate (s : State) (h asid t va : Nat) (n : Need) : State × Except Nat Xl :=
  match s.translateAt (abutOf h) asid t va with
  | (s1, .error c) => (s1, .error c)
  | (s1, .ok e) => if n.ok e then (s1, .ok e) else (s1, .error fPERM)

/-- Physical address of a virtual address under a translation. -/
def Xl.at (e : Xl) (va : Nat) : Nat := e.pa + (va - e.lo)

/-- An access with what its translation says of its page. -/
def Acc.placed (a : Acc) (x : Xl) : Acc :=
  { a with loc := x.at a.va, pack := x.pack, prot := x.prot, failAttr := x.fail, node := x.node, rpa := x.rpa + (a.va - x.lo) }

/-! ### Contexts that map a failed pool page (R69) -/

/-- Entries of a table of a level (R166). -/
def tableSize (lv : Nat) : Nat := if lv = 4 then 32 else 512

/-- Some leaf of a tree of tables satisfies `p`; its levels from the root on. -/
def State.treeHas (s : State) (p : Leaf → Bool) (s2ok : Bool) : List Nat → Nat → Bool
  | [], _ => false
  | lv :: rest, tab => (List.range (tableSize lv)).any fun i =>
    match walkEntry (s.rdP (tab + 8 * i) 8) lv s2ok with
    | .ok (.inr lf) => p lf
    | .ok (.inl next) => s.treeHas p s2ok rest next
    | .error _ => false

/-- The leaf maps a failed pool page with the attribute FATAL. -/
def State.fatalLeaf (s : State) (lf : Leaf) : Bool :=
  lf.fail && s.poolFailed.any fun g => decide (lf.base ≤ 2 ^ 46 + 65536 * g ∧ 2 ^ 46 + 65536 * g < lf.base + lf.size)

/-- A context, an address space of a tenant, maps such a page: through the tenant's stage 2, or in a tenant-0 space through
its own tables. -/
def State.mapsFatal (s : State) (asid t : Nat) : Bool :=
  if t = 0 then
    (let root := s.rdP (s.srf 0xB8 0 47 16 * 65536 + 16 * asid) 8
     bit root 0 && s.treeHas s.fatalLeaf true [0, 1, 2, 3, 4] (bits root 47 12 * 4096))
  else (s.srv 0x81 t).getLsbD 0 && s.treeHas s.fatalLeaf true [1, 2, 3, 4] (s.srf 0x81 t 47 16 * 65536)

/-- A context is stopped: it maps a failed page marked FATAL, or did so while the page failed, since nothing restarts it before
a reset (R69; DESIGN CHOICE, log 6). -/
def State.ctxStopped (s : State) (asid t : Nat) : Bool :=
  s.poolFatal && (s.mapsFatal asid t || s.poolCtx.contains (if t = 0 then asid else 0, t))

/-- A thread whose context is stopped issues nothing, and its span instructions and copies do not start (R69). -/
def State.poolStopped (s : State) (h k : Nat) : Bool := s.ctxStopped (s.asidOf h k) (s.tenantOf h)

/-- The source range of a migration holds an address. -/
def Mig.has (m : Mig) (pa : Nat) : Bool := decide (m.src ≤ pa ∧ pa < m.src + m.len)

/-- The range that a migration moves (R182): once it is committed, until every abutment has dropped its translations of the
source. -/
def State.moving (s : State) (pa : Nat) : Bool :=
  match s.mig with
  | some m => m.moving && m.has pa && (!m.committed || s.revokes.any fun r => m.has (65536 * r.frame))
  | none => false

end Sys2Proof.Machine
end

