-- ==== Sys2Proof/Machine/Events.lean ====
section
/-! DEFINITION. The two event rings and their records (R76, R87), the host window's registers (R72), and the pool's fatal
event (R69). -/

namespace Sys2Proof.Machine

/-! ### Event rings (R76, R87) -/

/-- An event record's 64 bytes (R76). -/
def EvRec.image (r : EvRec) : Nat :=
  mkRec ([(0, 8, r.dseq), (8, 8, r.hseq.toNat), (16, 1, r.kind), (17, 1, r.status), (18, 2, r.flags)] ++
    (r.vals.take 5).zipIdx.map fun p => (24 + 8 * p.2, 8, p.1.toNat))

/-- A record joins those that wait, which stand in order of DSEQ (R76). -/
def waitIn (r : EvRec) : List EvRec → List EvRec
  | [] => [r]
  | x :: t => if x.dseq ≤ r.dseq then x :: waitIn r t else r :: x :: t

def EvRing.wait (g : EvRing) (r : EvRec) : EvRing := { g with waiting := waitIn r g.waiting }

/-- A record issued: it takes the next DSEQ, joins the journal's last 4,096 and waits to be written. -/
def EvRing.issue (g : EvRing) (r : EvRec) : EvRing :=
  let x := { r with dseq := g.issued + 1 }
  let j := g.journal ++ [x]
  { g.wait x with issued := g.issued + 1, journal := j.drop (j.length - 4096) }

/-- An event that is not a completion: not recorded while 3,840 records wait. -/
def EvRing.event (g : EvRing) (r : EvRec) : EvRing :=
  if 3840 ≤ g.waiting.length then { g with lost := g.lost + 1, lostSince := g.lostSince + 1 } else g.issue r

/-- The EVLOST record once fewer than 3,840 records wait. -/
def EvRing.sayLost (g : EvRing) : EvRing :=
  if g.lostSince ≠ 0 ∧ g.waiting.length < 3840 then
    ({ g with lostSince := 0 }).issue { kind := 9, vals := [BitVec.ofNat 64 g.lostSince] }
  else g

/-- Host window registers by their offset (R72). -/
def State.hc (s : State) (off : Nat) : Word := s.hcw.val off 0
def State.setHc (s : State) (off : Nat) (v : Word) : State := { s with hcw := s.hcw.put off v }
def hCTL := 0x00
def hCRB := 0x08
def hCRS := 0x10
def hCPI := 0x18
def hCCI := 0x20
def hACC := 0x28
def hERB := 0x30
def hERS := 0x38
def hECI := 0x40
def hOVR := 0x50
def hSTAT := 0x58

/-- Waiting records of the host's ring written, oldest first, as far as `HCW.ECI` allows; `n` bounds their number. -/
def State.flushHost (s : State) : Nat → State
  | 0 => s
  | n + 1 =>
    let lg := wbits (s.hc hERS) 4 0
    match s.evHost.waiting with
    | [] => s
    | r :: rest =>
      if lg < 4 ∨ 16 < lg ∨ (s.hc hECI).toNat + 2 ^ lg < r.dseq then s
      else
        let s1 := s.wrN (hostLoc ((s.hc hERB).toNat + 64 * ((r.dseq - 1) % 2 ^ lg))) 64 r.image
        let s2 : State := { s1 with
          evHost := ({ s1.evHost with waiting := rest }).sayLost
          out := if (s1.hc hCTL).getLsbD 1 then s1.out ++ [.msix 0 (wbits (s1.hc hCTL) 26 16)] else s1.out }
        s2.flushHost n

/-- The same for the accelerator kernel's ring (R87). -/
def State.flushAcc (s : State) : Nat → State
  | 0 => s
  | n + 1 =>
    let lg := s.srf 0x74 0 4 0
    let base := s.srf 0x73 0 47 0
    match s.evAcc.waiting with
    | [] => s
    | r :: rest =>
      if base = 0 ∨ base % 65536 ≠ 0 ∨ lg < 4 ∨ 16 < lg ∨ (s.srv 0x76 0).toNat + 2 ^ lg < r.dseq then s
      else
        let s1 := s.engPut (base + 64 * ((r.dseq - 1) % 2 ^ lg)) 64 r.image
        let s2 : State := { s1 with evAcc := ({ s1.evAcc with waiting := rest }).sayLost }
        (s2.interrupt (s2.srf 0x77 0 4 0) 1).flushAcc n

def State.flush (s : State) : State := (s.flushHost 8200).flushAcc 8200

/-- A completion record for the host (R76). -/
def State.completion (s : State) (hseq status : Nat) (vals : List Word) : State :=
  ({ s with evHost := s.evHost.issue { hseq := BitVec.ofNat 64 hseq, kind := 0, status := status, vals := vals } }).flushHost 8200

/-- An event record for party `p` (0 HOST, 1 ACCEL). -/
def State.eventTo (s : State) (p : Nat) (r : EvRec) : State :=
  if p = 0 then ({ s with evHost := s.evHost.event r }).flushHost 8200
  else ({ s with evAcc := s.evAcc.event r }).flushAcc 8200

/-- The package enters the pool-fatal state: both kernels receive a fatal event for the page, with STATUS 20 FATAL of R82; its
kind is not the manual's to give (R69; log 6). -/
def State.poolFatalEvent (s : State) (addr : Nat) : State :=
  let (s1, k) := s.freshN
  let r : EvRec := { kind := Config.freeNat k % 256, status := 20, vals := [BitVec.ofNat 64 ((addr - 2 ^ 46) / 65536)] }
  (({ s1 with poolFatal := true }).eventTo 0 r).eventTo 1 r

/-- An access finds a failed page marked FATAL: the package is pool-fatal from now on (R69). -/
def State.poolStop (s : State) (addr : Nat) : State := if s.poolFatal then s else s.poolFatalEvent addr

end Sys2Proof.Machine
end

