-- ==== Sys2Proof/Machine/Access.lean ====
section
/-! DEFINITION. Accesses: what a home does (R179, R308, R309, R312), race records (R204–R208), the side log
(R173–R175), the ordering point (R191–R193), fences and tokens (R30, R194, R195), and issuing an access. -/

namespace Sys2Proof.Machine

/-! ### Operations at a home -/

/-- The new contents that an atomic writes, or none where a compare-and-swap does not match (R312). -/
def amoNew (op size old x n : Nat) : Option Nat :=
  let w := 2 ^ (8 * size)
  let so := sgn (8 * size) old
  let sxv := sgn (8 * size) x
  match op with
  | 0 => some ((old + x) % w)
  | 1 => some (old &&& x)
  | 2 => some (old ||| x)
  | 3 => some (old ^^^ x)
  | 4 => some (if so ≤ sxv then old else x)
  | 5 => some (if so ≤ sxv then x else old)
  | 6 => some (min old x)
  | 7 => some (max old x)
  | 8 => some x
  | 9 => if old = x then some n else none
  | _ => let f := if size = 2 then bf16 else fp32
         some (f.round .rne false ((f.read old).add (f.read x)))

/-- What the home answers. -/
inductive HRes where
  | value (v : Nat)
  | fault (f : PFault)
  | wait
  | done
  deriving DecidableEq, Repr

def AccKind.reads : AccKind → Bool
  | .load | .ldf | .ldfE => true
  | .amo _ _ => true
  | .store | .stf => false

def AccKind.writes : AccKind → Bool
  | .load | .ldf => false
  | .store | .stf | .ldfE => true
  | .amo _ _ => true

/-- The access is a load, LDF or atomic with return: its fault goes to its window, not the side log (R304). -/
def AccKind.returns : AccKind → Bool
  | .load | .ldf | .ldfE => true
  | .amo _ r => r
  | .store | .stf => false

/-- Every word of `[loc, loc + size)` is full. -/
def State.allFull (s : State) (loc size : Nat) : Bool :=
  s.full loc && (decide (size ≤ 4) || s.full (loc + 4))

def State.setWords (s : State) (loc size : Nat) (b : Bool) : State := s.setFulls loc b ((size + 3) / 4)

/-! ### Race records (R204, R207) -/

def State.raceIx (s : State) (pa : Nat) : Nat := pa / 64 % 2 ^ (s.srf 0xD9 0 5 0)

/-- The access writes: an atomic whose compare-and-swap does not match is a load (R312). -/
def State.writesNow (s : State) (a : Acc) : Bool :=
  match a.kind with
  | .amo op _ => (amoNew op a.size (s.rdP a.loc a.size) (a.data % 256 ^ a.size) (a.data2 % 256 ^ a.size)).isSome
  | k => k.writes

/-- The check and update of R207; true when it raises RACE, in which case the record is unchanged. -/
def State.raceStep (s : State) (a : Acc) : State × Bool :=
  if a.free ∨ ¬ s.watchedAt a.loc ∨ (s.frame (s.srf 0xD8 0 47 16 + s.raceIx a.loc / 4096)).state = 6 then (s, false)
  else
    let ix := s.raceIx a.loc
    let gen := s.srf 0xDA a.tenant 7 0
    let line := a.loc / 64
    let r0 := s.race.val ix {}
    let r : RaceRec := if r0.line = line ∧ r0.gen = gen then r0 else {}
    let plain := !a.strong && !a.supp
    let wr := s.writesNow a
    if plain ∧ r.wv ∧ r.wcore ≠ a.h ∧ a.clk ≤ r.wclk then (s, true)
    else if plain ∧ wr ∧ r.rv ∧ r.rcore ≠ a.h ∧ a.clk ≤ r.rclk then (s, true)
    else
      let r1 := { r with gen := gen, line := line }
      let r2 := if wr then { r1 with wv := true, wcore := a.h, wclk := a.clk, rv := false } else r1
      let r3 := if a.kind.reads ∧ (¬ r2.rv ∨ a.clk ≥ r2.rclk) then { r2 with rv := true, rcore := a.h, rclk := a.clk } else r2
      ({ s with race := s.race.put ix r3 }, false)

/-! ### Stored form (R183, R184) -/

/-- A part of a write that covers its granule whole is written: after the last of its bytes the granule is poisoned no
longer (R183). -/
def State.rewrite (s : State) (a : Acc) : State :=
  let g := a.loc / 256
  if ¬ (a.whole ∧ isHbm a.loc ∧ s.poison.contains g) then s
  else
    let m := s.rewritten.val g 0 ||| (2 ^ a.size - 1) * 2 ^ (a.loc % 256)
    if m = 2 ^ 256 - 1 then { s with poison := s.poison.erase g, rewritten := s.rewritten.del g }
    else { s with rewritten := s.rewritten.put g m }

/-- The bytes of an access written at its home, and the granule's stored form after it (R98, R183, R184). -/
def State.putAcc (s : State) (a : Acc) (v : Nat) : State := ((s.wrP a.loc a.size v).repack a.loc a.pack).rewrite a

/-- The pool's own report: a count in bits 63:48 and the first address in bits 47:0 (PRESUMED layout, log 11; R69). -/
def State.poolDrop (s : State) (addr : Nat) : State :=
  let c := s.srf 0x6A 0 63 48
  if c = 0 then s.setSr 0x6A 0 (BitVec.ofNat 64 (2 ^ 48 + addr % 2 ^ 48)) else s.setSrf 0x6A 0 63 48 (min (c + 1) 65535)

/-- The pool controller counts an access, saturating (R68). -/
def State.poolCount (s : State) (pa : Nat) (wr : Bool) : State :=
  let pg := (pa - 2 ^ 46) / 65536
  if wr then { s with poolWr := s.poolWr.put pg (min (s.poolWr.val pg 0 + 1) 0xFFFFFFFF) }
  else { s with poolRd := s.poolRd.put pg (min (s.poolRd.val pg 0 + 1) 0xFFFFFFFF) }

/-! ### The tables the package keeps for software to read (R68, R180) -/

/-- A byte of the hotness table at `HOT.TB` or of the pool counts at `POOL.HCB`, where the address lies in one. A page's
read count is the lower word of its 8 B, and a table whose base register holds 0 is not exposed (DESIGN CHOICE,
log 71). -/
def State.tableByte (s : State) (pa : Nat) : Option Nat :=
  let hb := s.srf 0xC2 0 47 0
  let pb := s.srf 0x68 0 47 0
  if hb ≠ 0 ∧ hb ≤ pa ∧ pa < hb + 0x200000 then
    let o := pa - hb
    let r := o / 8
    let v := (s.hot.val (4 * r) 0) * 2 ^ 48 + (s.hot.val (4 * r + 1) 0) * 2 ^ 32 + (s.hot.val (4 * r + 2) 0) * 2 ^ 16 +
      s.hot.val (4 * r + 3) 0
    some (v / 256 ^ (o % 8) % 256)
  else if pb ≠ 0 ∧ pb ≤ pa ∧ pa < pb + 0x200000000 then
    let o := pa - pb
    let v := s.poolRd.val (o / 8) 0 + s.poolWr.val (o / 8) 0 * 2 ^ 32
    some (v / 256 ^ (o % 8) % 256)
  else none

/-- A read of device memory: the tables where they lie, memory elsewhere. -/
def State.rdMem (s : State) (loc : Nat) : Nat → Nat
  | 0 => 0
  | n + 1 => (match s.tableByte loc with | some b => b | none => s.rdP8 loc) + 256 * s.rdMem (loc + 1) n

/-! ### The access list -/

def State.acc? (s : State) (id : Nat) : Option Acc := s.accs.find? fun a => decide (a.id = id)
def State.dropAcc (s : State) (id : Nat) : State := { s with accs := s.accs.filter fun a => decide (a.id ≠ id) }
def State.mapAcc (s : State) (id : Nat) (f : Acc → Acc) : State :=
  { s with accs := s.accs.map fun a => if a.id = id then f a else a }

/-- Two accesses meet: at their locations or, where one is held and has still to translate, at their addresses. A reissued one
has no location yet. -/
def Acc.overlaps (a b : Acc) : Bool :=
  let placed := fun (x : Acc) => decide (x.st ≠ .held ∨ x.loc ≠ 0)
  (placed a && placed b && decide (a.loc < b.loc + b.size ∧ b.loc < a.loc + a.size)) ||
    (decide (a.st = .held ∨ b.st = .held) && decide (a.asid = b.asid ∧ a.va < b.va + b.size ∧ b.va < a.va + a.size))

/-- Everything that a die's ordering point holds has left it (R192): what passes it now and is performed is behind that. -/
def State.passNow (s : State) (die : Nat) : State :=
  if s.sent.val die 0 < s.entered.val die 0 then { s with sent := s.sent.put die (s.entered.val die 0) } else s

/-- The value of a performed access reaches its pending entry. -/
def State.landAcc (s : State) (a : Acc) (v : Nat) : State :=
  (s.dropAcc a.id).onThr a.h a.slot fun t => t.arrive a.ent a.lane (8 * a.size) v

/-- A faulted access reaches its pending entry (R153). -/
def State.landFault (s : State) (a : Acc) (f : PFault) : State :=
  (s.dropAcc a.id).onThr a.h a.slot fun t => t.arriveFault a.ent f a

/-! ### Clocks that travel with accesses (R206) -/

/-- The release clock that a releasing access raises at its home pier or deck share, and the clock that an acquiring
access takes from it (R206). -/
def State.relIx (s : State) (a : Acc) : Nat := s.pierOf a.loc * 256 + a.tenant

/-- Quad and share of a deck location. -/
def deckPlace (loc : Nat) : Nat × Nat := ((loc - 2 ^ 53) / 524288, (loc - 2 ^ 53) % 524288 / 0x20000)

def isDeckLoc (loc : Nat) : Bool := decide (2 ^ 53 ≤ loc ∧ loc < 2 ^ 64)
def isLsLoc (loc : Nat) : Bool := decide (2 ^ 52 ≤ loc ∧ loc < 2 ^ 53)

def State.relClock (s : State) (a : Acc) : State :=
  if ¬ a.rel then s
  else if isHbm a.loc then
    { s with relClk := s.relClk.put (s.relIx a) (max (s.relClk.val (s.relIx a) 0) a.clk) }
  else if isDeckLoc a.loc then
    let (q, k) := deckPlace a.loc
    s.onQuad q fun x => { x with shareClk := x.shareClk.put k (max (x.shareClk.val k 0) a.clk) }
  else s

/-- The core of an acquiring access takes a clock as the access is performed (R206). A release of its thread that has
issued since and a dispatched span instruction or copy carry no less (R207). -/
def State.takeClock (s : State) (a : Acc) (c : Nat) : State :=
  let later := fun b : Acc => decide (b.h = a.h ∧ b.slot = a.slot ∧ a.id < b.id) && b.rel
  let s1 : State := { s with accs := s.accs.map fun b => if later b then { b with clk := max b.clk (c + 1) } else b }
  s1.onCoreAt a.h fun x =>
    { x.acquire (if s.accs.any later then c + 1 else c) with
      dq := x.dq.map fun d => if d.slot = a.slot ∧ a.id < d.id then { d with clk := max d.clk c } else d
      copies := x.copies.map fun d => if d.slot = a.slot ∧ a.id < d.id then { d with clk := max d.clk c } else d }

def State.acqClock (s : State) (a : Acc) : State :=
  if ¬ a.acq then s
  else if isHbm a.loc then s.takeClock a (s.relClk.val (s.relIx a) 0)
  else if isDeckLoc a.loc then
    let (q, k) := deckPlace a.loc
    s.takeClock a ((s.quad q).shareClk.val k 0)
  else s

/-! ### Waiters (R309) -/

/-- The effect of LDF or LDF.E on full words: its value, the words emptied by LDF.E and the stored form that follows
(R184, R308), its race record and the clock it acquires (R203, R206). -/
def State.takeFull (s : State) (a : Acc) : State × Nat :=
  let v := s.rdP a.loc a.size
  let s1 := (s.raceStep a).1
  let s2 := if a.kind = .ldfE then (s1.setWords a.loc a.size false).repack a.loc a.pack else s1
  (s2.acqClock a, v)

/-- Serves the waiting requests in arrival order after a fill: every LDF whose words are full, and each LDF.E, which
empties its words. The read is checked, and one at a poisoned granule takes POISON (R183). -/
def State.serve (s : State) : List Acc → State
  | [] => s
  | a :: t =>
    match s.accs.find? fun x => decide (x.id = a.id) with
    | none => s.serve t
    | some x =>
      if x.st = .waiting ∧ s.allFull x.loc x.size then
        (let s := if isHbm x.loc then s.checkRead x.loc x.size else s
         if s.poisoned x.loc then (s.landFault x (.kernel fPOISON x.va)).serve t
         else
          let (s1, v) := s.takeFull x
          (s1.mapAcc x.id fun y => { y with st := .performed v }).serve t)
      else s.serve t

/-- The waiters of the words of `[loc, loc + size)` are served (R309). -/
def State.serveAt (s : State) (loc size : Nat) : State :=
  s.serve (s.accs.filter fun a => decide (a.st = .waiting ∧ a.loc < loc + size ∧ loc < a.loc + a.size))

/-! ### Requests to other packages (R39, R40, R44, R45) -/

/-- The socket whose PLL relocks now: it stops issue and traffic (R21). -/
def State.relocking (s : State) : Option Nat := match s.load with | some l => l.todo.head? | none => none

/-- The socket of a scale-up port: 16 on each I/O die (R38). -/
def portSocket (p : Nat) : Nat := 16 + p / 16

/-- A port that is UP with room in its replay buffer of 256 flits (R39), on a die that runs. -/
def State.sendPort (s : State) : Option Nat :=
  firstBelow 64 fun p => decide ((s.ports.val p {}).state = 2 ∧ (s.ports.val p {}).replay.length < 256 ∧ s.relocking ≠ some (portSocket p))

/-- A flit as it leaves: its sequence number in bits 11:0, the number of the last flit received in bits 23:12, and the CRC
of the rest in its last 8 bytes (R39; the places within the header are PRESUMED, log 11). -/
def sealFlit (seq ack body : Nat) : Nat :=
  let m := body % 2 ^ 1984 / 2 ^ 24 * 2 ^ 24 + ack * 4096 + seq
  m + 2 ^ 1984 * (Config.crc64 m % 2 ^ 64)

/-- A flit sent over a port under that port's next sequence number, kept until it is acknowledged (R39). -/
def State.sendFlit (s : State) (p : Nat) (f : Sent) : State :=
  let x := s.ports.val p {}
  let g := sealFlit x.txSeq ((x.rxSeq + 4095) % 4096) f.flit
  { s with ports := s.ports.put p { x with txSeq := (x.txSeq + 1) % 4096, replay := x.replay ++ [{ f with seq := x.txSeq, flit := g }] }
           out := s.out ++ [.flit p g] }

/-- The flits that wait leave while some port has room; what finds none goes on waiting, in order (R39). -/
def State.flushFlits (s : State) : List Sent → State
  | [] => { s with flitWait := [] }
  | f :: t => match s.sendPort with
    | some p => (s.sendFlit p f).flushFlits t
    | none => { s with flitWait := f :: t }

/-- Flits join those that wait and leave as there is room. -/
def State.sendFlits (s : State) (fs : List Sent) : State := s.flushFlits (s.flitWait ++ fs)

/-- A request to another package leaves in one flit, whatever its length (DESIGN CHOICE, log 25), which keeps the address of
its store, the access that waits for its answer and its collective operation; the bytes beside those that R39 places are
free values (log 6). -/
def State.sendRemote (s : State) (f : Sent) : State :=
  let (s1, n) := s.freshN
  s1.sendFlits [{ f with flit := Config.freeNat n % 2 ^ 2048 }]

/-- Some port routes a request (R40; the route is the fabric's, log 25). -/
def State.routed (s : State) : Bool := s.ports.any fun p => decide (p.2.state = 2)

/-- A remote request may leave: no port routes it at all, or one has room for its flit. -/
def State.mayLeave (s : State) : Bool := (s.sendPort.isSome && s.flitWait.isEmpty) || !s.routed

/-- A remote access without a route completes UNREACHABLE: POISON for one that returns, else counted with the address (R40).
`FAB.ERRA` takes the physical address at this package, bit 47 set (DESIGN CHOICE, log 25). -/
def State.unreachable (s : State) (a : Acc) : State × HRes :=
  if a.kind.returns then (s, .fault (.kernel fPOISON a.va)) else (s.countDrop 0x54 0x55 a.loc, .done)

/-- The request of a remote access leaves with the address in the target package (R39, R44). Its flit keeps the access that
waits for the answer, or the address of a store that the target does not refuse: a refused one has arrived (R40, R45). -/
def State.remoteSend (s : State) (a : Acc) (refused : Bool) : State :=
  let s1 := s.sendRemote { addr := if a.kind.returns ∨ refused then none else some a.loc, acc := if a.gone then a.id else 0 }
  { s1 with out := s1.out ++ [.request a.node a.rpa a.tenant a.kind a.size a.data] }

/-- The answer to a remote request: PERM where the target refuses it (R45); what a load finds there is not the manual's to
give, so its value is a free value (log 6). -/
def State.remoteAnswer (s : State) (a : Acc) (refused : Bool) : State × HRes :=
  if refused then
    (if a.kind.returns then (s, .fault (.kernel fPERM a.va)) else (s.countDrop 0x54 0x55 a.loc, .done))
  else if a.kind.returns then
    let (s1, n) := s.freshN
    (s1, .value (Config.freeNat n % 256 ^ a.size))
  else (s, .done)

/-- A remote access whose request and answer are one step (R40, R44, R45; log 25). -/
def State.remoteOp (s : State) (a : Acc) (refused : Bool) : State × HRes :=
  if s.routed then (s.remoteSend a refused).remoteAnswer a refused else s.unreachable a

/-! ### One access performed at its home -/

/-- An STF serves the requests that wait for its words (R309). -/
def State.serveStf (s : State) (a : Acc) : State := if a.kind = .stf then s.serveAt a.loc a.size else s

/-- The data operation of an access whose checks have passed; LDF and LDF.E find their words full. -/
def State.homeOp (s : State) (a : Acc) : State × HRes :=
  match a.kind with
  | .load => (s, .value (s.rdMem a.loc a.size))
  | .store => (s.putAcc a a.data, .done)
  | .amo op ret =>
    let old := s.rdP a.loc a.size
    let s1 := match amoNew op a.size old (a.data % 256 ^ a.size) (a.data2 % 256 ^ a.size) with
      | some v => s.putAcc a v
      | none => s
    (s1, if ret then .value old else .done)
  | .ldf => (s, .value (s.rdP a.loc a.size))
  | .ldfE => ((s.setWords a.loc a.size false).repack a.loc a.pack, .value (s.rdP a.loc a.size))
  | .stf => ((((s.wrP a.loc a.size a.data).setWords a.loc a.size true).repack a.loc a.pack).rewrite a, .done)

/-- An access at the pool controller (R67–R69): counted; at a failed page it returns poison or is dropped, and a page
marked FATAL stops the package's contexts. -/
def State.poolOp (s : State) (a : Acc) : State × HRes :=
  let s1 := s.poolCount a.loc (!a.kind.returns)
  if s.poolFailed.contains ((a.loc - 2 ^ 46) / 65536) then
    let s2 := if a.failAttr then s1.poolStop a.loc else s1
    if a.kind.returns then (s2, .fault (.kernel fPOISON a.va)) else (s2.poolDrop a.loc, .done)
  else s1.homeOp a

/-- An access performed at its home: the check of the read, key, poison, the wait for full words and the race check, then
the operation and the clocks it carries (R100, R183, R206, R207, R308). At another package whether it is refused is a
free value. -/
def State.perform (s : State) (a : Acc) : State × HRes :=
  if isRemote a.loc then (let (s1, n) := s.freshN; s1.remoteOp a (decide (Config.freeNat n % 2 = 1)))
  else if isPool a.loc then s.poolOp a
  else
    let s := if isHbm a.loc then s.checkRead a.loc a.size else s
    if s.keyGone a.loc ∧ ¬ a.kind.returns then (s.countDrop 0x94 0x95 a.loc, .done)
    else if s.poisoned a.loc ∧ a.kind.returns then (s, .fault (.kernel fPOISON a.va))
    else if (a.kind = .ldf ∨ a.kind = .ldfE) ∧ ¬ s.allFull a.loc a.size then (s, .wait)
    else
      match s.raceStep a with
      | (s1, true) => (s1, .fault (.user 10 a.va))
      | (s1, false) =>
        let (s2, r) := s1.homeOp a
        (((s2.acqClock a).relClock a).serveStf a, r)

/-! ### The side log (R173–R175) -/

/-- Accesses to a line that the side log or the abutment holds (R174). -/
def State.lineHeld (s : State) (h asid line : Nat) : Bool :=
  let c := s.core h
  (c.slog.any fun e => decide (e.asid = asid ∧ e.line = line)) ||
    c.slogHeld.any fun a => decide (a.asid = asid ∧ a.va / 64 = line)

/-- The thread has placed entries that are not yet replayed or discarded (R174). -/
def State.slogPending (s : State) (h k : Nat) : Bool :=
  let c := s.core h
  (c.slog.any fun e => decide (e.slot = k)) || c.slogHeld.any fun a => decide (a.slot = k)

/-- An entry joins a core's side log, or is held at the abutment while none is free, and its fault record is sent (R173). -/
def State.slogAgain (s : State) (h : Nat) (e : SlogEntry) (code : Nat) : State :=
  let c := s.core h
  let s1 := if c.slog.length < 32 ∧ c.slogHeld = [] then s.onCoreAt h fun c => { c with slog := c.slog ++ [e] }
            else s.onCoreAt h fun c => { c with slogHeld := c.slogHeld ++ e.accs }
  match e.accs with
  | [] => s1
  | a :: _ => s1.faultRec h { pc := a.pc, addr := a.va, code := code, asid := a.asid, tenant := a.tenant, slot := a.slot }

/-- A faulting store or reduction enters the side log (R173). One that a moving page turned away enters in the same way
(R182); its record carries PAGE (DESIGN CHOICE, log 24). -/
def State.slogPut (s : State) (a : Acc) (code : Nat) : State :=
  s.slogAgain a.h { slot := a.slot, asid := a.asid, tenant := a.tenant, line := a.va / 64, accs := [a] } code

/-! ### Interlocks with dispatched span instructions (R151, R364) -/

def rangeHits (lo n : Nat) (r : Nat × Nat) : Bool := decide (r.1 < lo + n ∧ lo < r.1 + r.2)

/-- The entry is a reverse run (R385). -/
def DqEntry.isRev (e : DqEntry) : Bool := match e.i with | .trev _ => true | _ => false

/-- Accesses whose fault waits in an open window of the thread: no value has returned (R153, R194). -/
def Thread.faultedAccs (t : Thread) : List Acc := t.pend.flatMap fun e => if e.fault.isSome then e.retry else []

/-- A span instruction reads or writes memory as `cls` selects. -/
def DqEntry.touches (e : DqEntry) (cls : AccKind → Bool) : Bool :=
  (cls .load && !e.reads.isEmpty) || (cls .store && !e.writes.isEmpty)

/-- A span instruction of a thread that has not completed, or whose fault waits in an open window; one whose fault a trap has
saved is not under way, nor is one of a thread that has halted (R154, R160, R365). -/
def Thread.spanOpen (t : Thread) (k : Nat) (e : DqEntry) : Bool :=
  decide (e.slot = k) && !e.orphan && (!e.faulted || t.pend.any fun p => decide (p.id = e.ent))

/-- The same of the issuing thread. -/
def State.own (s : State) (e : DqEntry) : Bool := s.cur.spanOpen s.curSlot e

/-- The issuing thread's access overlaps what one of its own span instructions will write (R151). -/
def State.dqOwn (s : State) (va n : Nat) : Bool := s.cc.dq.any fun e => s.own e && e.writes.any (rangeHits va n)

/-- The windows that `hit` selects close at the instruction that now stalls on them. -/
def State.closeNow (s : State) (hit : Pend → Bool) : State :=
  if s.cur.pend.any hit then s.onCur fun t => { t with pend := t.pend.map fun p => if hit p then { p with cnt := 0 } else p }
  else s

/-- An instruction that waits for a faulted span instruction of its thread is the one that would first see the result:
the windows of those that `sel` selects close at it (R151, R153). -/
def State.meet (s : State) (sel : DqEntry → Bool) : State :=
  s.closeNow fun p => s.cc.dq.any fun e => decide (e.slot = s.curSlot ∧ e.ent = p.id) && e.faulted && sel e

/-- An acquire of the issuing thread has faulted and waits in an open window: the window closes at the access that the
acquire holds, since nothing else would close it (R153, R195; DEDUCED, log 72). -/
def State.meetAcq (s : State) : State :=
  s.closeNow fun p => p.fault.isSome && p.retry.any fun a => s.cur.acqs.any fun q => decide (q.1 = a.id)

/-- An access stalls on its ranges, at which an earlier access of its thread may have faulted (R151, R190), or on an acquire
(R195). -/
def State.meetAt (s : State) (rs : List (Nat × Nat)) : State :=
  (s.meetAcq.closeNow fun p => p.fault.isSome && p.retry.any fun a => rs.any fun r => rangeHits r.1 r.2 (a.va, a.size)).meet
    fun e => rs.any fun r => e.writes.any (rangeHits r.1 r.2)

/-- A write overlaps what a span instruction of the core has still to read (R364). -/
def State.dqReads (s : State) (va n : Nat) : Bool := s.cc.dq.any fun e => e.reads.any (rangeHits va n)

/-- An access of a list has the issuing thread's address space and meets an address range. -/
def Acc.meetsVa (a : Acc) (va n : Nat) : Bool := rangeHits va n (a.va, a.size)

/-- A load of the issuing thread stalls at issue: its line is in the side log, a span instruction will write it, or an earlier
access to it has faulted and waits in an open window (R151, R174, R190). -/
def State.loadHeld (s : State) (a : Acc) : Bool :=
  s.lineHeld a.h a.asid (a.va / 64) || s.dqOwn a.va a.size || s.cur.faultedAccs.any fun b => b.meetsVa a.va a.size

/-- A write of the issuing thread stalls at issue (R151, R174, R364). -/
def State.storeHeld (s : State) (a : Acc) : Bool := s.loadHeld a || s.dqReads a.va a.size

/-! ### Issue -/

/-- An acquire that its thread issued waits in the side log or in the pending table after a fault. -/
def State.acqFaulted (s : State) (id : Nat) : Bool :=
  let c := s.cc
  (c.slog.any fun e => e.accs.any fun a => decide (a.id = id)) || (c.slogHeld.any fun a => decide (a.id = id)) ||
    s.cur.pend.any fun e => e.retry.any fun a => decide (a.id = id)

/-- An acquire of the issuing thread has not yet reached its point (R194, R195). -/
def State.acqOpen (s : State) (p : Nat × Nat) : Bool :=
  match s.acc? p.1 with
  | none => s.acqFaulted p.1
  | some a => if p.2 ≤ 2 then (match a.st with
      | .issued => true
      | .held => true
      | .waiting => !isHbm a.loc
      | _ => false) else true

/-- An acquire of a thread, of those before access `n` unless that is 0, has not yet taken effect on the core's clock (R206,
R207). -/
def State.acqDue (s : State) (h k : Nat) (n : Nat := 0) : Bool :=
  s.accs.any fun b => decide (b.h = h ∧ b.slot = k ∧ (n = 0 ∨ b.id < n)) && b.acq && (match b.st with | .performed _ => false | _ => true)

/-- The same but for a request that waits for a full word, behind which a release may go (R195). -/
def State.acqMoving (s : State) (h k : Nat) : Bool :=
  s.accs.any fun b => decide (b.h = h ∧ b.slot = k) && b.acq && (match b.st with | .performed _ => false | .waiting => false | _ => true)

/-- A RECV of the thread waits for its message: it is an acquire that has not yet reached its point (R195, R198, R321). -/
def Thread.recvOpen (t : Thread) : Bool := (t.pend ++ t.trap.pend).any fun e => e.chan.isSome && decide (e.missing ≠ 0)

/-- A message or an arrival of the issuing thread is a release that follows an earlier acquire: it waits for that one, be it an
access on its way or an open RECV, whose clock it has to carry (R195, R199, R206, R210; DEDUCED, log 84). -/
def State.relWaits (s : State) : Bool := s.acqMoving s.curH s.curSlot || s.cur.recvOpen

/-- The issuing thread may issue an access: no earlier acquire holds it (R195) and no reverse run of it goes on
(R390). -/
def State.accReady (s : State) : Bool :=
  !(s.cur.acqs.any fun p => s.acqOpen p) && !s.cur.recvOpen && !(s.cc.dq.any fun e => s.own e && e.isRev)

/-- The thread's acquires that still hold, those whose fault a trap has saved among them: they hold again after the return
(R154, R195). -/
def State.pruneAcq (s : State) : State :=
  let saved := fun (i : Nat) => s.cur.trap.pend.any fun e => e.retry.any fun a => decide (a.id = i)
  s.onCur fun t => { t with acqs := t.acqs.filter fun p => s.acqOpen p || saved p.1 }

/-- What an access needs of its page. -/
def AccKind.need : AccKind → Need
  | .load => .rd
  | .ldf => .rd
  | .ldfE => .rdWr
  | .amo _ r => if r then .rdWr else .wr
  | .store => .wr
  | .stf => .wr

/-- Pool and remote pages take no full/empty form, and the pool no atomic (R304). -/
def AccKind.badAt (k : AccKind) (pa : Nat) : Bool :=
  match k with
  | .ldf | .ldfE | .stf => isPool pa || isRemote pa
  | .amo _ _ => isPool pa
  | _ => false

/-- A global access with its translation known (R173, R182, R304). -/
def State.issueXl (s : State) (a : Acc) (r : Except Nat Xl) : State :=
  match r with
  | .error c => if a.kind.returns then s.landFault a (.kernel c a.va) else s.slogPut a c
  | .ok x =>
    let a1 := a.placed x
    if a.kind.badAt a1.loc then (if a.kind.returns then s.landFault a1 (.kernel fPERM a.va) else s.slogPut a1 fPERM)
    else if s.moving a1.loc then
      (if a.kind.returns then { s with accs := s.accs ++ [{ a1 with st := .held }] } else s.slogPut a1 fPAGE)
    else { s with accs := s.accs ++ [a1] }

/-- An access of the issuing thread to a local store or deck is performed there at issue (R162, R197). -/
def State.issueLocal (s : State) (a : Acc) : State :=
  match s.perform a with
  | (s1, .value v) => s1.landAcc a v
  | (s1, .fault f) => s1.landFault a f
  | (s1, .wait) => { s1 with accs := s1.accs ++ [{ a with st := .waiting }] }
  | (s1, .done) => s1

/-- An access that faults without a translation: to its window, or to the side log (R153, R304). -/
def State.refuse (s : State) (a : Acc) (code : Nat) : State :=
  if a.kind.returns then s.landFault a (.kernel code a.va) else s.slogPut a code

/-- An identified access goes to its space; one outside every space faults, as does one of another partition's deck share
(R94, R161, R304). -/
def State.sendAcc (s : State) (a : Acc) : State :=
  match spaceOf a.va with
  | .ls off => s.issueLocal { a with loc := lsLoc a.h off }
  | .deck off => if s.deckOk a.h off then s.issueLocal { a with loc := deckLoc (a.h / 4) off } else s.refuse a fPERM
  | .none => s.refuse a fPERM
  | .global =>
    let (s1, r) := s.translate a.h a.asid a.tenant a.va a.kind.need
    s1.issueXl a r

/-- A new access, with its identity. -/
def State.issueAcc (s : State) (a : Acc) : State :=
  let (s0, id) := s.newId
  s0.sendAcc { a with id := id }

/-- The accesses of one instruction with their identities, in order. -/
def State.numbered (s : State) (l : List Acc) : State × List Acc :=
  ({ s with nextId := s.nextId + l.length }, l.zipIdx.map fun p => { p.1 with id := s.nextId + p.2 })

/-- An access held at its abutment translates again and goes on, unless its page still moves (R153, R182, R309). Its identity
keeps its place in program order. -/
def State.resend (s : State) (a : Acc) : State :=
  if s.moving a.loc then s else (s.dropAcc a.id).sendAcc { a with st := .issued }

/-- The template of an access by the issuing thread. -/
def State.accOf (s : State) (va size : Nat) (k : AccKind) : Acc :=
  { h := s.curH, slot := s.curSlot, asid := s.asidOf s.curH s.curSlot, tenant := s.tenantOf s.curH, pc := s.cur.pc,
    va := va, size := size, kind := k, clk := s.cc.sclk, supp := s.cur.supp }

/-! ### Fences (R30, R194, R313) -/

/-- An access counts as reached for a fence of the scope (R194, R313). -/
def Acc.reached (a : Acc) (sc : Nat) : Bool :=
  if sc ≤ 2 then
    (match a.st with
     | .issued => false
     | .held => false
     | .waiting => isHbm a.loc
     | _ => true)
  else false

/-- Every earlier access of the thread that `cls` selects has reached the point of the scope, none of them waits in an open
window with a fault, and its span instructions have completed (R194). -/
def State.reachedAll (s : State) (h k sc : Nat) (cls : AccKind → Bool) : Bool :=
  (s.accs.all fun a => decide (a.h ≠ h ∨ a.slot ≠ k) || !cls a.kind || a.reached sc) &&
    !((s.thr h k).faultedAccs.any fun a => cls a.kind) &&
    !((s.core h).dq.any fun e => (s.thr h k).spanOpen k e && e.touches cls)

/-- A fence stalls on an access or a span instruction whose fault waits in an open window: the window closes at the fence,
since nothing else would close it (R153, R194; DEDUCED, log 72). -/
def State.meetFence (s : State) (cls : AccKind → Bool) : State :=
  (s.closeNow fun p => p.fault.isSome && p.retry.any fun a => cls a.kind).meet fun e => e.touches cls

/-- Recipients of a fence's tokens: ordering points 0–7, pier groups 8–15, and for `.sys` the I/O-die engines 16 and
the host port 17 (R30). -/
def tokenSet (sc : Nat) : List Nat :=
  if sc ≤ 2 then [] else if sc = 3 then List.range 16 else List.range 18

/-- A recipient may return the token: what the die issued before it, within reach of that recipient, is performed
(R30). A request that waits at its home for a full word is not counted (log 12); one that a full home returned, or that a
moving page holds, is. -/
def State.tokenReady (s : State) (die mark recip : Nat) : Bool :=
  s.accs.all fun a =>
    decide (dieOf a.h ≠ die ∨ mark ≤ a.id) ||
    (match a.st with
     | .waiting => true
     | .performed _ => true
     | .issued => decide (recip ≠ die ∧ ¬ (8 ≤ recip))
     | .held => decide (recip ≠ die ∧ ¬ (8 ≤ recip))
     | .entered _ =>
       if recip < 8 then true
       else if recip < 16 then decide (¬ isHbm a.loc ∨ s.pierOf a.loc / 64 ≠ recip - 8)
       else isHbm a.loc)

/-- A fence of a scope before an effect (R194, R195): the effect once every earlier access and every side-log entry of
the thread is done and the tokens are back; a stall until then, in which the tokens are sent. One that orders no store takes
no tokens: a load's value has returned once it is performed (R313; log 26). -/
def State.fenced (s : State) (sc : Nat) (cls : AccKind → Bool) (f : State → State) : State :=
  if s.slogPending s.curH s.curSlot ∨ ¬ s.reachedAll s.curH s.curSlot sc cls then s.meetFence cls
  else if sc ≤ 2 ∨ cls .store = false then f s
  else match s.cur.wait with
    | .tokens _ [] => f s
    | .tokens _ _ => s
    | _ => s.onCur fun t => { t with wait := .tokens s.nextId (tokenSet sc) }

/-- A full fence. -/
def State.fencedAll (s : State) (sc : Nat) (f : State → State) : State := s.fenced sc (fun _ => true) f

/-! ### Accesses performed while the thread is held at issue -/

/-- The outcome of an access that its thread waits for at issue. -/
inductive Now where
  | ok (s : State) (r : HRes)
  | stall (s : State)
  | fault (s : State) (code : Nat)

/-- The home of a location: its pier, the pool controller, or the target package. -/
def State.homeOf (s : State) (loc : Nat) : Nat :=
  if isHbm loc then s.pierOf loc else if isPool loc then 1000 else 2000

/-- The socket that is home to a location runs (R21): its stack, or X0 with the pool's port. -/
def State.homeRuns (s : State) (loc : Nat) : Bool :=
  if isHbm loc then decide (s.relocking ≠ some (8 + s.pierOf loc / 64))
  else if isPool loc then decide (s.relocking ≠ some 16)
  else true

/-- An open window of the thread that access or copy `n` may wait for meets `hit`: those that a trap has saved are none of its
handler's (R154). -/
def Thread.awaits (t : Thread) (n : Nat) (hit : Pend → Bool) : Bool :=
  t.pend.any hit || (decide (n ≠ 0 ∧ n < t.trap.mark) && t.trap.pend.any hit)

/-- An earlier access of the thread to the location has faulted and will be reissued: this one waits for it (R153, R190). -/
def State.faultBefore (s : State) (a : Acc) : Bool :=
  (s.thr a.h a.slot).awaits a.id fun e => e.fault.isSome &&
    e.retry.any fun b => decide (a.id = 0 ∨ b.id < a.id) && decide (b.asid = a.asid) && b.meetsVa a.va a.size

/-- An access performed as it passes the ordering point may be performed now: no access of its own thread to its
location is in flight or faulted before it (R190), its home runs (R21), none that has entered the die's ordering point is still to be performed at the same home
(R192, R193, R196), its flit has room (R39), and on a watched page every earlier acquire of its thread has taken effect
(R207). -/
def State.nowReady (s : State) (a : Acc) : Bool :=
  (!isRemote a.loc || s.mayLeave) && s.homeRuns a.loc && !(s.watchedAt a.loc && s.acqDue a.h a.slot a.id) && !s.faultBefore a &&
    s.accs.all fun x => match x.st with
      | .performed _ => true
      | .entered _ => !(decide (x.h = a.h ∧ x.slot = a.slot) && x.overlaps a) &&
          !(decide (dieOf x.h = dieOf a.h ∧ s.homeOf x.loc = s.homeOf a.loc))
      | _ => !(decide (x.h = a.h ∧ x.slot = a.slot) && x.overlaps a)

/-- An access performed while its thread is held at issue: table reads, fills, descriptor reads, and plain stores to
watched pages (R208, R297, R299, R325). On a watched page a clock-exhausted core takes CLOCKEX (R206). -/
def State.accessNow (s : State) (a : Acc) : Now :=
  if s.loadHeld a then .stall (s.meetAt [(a.va, a.size)])
  else match spaceOf a.va with
  | .none => .fault s fPERM
  | .ls off => let a1 := { a with loc := lsLoc a.h off }; let (s1, r) := s.perform a1; .ok s1 r
  | .deck off =>
    if s.deckOk a.h off then (let a1 := { a with loc := deckLoc (a.h / 4) off }; let (s1, r) := s.perform a1; .ok s1 r)
    else .fault s fPERM
  | .global =>
    match s.translate a.h a.asid a.tenant a.va a.kind.need with
      | (s1, .error c) => .fault s1 c
      | (s1, .ok x) =>
        let a1 := a.placed x
        if s1.watchedAt a1.loc ∧ (s1.core a.h).clkEx = true then .fault s1 fCLOCKEX
        else if s1.moving a1.loc ∨ ¬ s1.nowReady a1 then .stall s1
        else
          let (s2, r) := (s1.passNow (dieOf a.h)).perform a1
          .ok s2 r

/-- Whether the page of a global address is watched, once translated (R203). -/
def State.watched (s : State) (a : Acc) : Bool :=
  match spaceOf a.va with
  | .global => (match s.translate a.h a.asid a.tenant a.va a.kind.need with
    | (s1, .ok x) => s1.watchedAt (x.at a.va)
    | (_, .error _) => false)
  | _ => false

end Sys2Proof.Machine
end

