-- ==== Sys2Proof/Machine/Operands.lean ====
section
/-! DEFINITION. Operand forms: immediates and branch offsets (R249), effective addresses (R306), the index of a
system register (R393), the stepped fields of a repetition (R300, R301), and the shape of an instruction that writes a
scalar register at issue (R277). -/

namespace Sys2Proof.Machine

/-- Signed 15-bit immediate (R249). -/
def immS (i : Nat) : Word := sx 15 i
/-- Unsigned 15-bit immediate. -/
def immU (i : Nat) : Word := zx 15 i
/-- A branch target: the program counter plus twice a signed offset of `n` bits. -/
def target (pc : Word) (n off : Nat) : Word := pc + 2 * sx n off

/-- Base plus scaled signed 8-bit offset of format M (R306). -/
def eaM (base : Word) (off size : Nat) : Nat := (base + sx 8 off * BitVec.ofNat 64 size).toNat

/-- `size = 2^(ms mod 4)`. -/
def szOf (ms : Nat) : Nat := 2 ^ (ms % 4)

/-- The place of the lookahead count or extension in an instruction word. -/
def majorOf (w : Nat) : Nat := bits w 6 1

/-- The kinds of a repetition's target by format (R300): bit position and width of F0, F1 and F2 in the word. -/
def stepFields (w : Nat) : List (Nat × Nat) :=
  if w % 2 = 0 then [(5, 5), (10, 5)]
  else
    let m := majorOf w
    if 0x30 ≤ m ∧ m ≤ 0x34 then [(7, 2), (9, 6), (15, 6)]
    else if 0x20 ≤ m ∧ m ≤ 0x2C then [(7, 5), (12, 5), (17, 5)]
    else if m = 7 ∨ m = 0x0D then [(7, 5)]
    else if (1 ≤ m ∧ m ≤ 6) ∨ m = 0x0F then [(7, 5), (12, 5)]
    else if m = 0x10 ∨ m = 0x11 then [(7, 5), (12, 5)]
    else if m = 9 ∨ m = 0x0A ∨ m = 0x0B ∨ m = 0x0C then []
    else [(7, 5), (12, 5), (17, 5)]

/-- The target word with each field that the mask names increased by `j`; none where one leaves its range (R301). -/
def stepWord (w mask j : Nat) : List (Nat × Nat) → Nat → Option Nat
  | [], _ => some w
  | (lo, n) :: t, i =>
    if mask.testBit i then
      let v := bits w (lo + n - 1) lo + j
      if v < 2 ^ n then stepWord (setField w lo n v) mask j t (i + 1) else none
    else stepWord w mask j t (i + 1)

/-- An instruction that reads scalar sources and writes field `d` at issue (R277): LOOKAHEAD, else the write and the
next instruction. -/
def State.wrNext (s : State) (d len : Nat) (x : Word) : State :=
  if s.cur.openG d then s.lookahead else (s.wrG d x).retire len

/-- ALIGN for an access of the given size (R304). -/
def misaligned (a size : Nat) : Bool := decide (a % size ≠ 0)

/-- One byte of a vector register and its replacement. -/
def vByte (v : Nat) (i : Nat) : Nat := v / 256 ^ i % 256

end Sys2Proof.Machine
end

