-- ==== Sys2Proof/Machine/Alu.lean ====
section
/-! DEFINITION. Scalar integer and address instructions (12_scalar): each writes its result at issue and raises at most
LOOKAHEAD. -/

namespace Sys2Proof.Machine

/-- What `exec` answers. -/
abbrev Out1 := Host.Outcome State Fault Refusal

/-- The shift count of R279: bits 5:0. -/
def sh (y : Word) : Nat := y.toNat % 64

/-- Bits 127:64 of the exact signed product (R279). -/
def mulHS (x y : Word) : Word := BitVec.ofInt 64 ((x.toInt * y.toInt) / 2 ^ 64)

/-- Bits 127:64 of the exact unsigned product (R279). -/
def mulHU (x y : Word) : Word := BitVec.ofNat 64 (x.toNat * y.toNat / 2 ^ 64)

/-- DIV: truncated toward zero; all ones by zero; the overflow pair gives the dividend (R280). -/
def divS (x y : Word) : Word := if y = 0 then BitVec.allOnes 64 else BitVec.ofInt 64 (x.toInt.tdiv y.toInt)

/-- REM: the dividend by zero; the remainder takes the dividend's sign (R280). -/
def remS (x y : Word) : Word := if y = 0 then x else BitVec.ofInt 64 (x.toInt.tmod y.toInt)

def divU (x y : Word) : Word := if y = 0 then BitVec.allOnes 64 else BitVec.ofNat 64 (x.toNat / y.toNat)
def remU (x y : Word) : Word := if y = 0 then x else BitVec.ofNat 64 (x.toNat % y.toNat)

/-- Number of zero bits of `x` above its highest set bit among the low `n` (R279). -/
def clzN (x : Nat) : Nat → Nat
  | 0 => 0
  | n + 1 => if x.testBit n then 0 else 1 + clzN x n

/-- Number of zero bits below the lowest set bit, counting `n` places from bit `i`. -/
def ctzN (x i : Nat) : Nat → Nat
  | 0 => 0
  | n + 1 => if x.testBit i then 0 else 1 + ctzN x (i + 1) n

/-- Number of set bits among the low `n`. -/
def popN (x : Nat) : Nat → Nat
  | 0 => 0
  | n + 1 => b2n (x.testBit n) + popN x n

/-- The carry-less product: the XOR of `x << i` for every bit `i` of `y` (R287). -/
def clmulN (x y : Nat) : Nat → Nat
  | 0 => 0
  | n + 1 => (if y.testBit n then x * 2 ^ n else 0) ^^^ clmulN x y n

/-- Position and width of a bit-field descriptor, the width cut at bit 63 (R286). -/
def bfPos (r : Word) : Nat := wbits r 5 0
def bfWidth (r : Word) : Nat := min (wbits r 13 8 + 1) (64 - bfPos r)

/-- The field that BFX reads. -/
def bfGet (x r : Word) : Nat := bits x.toNat (bfPos r + bfWidth r - 1) (bfPos r)

/-- The register that BFI writes. -/
def bfPut (x f r : Word) : Word :=
  BitVec.ofNat 64 (setField x.toNat (bfPos r) (bfWidth r) f.toNat)

/-- ADD (R279). -/
def execAdd (d a b : Nat) (s : State) : Out1 :=
  .next (s.wrNext d 4 (let x := s.g a; let y := s.g b; x + y))

/-- SUB (R279). -/
def execSub (d a b : Nat) (s : State) : Out1 :=
  .next (s.wrNext d 4 (let x := s.g a; let y := s.g b; x - y))

/-- MUL (R279). -/
def execMul (d a b : Nat) (s : State) : Out1 :=
  .next (s.wrNext d 4 (let x := s.g a; let y := s.g b; x * y))

/-- MULH (R279). -/
def execMulh (d a b : Nat) (s : State) : Out1 :=
  .next (s.wrNext d 4 (let x := s.g a; let y := s.g b; mulHS x y))

/-- MULHU (R279). -/
def execMulhu (d a b : Nat) (s : State) : Out1 :=
  .next (s.wrNext d 4 (let x := s.g a; let y := s.g b; mulHU x y))

/-- DIV (R280). -/
def execDiv (d a b : Nat) (s : State) : Out1 :=
  .next (s.wrNext d 4 (let x := s.g a; let y := s.g b; divS x y))

/-- DIVU (R280). -/
def execDivu (d a b : Nat) (s : State) : Out1 :=
  .next (s.wrNext d 4 (let x := s.g a; let y := s.g b; divU x y))

/-- REM (R280). -/
def execRem (d a b : Nat) (s : State) : Out1 :=
  .next (s.wrNext d 4 (let x := s.g a; let y := s.g b; remS x y))

/-- REMU (R280). -/
def execRemu (d a b : Nat) (s : State) : Out1 :=
  .next (s.wrNext d 4 (let x := s.g a; let y := s.g b; remU x y))

/-- AND (R279). -/
def execAnd (d a b : Nat) (s : State) : Out1 :=
  .next (s.wrNext d 4 (let x := s.g a; let y := s.g b; x &&& y))

/-- OR (R279). -/
def execOr (d a b : Nat) (s : State) : Out1 :=
  .next (s.wrNext d 4 (let x := s.g a; let y := s.g b; x ||| y))

/-- XOR (R279). -/
def execXor (d a b : Nat) (s : State) : Out1 :=
  .next (s.wrNext d 4 (let x := s.g a; let y := s.g b; x ^^^ y))

/-- ANDN (R279). -/
def execAndn (d a b : Nat) (s : State) : Out1 :=
  .next (s.wrNext d 4 (let x := s.g a; let y := s.g b; x &&& ~~~y))

/-- SHL (R279). -/
def execShl (d a b : Nat) (s : State) : Out1 :=
  .next (s.wrNext d 4 (let x := s.g a; let y := s.g b; x <<< sh y))

/-- SHR (R279). -/
def execShr (d a b : Nat) (s : State) : Out1 :=
  .next (s.wrNext d 4 (let x := s.g a; let y := s.g b; x >>> sh y))

/-- SAR (R279). -/
def execSar (d a b : Nat) (s : State) : Out1 :=
  .next (s.wrNext d 4 (let x := s.g a; let y := s.g b; x.sshiftRight (sh y)))

/-- ROL (R279). -/
def execRol (d a b : Nat) (s : State) : Out1 :=
  .next (s.wrNext d 4 (let x := s.g a; let y := s.g b; x.rotateLeft (sh y)))

/-- MIN (R279). -/
def execMin (d a b : Nat) (s : State) : Out1 :=
  .next (s.wrNext d 4 (let x := s.g a; let y := s.g b; if x.slt y then x else y))

/-- MAX (R279). -/
def execMax (d a b : Nat) (s : State) : Out1 :=
  .next (s.wrNext d 4 (let x := s.g a; let y := s.g b; if x.slt y then y else x))

/-- MINU (R279). -/
def execMinu (d a b : Nat) (s : State) : Out1 :=
  .next (s.wrNext d 4 (let x := s.g a; let y := s.g b; if x.ult y then x else y))

/-- MAXU (R279). -/
def execMaxu (d a b : Nat) (s : State) : Out1 :=
  .next (s.wrNext d 4 (let x := s.g a; let y := s.g b; if x.ult y then y else x))

/-- SLT (R279). -/
def execSlt (d a b : Nat) (s : State) : Out1 :=
  .next (s.wrNext d 4 (let x := s.g a; let y := s.g b; flagWord (x.slt y)))

/-- SLTU (R279). -/
def execSltu (d a b : Nat) (s : State) : Out1 :=
  .next (s.wrNext d 4 (let x := s.g a; let y := s.g b; flagWord (x.ult y)))

/-- SEQ (R279). -/
def execSeq (d a b : Nat) (s : State) : Out1 :=
  .next (s.wrNext d 4 (let x := s.g a; let y := s.g b; flagWord (x == y)))

/-- CLZ (R279). -/
def execClz (d a : Nat) (s : State) : Out1 :=
  .next (s.wrNext d 4 (BitVec.ofNat 64 (clzN (s.g a).toNat 64)))

/-- CTZ (R279). -/
def execCtz (d a : Nat) (s : State) : Out1 :=
  .next (s.wrNext d 4 (BitVec.ofNat 64 (ctzN (s.g a).toNat 0 64)))

/-- POPC (R279). -/
def execPopc (d a : Nat) (s : State) : Out1 :=
  .next (s.wrNext d 4 (BitVec.ofNat 64 (popN (s.g a).toNat 64)))

/-- ADDI (R281). -/
def execAddi (d a imm : Nat) (s : State) : Out1 :=
  .next (s.wrNext d 4 (s.g a + immS imm))

/-- ANDI (R281). -/
def execAndi (d a imm : Nat) (s : State) : Out1 :=
  .next (s.wrNext d 4 (s.g a &&& immU imm))

/-- ORI (R281). -/
def execOri (d a imm : Nat) (s : State) : Out1 :=
  .next (s.wrNext d 4 (s.g a ||| immU imm))

/-- XORI (R281). -/
def execXori (d a imm : Nat) (s : State) : Out1 :=
  .next (s.wrNext d 4 (s.g a ^^^ immU imm))

/-- SLTI (R281). -/
def execSlti (d a imm : Nat) (s : State) : Out1 :=
  .next (s.wrNext d 4 (flagWord ((s.g a).slt (immS imm))))

/-- SHLI (R282). -/
def execShli (d a n : Nat) (s : State) : Out1 :=
  .next (s.wrNext d 4 (s.g a <<< n))

/-- SHRI (R282). -/
def execShri (d a n : Nat) (s : State) : Out1 :=
  .next (s.wrNext d 4 (s.g a >>> n))

/-- SARI (R282). -/
def execSari (d a n : Nat) (s : State) : Out1 :=
  .next (s.wrNext d 4 ((s.g a).sshiftRight n))

/-- ROLI (R282). -/
def execRoli (d a n : Nat) (s : State) : Out1 :=
  .next (s.wrNext d 4 ((s.g a).rotateLeft n))

/-- IMMH shifts its destination left by 20 and merges (R283, R288). -/
def execImmh (d imm : Nat) (s : State) : Out1 :=
  .next (s.wrNext d 4 (s.g d <<< 20 ||| zx 20 imm))

/-- LEA (R285). -/
def execLea (d a b k : Nat) (s : State) : Out1 :=
  .next (s.wrNext d 4 (s.g a + s.g b <<< k))

/-- BFX (R286). -/
def execBfx (d a b : Nat) (s : State) : Out1 :=
  .next (s.wrNext d 4 (BitVec.ofNat 64 (bfGet (s.g a) (s.g b))))

/-- BFX.sx (R286). -/
def execBfxSx (d a b : Nat) (s : State) : Out1 :=
  .next (s.wrNext d 4 (sx (bfWidth (s.g b)) (bfGet (s.g a) (s.g b))))

/-- BFI reads and writes its destination (R286, R288). -/
def execBfi (d a b : Nat) (s : State) : Out1 :=
  .next (s.wrNext d 4 (bfPut (s.g d) (s.g a) (s.g b)))

/-- CLMUL (R287). -/
def execClmul (d a b : Nat) (s : State) : Out1 :=
  .next (s.wrNext d 4 (BitVec.ofNat 64 (clmulN (s.g a).toNat (s.g b).toNat 64)))

/-- CLMULH (R287). -/
def execClmulh (d a b : Nat) (s : State) : Out1 :=
  .next (s.wrNext d 4 (BitVec.ofNat 64 (clmulN (s.g a).toNat (s.g b).toNat 64 / 2 ^ 64)))

end Sys2Proof.Machine
end

