-- ==== Sys2Proof/Machine/Fetch.lean ====
section
/-! DEFINITION. Fetching an instruction (R133, R161, R172, R243, R245): by lines into the quad's instruction cache. -/

namespace Sys2Proof.Machine

/-- The outcome of a fetch. -/
inductive Fetched where
  | ok (s : State) (w : Nat)
  | fault (s : State) (code addr : Nat)
  | stall (s : State)

/-- Line `ln` of an address space in a quad's cache. -/
def Quad.line? (q : Quad) (asid ln : Nat) : Option ILine := q.icache.find? fun l => decide (l.asid = asid ∧ l.line = ln)

/-- The halfword at an address, from the quad's cache or by filling its line (R172). -/
def State.fetchHalf (s : State) (h k va : Nat) : Fetched :=
  match spaceOf va with
  | .global =>
    let asid := s.asidOf h k
    match (s.quad (h / 4)).line? asid (va / 64) with
    | some l => .ok s (bits l.data (va % 64 * 8 + 15) (va % 64 * 8))
    | none =>
      match s.translate h asid (s.tenantOf h) va .fetch with
      | (s1, .error c) => .fault s1 c va
      | (s1, .ok x) =>
        let a := ({ h := h, slot := k, asid := asid, tenant := s.tenantOf h, va := va / 64 * 64, size := 64, free := true } : Acc).placed x
        if s1.moving a.loc ∨ ¬ s1.homeRuns a.loc ∨ (isRemote a.loc = true ∧ ¬ s1.mayLeave) then .stall s1
        else match s1.perform a with
          | (s2, .value d) =>
            .ok (s2.onQuad (h / 4) fun q => { q with icache := { asid := asid, line := va / 64, data := d } :: q.icache })
              (bits d (va % 64 * 8 + 15) (va % 64 * 8))
          | (s2, .fault (.kernel c _)) => .fault s2 c va
          | (s2, _) => .stall s2
  | _ => .fault s fPERM va

/-- The bytes of an instruction as one word: 16 bits, or 32 when bit 0 of the first halfword is 1 (R243). The second
halfword is fetched before any fault of the first is taken (R245). -/
def State.fetchBytes (s : State) (h k va : Nat) : Fetched :=
  match s.fetchHalf h k va with
  | .ok s1 w0 =>
    if w0 % 2 = 0 then .ok s1 w0
    else match s1.fetchHalf h k ((va + 2) % 2 ^ 64) with
      | .ok s2 w1 => .ok s2 (w0 + 65536 * w1)
      | r => r
  | r => r

/-- The instruction word at an address for a thread. One whose instruction is in progress goes on with the words it has
fetched, whatever an INVX has cleared since (R172). -/
def State.fetchWord (s : State) (h k va : Nat) : Fetched :=
  match (s.thr h k).fetched.lookup va with
  | some w => .ok s w
  | none => match s.fetchBytes h k va with
    | .ok s1 w => .ok (s1.onThr h k fun t => { t with fetched := (va, w) :: t.fetched }) w
    | r => r

/-- The instruction of a fetched word (R254). -/
def decodeFetched (w : Nat) : Except DecodeError Instr := if w % 2 = 0 then .ok (decodeRow16 w) else decodeWord32 w

/-- Length in bytes of a fetched word. -/
def lenOf (w : Nat) : Nat := lengthOf w

end Sys2Proof.Machine
end

