-- ==== Sys2Proof/Machine/Control.lean ====
section
/-! DEFINITION. Branches, calls and returns over the register window, indirect transfers, LOOP, REP, and the spill and
fill of the window (13_control). -/

namespace Sys2Proof.Machine

/-- BCC (R290). -/
def execBcc (a b cond off : Nat) (s : State) : Out1 :=
  .next (if condHolds cond (s.g a) (s.g b) then s.goto (target s.cur.pc 12 off) else s.retire 4)

/-- BZ (R290). -/
def execBz (a cond off : Nat) (s : State) : Out1 :=
  .next (if condHolds cond (s.g a) 0 then s.goto (target s.cur.pc 12 off) else s.retire 4)

/-- J (R290). -/
def execJ (off : Nat) (s : State) : Out1 := .next (s.goto (target s.cur.pc 25 off))

/-- The link word of R293. -/
def linkWord (k : Nat) (pc : Word) : Word :=
  BitVec.ofNat 64 ((k - 1) * 2 ^ 60 + (pc + 4).toNat % 2 ^ 57)

/-- The physical register that a slide by `k` makes the new w23 (R293). -/
def Thread.newLink (t : Thread) (k : Nat) : Nat := 8 + (t.base + k + 23) % 128

/-- The slide of R293 once its checks have passed. -/
def Thread.slide (t : Thread) (k : Nat) (dst : Word) : Thread :=
  (({ t with base := t.base + k }).writeG 31 (linkWord k t.pc)).goto dst

/-- The ILLEGAL and LOOKAHEAD checks of a slide by `k` (R293): the state they leave, or none when they pass. -/
def State.slideChecks (s : State) (k : Nat) : Option State :=
  let t := s.cur
  if t.base + k + 24 > 65536 then some s.illegal
  else if t.pend.any fun e => decide (e.dest = .scalar (t.newLink k)) then some s.lookahead
  else none

/-- The WINOVF check of a slide (R293). -/
def Thread.winovf (t : Thread) (k : Nat) : Bool := decide (t.base + k + 24 - t.low > 128)

/-- CALL (R293); field `k` holds k − 1. -/
def execCall (k off : Nat) (s : State) : Out1 :=
  let n := k + 1
  .next (match s.slideChecks n with
    | some s1 => s1
    | none =>
      if s.cur.winovf n then s.utrap 1 0
      else s.onCur fun t => t.slide n (target t.pc 21 off))

/-- PAD changes no state (R298). -/
def execPad (_lab : Nat) (s : State) : Out1 := .next (s.retire 4)

/-- RET (R294). -/
def execRet (s : State) : Out1 :=
  let t := s.cur
  let link := t.readG 31
  let k := wbits link 63 60 + 1
  let dst := canon (wbits link 56 0)
  .next (
    if t.base < t.low + k ∧ t.low = 0 then s.illegal
    else if dst.getLsbD 0 then s.alignF dst.toNat
    else if t.base < t.low + k then s.utrap 2 0
    else s.onCur fun t => ({ t with base := t.base - k }).goto dst)

/-- LOOP (R291). -/
def execLoop (a imm : Nat) (s : State) : Out1 :=
  let c := s.g a - 1
  .next (
    if s.cur.openG a then s.lookahead
    else if c ≠ 0 then (s.wrG a c).goto (target s.cur.pc 15 imm)
    else (s.wrG a c).retire 4)

/-- The word is a landing pad of this label (R298, R299). -/
def isPad (w lab : Nat) : Bool :=
  match decodeFetched w with
  | .ok (.pad l) => decide (l = lab)
  | _ => false

/-- The four bytes at a jump target (R299): both halves are fetched, whatever the first one holds. -/
def State.fetchTarget (s : State) (va : Nat) : Fetched :=
  match s.fetchHalf s.curH s.curSlot va with
  | .ok s1 w0 =>
    (match s1.fetchHalf s.curH s.curSlot ((va + 2) % 2 ^ 64) with
     | .ok s2 w1 => .ok s2 (if w0 % 2 = 0 then w0 else w0 + 65536 * w1)
     | r => r)
  | r => r

/-- The issuing thread is a follower of a gang, or of one that has dissolved (R142, R143). -/
def State.following (s : State) : Bool :=
  match s.cc.gang with
  | some g => decide (g.slot = s.curSlot ∧ (g.leader ≠ s.curH ∨ g.dissolved = true))
  | none => false

/-- The label of the landing pad that the issuing thread's leader found at this target, where it went there too (R142). -/
def State.relayedPad (s : State) (t : Nat) : Option Nat :=
  match s.cc.relay with
  | r :: _ => if s.following ∧ r.next.toNat = t then some r.label else none
  | [] => none

/-- The rest of JTAB and CALLT once the table base is aligned (R299): bound, table load, target alignment and landing
pad; `go` is the transfer. A follower that goes where its leader went does not fetch the pad again: it compares the label
that was found there with its own (R142). -/
def State.jumpTable (s : State) (tb i d : Word) (go : State → Word → State) : State :=
  if i.toNat ≥ wbits d 32 16 then s.utrap 9 i
  else
    let va := (tb + 8 * i).toNat
    match s.accessNow (s.accOf va 8 .load) with
    | .stall s1 => s1
    | .fault s1 c => s1.kfault c va
    | .ok s1 (.fault (.kernel c a)) => s1.kfault c a
    | .ok s1 (.fault (.user c info)) => s1.utrap c (BitVec.ofNat 64 info)
    | .ok s1 (.value t) =>
      if t % 2 = 1 then s1.alignF t
      else match s1.relayedPad t with
        | some l => if l = wbits d 15 0 then go s1 (BitVec.ofNat 64 t) else s1.utrap 8 (BitVec.ofNat 64 t)
        | none => match s1.fetchTarget t with
          | .stall s2 => s2
          | .fault s2 c _ => s2.kfault c t
          | .ok s2 w =>
            if isPad w (wbits d 15 0) then go s2 (BitVec.ofNat 64 t)
            else s2.utrap 8 (BitVec.ofNat 64 t)
    | .ok s1 _ => s1

/-- JTAB (R299). -/
def execJtab (d a b : Nat) (s : State) : Out1 :=
  let tb := s.g a
  .next (
    if tb.toNat % 8 ≠ 0 then s.alignF tb.toNat
    else if ¬ s.accReady then s.meetAcq.meet DqEntry.isRev
    else s.jumpTable tb (s.g b) (s.g d) fun s1 t => s1.goto t)

/-- CALLT (R299); field `k` holds k − 1. -/
def execCallt (d a b k : Nat) (s : State) : Out1 :=
  let tb := s.g a
  let n := k + 1
  .next (match s.slideChecks n with
    | some s1 => s1
    | none =>
      if tb.toNat % 8 ≠ 0 then s.alignF tb.toNat
      else if s.cur.winovf n then s.utrap 1 0
      else if ¬ s.accReady then s.meetAcq.meet DqEntry.isRev
      else s.jumpTable tb (s.g b) (s.g d) fun s1 dst => s1.onCur fun t => t.slide n dst)

/-- Instructions that may not be a repetition's target (R300). -/
def noRepeat (i : Instr) : Bool :=
  match i with
  | .bcc _ _ _ _ | .bz _ _ _ | .j _ | .call _ _ | .pad _ | .jtab _ _ _ | .callt _ _ _ _ | .ret | .loop _ _
  | .rep _ _ | .spillw | .fillw | .trap _ | .rft | .brk | .halt | .haltK _ | .gang _ | .split | .spawn _ _ _ => true
  | _ => false

/-- REP raises ILLEGAL for this target word: a mask bit that names no field, or a target that may not repeat, which every
word of the B and J formats and of CALL is (R300). -/
def repIllegal (w mask : Nat) : Bool :=
  decide (2 ^ (stepFields w).length ≤ mask) || (stepFields w).isEmpty ||
    (match decodeFetched w with | .ok i => noRepeat i | .error _ => false)

/-- REP: the checks of R300, then the repetition is in progress with the program counter at the REP (R302). It counts
as one window instruction. A follower of a gang repeats what is relayed to it: its leader alone fetches and checks the
target (R142). -/
def execRep (nm1 mask : Nat) (s : State) : Out1 :=
  let begin := fun (s1 : State) => s1.onCur fun t => { t.count with wait := .none, rep := mkRep (nm1 + 1) true mask nm1 }
  .next (if s.following then begin s else match s.fetchWord s.curH s.curSlot (s.cur.pc + 4).toNat with
    | .stall s1 => s1
    | .fault s1 c a => s1.kfault c a
    | .ok s1 w =>
      if repIllegal w mask then s1.illegal
      else begin s1)

/-! ### Spill and fill (R296, R297) -/

/-- How a group of stores to one line of the issuing thread went. -/
inductive Stored where
  | done (s : State)
  | stall (s : State)
  | trap (s : State)

/-- Plain stores of one instruction to one 64-B line, checked at issue (R173, R208, R297): performed in a local store
or deck, entered whole into the side log when the line faults (R304), checked by the pier when the page is watched, and
issued otherwise. -/
def State.storeLine (s : State) (accs : List Acc) : Stored :=
  match accs with
  | [] => .done s
  | a :: _ =>
    if accs.any s.storeHeld then .stall (s.meetAt (accs.map fun a => (a.va, a.size)))
    else
    let full := decide (32 ≤ (s.core a.h).slog.length) || !(s.core a.h).slogHeld.isEmpty
    let log := fun (s : State) (c : Nat) =>
      let e : SlogEntry := { slot := a.slot, asid := a.asid, tenant := a.tenant, line := a.va / 64, accs := accs }
      let s1 := s.onCoreAt a.h fun k => { k with slog := k.slog ++ [e] }
      s1.faultRec a.h { pc := a.pc, addr := a.va, code := c, asid := a.asid, tenant := a.tenant, slot := a.slot }
    match spaceOf a.va with
    | .none => if full then .stall s else .done (log s fPERM)
    | .ls _ =>
      .done (accs.foldl (fun s x => (s.perform { x with loc := lsLoc x.h (x.va % 65536) }).1) s)
    | .deck off =>
      if s.deckOk a.h off then
        .done (accs.foldl (fun s x => (s.perform { x with loc := deckLoc (x.h / 4) (x.va % 524288) }).1) s)
      else if full then .stall s else .done (log s fPERM)
    | .global =>
        match s.translate a.h a.asid a.tenant a.va .wr with
        | (s1, .error c) => if full then .stall s1 else .done (log s1 c)
        | (s1, .ok x) =>
          if s1.moving (x.at a.va) then (if full then .stall s1 else .done (log s1 fPAGE))
          else
            let as := accs.map fun y => y.placed x
            if s1.watchedAt (x.at a.va) then
              (if (s1.core a.h).clkEx then .trap (s1.kfault fCLOCKEX a.va)
               else if as.any fun y => !s1.nowReady y then .stall s1
               else if as.any fun y => (s1.raceStep y).2 then .trap (s1.utrap 10 (BitVec.ofNat 64 a.va))
               else .done (as.foldl (fun s y => (s.perform y).1) (s1.passNow (dieOf a.h))))
            else
              .done ((as.foldl (fun (s : State) y =>
                let (s1, id) := s.newId
                { s1 with accs := s1.accs ++ [{ y with id := id }] }) s1))

/-- The stores of SPILLW from register `i` that fall in the line of register `i`. -/
def State.spillGroup (s : State) (i : Nat) : List Acc :=
  let t := s.cur
  let b := t.wbsp.toNat
  ((List.range 16).filter fun j => decide (i ≤ j ∧ (b + 8 * j) / 64 = (b + 8 * i) / 64)).map fun j =>
    { s.accOf ((b + 8 * j) % 2 ^ 64) 8 .store with data := (t.stk.val ((t.low + j) % 128) 0).toNat }

/-- SPILLW from `WPROG` on, line by line; SUPP is for the first line alone (R398); it stops where the side log has no room (R297). -/
def State.spillFrom (s : State) : Nat → State
  | 0 => s
  | fuel + 1 =>
    let i := s.cur.wprog
    if 16 ≤ i then
      s.onCur fun t => ({ t with wbsp := t.wbsp + 128, low := t.low + 16, wprog := 0 }).retire 4
    else
      let g := s.spillGroup i
      match s.storeLine g with
      | .done s1 => (s1.onCur fun t => { t with wprog := i + g.length, supp := false }).spillFrom fuel
      | .stall s1 => s1
      | .trap s1 => s1

/-- SPILLW (R296, R297). -/
def execSpillw (s : State) : Out1 :=
  .next (s.closingAll fun s =>
    let t := s.cur
    if t.base < t.low + 16 ∨ t.low + 16 > 65520 then s.illegal
    else if t.wbsp.toNat % 8 ≠ 0 then s.alignF t.wbsp.toNat
    else if ¬ s.accReady then s.meetAcq
    else s.spillFrom 18)

/-- FILLW from `WPROG` on, register by register, SUPP for the first alone (R398); a fault parks with `WPROG` at the register (R297). -/
def State.fillFrom (s : State) : Nat → State
  | 0 => s
  | fuel + 1 =>
    let t := s.cur
    let i := t.wprog
    if 16 ≤ i then
      s.onCur fun t => ({ t with wbsp := t.wbsp - 128, low := t.low - 16, wprog := 0 }).retire 4
    else
      let va := (t.wbsp - 128 + BitVec.ofNat 64 (8 * i)).toNat
      match s.accessNow (s.accOf va 8 .load) with
      | .stall s1 => s1
      | .fault s1 c => s1.kfault c va
      | .ok s1 (.fault (.kernel c a)) => s1.kfault c a
      | .ok s1 (.fault (.user c info)) => s1.utrap c (BitVec.ofNat 64 info)
      | .ok s1 (.value v) =>
        (s1.onCur fun t => { t with stk := t.stk.put ((t.low - 16 + i) % 128) (BitVec.ofNat 64 v), wprog := i + 1, supp := false }).fillFrom fuel
      | .ok s1 _ => s1

/-- FILLW (R296, R297). -/
def execFillw (s : State) : Out1 :=
  .next (s.closingAll fun s =>
    let t := s.cur
    if t.low = 0 ∨ t.base + 40 - t.low > 128 then s.illegal
    else if t.wbsp.toNat % 8 ≠ 0 then s.alignF t.wbsp.toNat
    else if ¬ s.accReady then s.meetAcq
    else s.fillFrom 18)

end Sys2Proof.Machine
end

