-- ==== Sys2Proof/Machine/MemOps.lean ====
section
/-! DEFINITION. Scalar loads and stores, the strong, acquire, release and full/empty forms, atomics and reductions,
fences and SCLK (14_memory_ops). -/

namespace Sys2Proof.Machine

/-! ### Shapes -/

/-- The page of a global access is watched while the core is clock-exhausted: CLOCKEX (R206). -/
def State.exhausted (s : State) (a : Acc) : Bool := s.cc.clkEx && s.watched a

/-- A long-latency access of the issuing thread once its exceptions have been ruled out (R148, R150, R256): a stall
while the table is full, an acquire holds or the location is held, or on a watched page until every earlier acquire has
taken effect (R207); else the entry, the access and the next
instruction. `sxb` is the width to sign-extend from. -/
def State.longLoad (s : State) (d la sxb : Nat) (a : Acc) : State :=
  if s.cur.full then s
  else if ¬ s.accReady ∨ (if a.kind.writes then s.storeHeld a else s.loadHeld a) then s.meetAt [(a.va, a.size)]
  else if s.exhausted a then s.kfault fCLOCKEX a.va
  else if s.acqDue s.curH s.curSlot ∧ s.watched a then s
  else
    let s1 := s.pruneAcq
    let e : Pend := { dest := if d = 0 then .none else .scalar (s1.cur.phys d), field := d, missing := 1, sx := sxb }
    let (s2, ent) := s1.alloc e la
    let id := s2.nextId
    let s3 := s2.issueAcc { a with ent := ent }
    let s4 := if a.acq then s3.onCur fun t => { t with acqs := t.acqs ++ [(id, a.sc)] } else s3
    s4.retire 4

/-- LOOKAHEAD and ALIGN of a load-like access, then the access (R153, R304). -/
def State.loadLike (s : State) (d la sxb : Nat) (a : Acc) : State :=
  if s.cur.openG d then s.lookahead
  else if misaligned a.va a.size then s.alignF a.va
  else s.longLoad d la sxb a

/-- A store, STF or reduction of the issuing thread that leaves issue (R173, R208, R304): performed in a local store or
deck; put into the side log where the space or the deck share gives PERM (R304); checked by the pier at issue when plain on a watched page; sent, or put into the side log, otherwise. -/
def State.storeOne (s : State) (a : Acc) : Stored :=
  if s.storeHeld a then .stall (s.meetAt [(a.va, a.size)])
  else match spaceOf a.va with
    | .none => let (s1, id) := s.newId; .done (s1.slogPut { a with id := id } fPERM)
    | .ls off => let (s1, id) := s.newId; .done (s1.perform { a with id := id, loc := lsLoc a.h off }).1
    | .deck off =>
      if s.deckOk a.h off then (let (s1, id) := s.newId; .done (s1.perform { a with id := id, loc := deckLoc (a.h / 4) off }).1)
      else (let (s1, id) := s.newId; .done (s1.slogPut { a with id := id } fPERM))
    | .global =>
      let (s1, id) := s.newId
      let a := { a with id := id }
      match s1.translate a.h a.asid a.tenant a.va a.kind.need with
      | (s2, .error c) => .done (s2.slogPut a c)
      | (s2, .ok x) =>
        let y := a.placed x
        if s2.watchedAt y.loc ∧ s2.cc.clkEx = true then .trap (s2.kfault fCLOCKEX a.va)
        else if s2.watchedAt y.loc ∧ s2.acqDue a.h a.slot then .stall s
        else if s2.watchedAt y.loc ∧ ¬ a.strong then
          if s2.moving y.loc then .done (s2.slogPut a fPAGE)
          else if ¬ s2.nowReady y then .stall s
          else if (s2.raceStep y).2 then .trap (s2.utrap 10 (BitVec.ofNat 64 a.va))
          else .done ((s2.passNow (dieOf a.h)).perform y).1
        else .done (s2.issueXl a (.ok x))

/-- The end of a storing instruction. -/
def Stored.finish (r : Stored) : State :=
  match r with
  | .done s => s.retire 4
  | .stall s => s
  | .trap s => s

/-- A plain store (R306). -/
def State.plainStore (s : State) (a : Acc) : State :=
  if misaligned a.va a.size then s.alignF a.va
  else if ¬ s.accReady then s.meetAt [(a.va, a.size)]
  else (s.pruneAcq.storeOne a).finish

/-- A release raises `SCLK` before its access where the location is global or in a deck (R206). -/
def movesClock (va : Nat) : Bool :=
  match spaceOf va with
  | .global => true
  | .deck _ => true
  | _ => false

/-- CLOCKEX of a releasing access (R206). -/
def State.relEx (s : State) (rel : Bool) (va : Nat) : Bool := rel && movesClock va && s.cc.clockEx

/-- The release half of an access (R195): the fence of its scope, then the clock, then the access with its clock. -/
def State.releasing (s : State) (a : Acc) (f : State → Acc → State) : State :=
  if ¬ a.rel then f s a
  else s.fencedAll a.sc fun s1 =>
    if movesClock a.va then f (s1.onCC Core.tick) { a with clk := s1.cc.sclk + 1 } else f s1 a

/-- A strong store or a reduction: alignment, clock, the thread's side-log entries, the release half, the access, and
the acquire half of a reduction (R174, R191, R195). A stall takes back the clock's rise. A release waits until every
earlier acquire has taken effect, but for a request that waits for a full word (R207). -/
def State.strongStore (s : State) (a : Acc) : State :=
  if misaligned a.va a.size then s.alignF a.va
  else if s.relEx a.rel a.va ∨ s.exhausted a then s.kfault fCLOCKEX a.va
  else if a.rel ∧ s.acqMoving s.curH s.curSlot then s
  else if s.slogPending s.curH s.curSlot then s.meetFence fun _ => true
  else if ¬ s.accReady ∨ s.storeHeld a then s.meetAt [(a.va, a.size)]
  else s.pruneAcq.releasing a fun s1 a =>
    let id := s1.nextId
    match s1.storeOne a with
    | .stall _ => s
    | .trap s2 => s2
    | .done s2 =>
      (if a.acq then s2.onCur fun t => { t with acqs := t.acqs ++ [(id, a.sc)] } else s2).retire 4

/-- An atomic with return (R312): LOOKAHEAD, ALIGN and CLOCKEX, then the release half and the access. -/
def State.atomicRet (s : State) (d la : Nat) (a : Acc) : State :=
  if s.cur.openG d then s.lookahead
  else if misaligned a.va a.size then s.alignF a.va
  else if s.relEx a.rel a.va then s.kfault fCLOCKEX a.va
  else if s.cur.full then s
  else if a.rel ∧ s.acqMoving s.curH s.curSlot then s
  else if s.slogPending s.curH s.curSlot then s.meetFence fun _ => true
  else if ¬ s.accReady ∨ s.storeHeld a then s.meetAt [(a.va, a.size)]
  else if s.exhausted a then s.kfault fCLOCKEX a.va
  else if s.acqDue s.curH s.curSlot ∧ s.watched a then s
  else s.releasing a fun s1 a1 => s1.longLoad d la 0 a1

/-! ### Plain loads and stores (R306) -/

/-- LD. -/
def execLd (d base sz off la : Nat) (s : State) : Out1 :=
  let n := szOf sz
  .next (s.loadLike d la (8 * n) (s.accOf (eaM (s.g base) off n) n .load))

/-- LDU. -/
def execLdu (d base sz off la : Nat) (s : State) : Out1 :=
  let n := szOf sz
  .next (s.loadLike d la 0 (s.accOf (eaM (s.g base) off n) n .load))

/-- ST. -/
def execSt (d base sz off : Nat) (s : State) : Out1 :=
  let n := szOf sz
  .next (s.plainStore { s.accOf (eaM (s.g base) off n) n .store with data := (s.g d).toNat % 256 ^ n })

/-! ### Strong, acquire and release forms (R307) -/

/-- LDX. -/
def execLdx (d a sz la : Nat) (s : State) : Out1 :=
  .next (s.loadLike d la 0 { s.accOf (s.g a).toNat (2 ^ sz) .load with strong := true })

/-- STX. -/
def execStx (d a sz : Nat) (s : State) : Out1 :=
  .next (s.strongStore { s.accOf (s.g a).toNat (2 ^ sz) .store with strong := true, data := (s.g d).toNat % 256 ^ 2 ^ sz })

/-- LDACQ. -/
def execLdacq (d a sc sz la : Nat) (s : State) : Out1 :=
  .next (s.loadLike d la 0 { s.accOf (s.g a).toNat (2 ^ sz) .load with strong := true, acq := true, sc := sc })

/-- STREL. -/
def execStrel (d a sc sz : Nat) (s : State) : Out1 :=
  .next (s.strongStore { s.accOf (s.g a).toNat (2 ^ sz) .store with
    strong := true, rel := true, sc := sc, data := (s.g d).toNat % 256 ^ 2 ^ sz })

/-! ### Full/empty forms (R308) -/

/-- LDF. -/
def execLdf (d a sc sz la : Nat) (s : State) : Out1 :=
  .next (s.loadLike d la 0 { s.accOf (s.g a).toNat (2 ^ (sz + 2)) .ldf with strong := true, acq := true, sc := sc })

/-- LDF.E. -/
def execLdfE (d a sc sz la : Nat) (s : State) : Out1 :=
  .next (s.loadLike d la 0 { s.accOf (s.g a).toNat (2 ^ (sz + 2)) .ldfE with strong := true, acq := true, sc := sc })

/-- STF. -/
def execStf (d a sc sz : Nat) (s : State) : Out1 :=
  .next (s.strongStore { s.accOf (s.g a).toNat (2 ^ (sz + 2)) .stf with
    strong := true, rel := true, sc := sc, data := (s.g d).toNat % 256 ^ 2 ^ (sz + 2) })

/-! ### Atomics and reductions (R311, R312) -/

/-- Size in bytes of an atomic's operand: `.w`, `.d`, or for FADD FP32 and BF16 (R311). -/
def amoSize (op sz : Nat) : Nat := if op = 10 then (if sz = 0 then 4 else 2) else (if sz = 0 then 4 else 8)

/-- The access of an atomic. -/
def State.amoAcc (s : State) (op d a sc ord sz : Nat) (ret : Bool) : Acc :=
  let n := amoSize op sz
  { s.accOf (s.g a).toNat n (.amo op ret) with
    strong := true, acq := ord % 2 = 1, rel := 2 ≤ ord, sc := sc, ord := ord, data := (s.g d).toNat % 256 ^ n
    data2 := if op = 9 then (s.g (d + 1)).toNat % 256 ^ n else 0 }

def State.amo (s : State) (op d a sc ord sz la : Nat) : State := s.atomicRet d la (s.amoAcc op d a sc ord sz true)
def State.red (s : State) (op d a sc ord sz : Nat) : State := s.strongStore (s.amoAcc op d a sc ord sz false)

/-- AMOADD. -/
def execAmoadd (d a sc ord sz la : Nat) (s : State) : Out1 := .next (s.amo 0 d a sc ord sz la)
/-- AMOAND. -/
def execAmoand (d a sc ord sz la : Nat) (s : State) : Out1 := .next (s.amo 1 d a sc ord sz la)
/-- AMOOR. -/
def execAmoor (d a sc ord sz la : Nat) (s : State) : Out1 := .next (s.amo 2 d a sc ord sz la)
/-- AMOXOR. -/
def execAmoxor (d a sc ord sz la : Nat) (s : State) : Out1 := .next (s.amo 3 d a sc ord sz la)
/-- AMOMIN. -/
def execAmomin (d a sc ord sz la : Nat) (s : State) : Out1 := .next (s.amo 4 d a sc ord sz la)
/-- AMOMAX. -/
def execAmomax (d a sc ord sz la : Nat) (s : State) : Out1 := .next (s.amo 5 d a sc ord sz la)
/-- AMOMINU. -/
def execAmominu (d a sc ord sz la : Nat) (s : State) : Out1 := .next (s.amo 6 d a sc ord sz la)
/-- AMOMAXU. -/
def execAmomaxu (d a sc ord sz la : Nat) (s : State) : Out1 := .next (s.amo 7 d a sc ord sz la)
/-- AMOSWAP. -/
def execAmoswap (d a sc ord sz la : Nat) (s : State) : Out1 := .next (s.amo 8 d a sc ord sz la)
/-- AMOCAS. -/
def execAmocas (d a sc ord sz la : Nat) (s : State) : Out1 := .next (s.amo 9 d a sc ord sz la)
/-- AMOFADD. -/
def execAmofadd (d a sc ord sz la : Nat) (s : State) : Out1 := .next (s.amo 10 d a sc ord sz la)
/-- AMOADD.nr. -/
def execAmoaddNr (d a sc ord sz : Nat) (s : State) : Out1 := .next (s.red 0 d a sc ord sz)
/-- AMOAND.nr. -/
def execAmoandNr (d a sc ord sz : Nat) (s : State) : Out1 := .next (s.red 1 d a sc ord sz)
/-- AMOOR.nr. -/
def execAmoorNr (d a sc ord sz : Nat) (s : State) : Out1 := .next (s.red 2 d a sc ord sz)
/-- AMOXOR.nr. -/
def execAmoxorNr (d a sc ord sz : Nat) (s : State) : Out1 := .next (s.red 3 d a sc ord sz)
/-- AMOMIN.nr. -/
def execAmominNr (d a sc ord sz : Nat) (s : State) : Out1 := .next (s.red 4 d a sc ord sz)
/-- AMOMAX.nr. -/
def execAmomaxNr (d a sc ord sz : Nat) (s : State) : Out1 := .next (s.red 5 d a sc ord sz)
/-- AMOMINU.nr. -/
def execAmominuNr (d a sc ord sz : Nat) (s : State) : Out1 := .next (s.red 6 d a sc ord sz)
/-- AMOMAXU.nr. -/
def execAmomaxuNr (d a sc ord sz : Nat) (s : State) : Out1 := .next (s.red 7 d a sc ord sz)
/-- AMOSWAP.nr. -/
def execAmoswapNr (d a sc ord sz : Nat) (s : State) : Out1 := .next (s.red 8 d a sc ord sz)
/-- AMOFADD.nr. -/
def execAmofaddNr (d a sc ord sz : Nat) (s : State) : Out1 := .next (s.red 10 d a sc ord sz)

/-! ### Fences (R313) -/

/-- The access counts as a load (R313). -/
def AccKind.loads : AccKind → Bool
  | .load | .ldf | .ldfE => true
  | .amo _ r => r
  | _ => false

/-- The access counts as a store (R313). -/
def AccKind.stores : AccKind → Bool
  | .store | .stf => true
  | .amo _ _ => true
  | _ => false

/-- FENCE: full. -/
def execFence (sc : Nat) (s : State) : Out1 := .next (s.fenced sc (fun _ => true) fun s => s.retire 4)
/-- FENCE.ld: earlier loads before all. -/
def execFenceLd (sc : Nat) (s : State) : Out1 := .next (s.fenced sc AccKind.loads fun s => s.retire 4)
/-- FENCE.sl: earlier stores before loads. -/
def execFenceSl (sc : Nat) (s : State) : Out1 := .next (s.fenced sc AccKind.stores fun s => s.retire 4)
/-- FENCE.st: earlier stores before stores. -/
def execFenceSt (sc : Nat) (s : State) : Out1 := .next (s.fenced sc AccKind.stores fun s => s.retire 4)

/-! ### SCLK (R316) -/

/-- SCLK. -/
def execSclk (d : Nat) (s : State) : Out1 := .next (s.wrNext d 4 (BitVec.ofNat 64 s.cc.sclk))

/-- SCLK.inc. -/
def execSclkInc (d : Nat) (s : State) : Out1 :=
  .next (
    if s.cur.openG d then s.lookahead
    else if s.cc.clockEx then s.kfault fCLOCKEX 0
    else ((s.onCC Core.tick).wrG d (BitVec.ofNat 64 (s.cc.sclk + 1))).retire 4)

end Sys2Proof.Machine
end

