-- ==== Sys2Proof/Machine/Barrier.lean ====
section
/-! DEFINITION. Synchronisation domains (R138, R139), barriers (R314, R315) and the generation of race records (R206,
R209). -/

namespace Sys2Proof.Machine

/-! ### Tenants' ranges (R89, R90) -/

def State.tenQn (s : State) (t : Nat) : Nat := s.srf 0x80 t 54 48
def State.tenQbase (s : State) (t : Nat) : Nat := s.srf 0x80 t 47 36
def State.tenFcn (s : State) (t : Nat) : Nat := s.srf 0x80 t 35 27
def State.tenFcb (s : State) (t : Nat) : Nat := s.srf 0x80 t 26 19
/-- STATE of `TEN.CFG`: 0 OFF, 1 ACTIVE, 2 RESETTING. -/
def State.tenState (s : State) (t : Nat) : Nat := s.srf 0x80 t 62 61
/-- Fence counter of a tenant's local index, where the index is within its limit (R90). -/
def State.fcOf (s : State) (t i : Nat) : Option Nat := if i < 256 * s.tenFcn t then some (256 * s.tenFcb t + i) else none

/-! ### Members -/

/-- A thread of the core that belongs to its share and lives (R134, R315). -/
def Thread.live (t : Thread) : Bool :=
  (match t.st with | .free => false | _ => true) && decide (t.role ≠ .none)

/-- Slots of a core's live threads. -/
def Core.liveSlots (c : Core) : List Nat := (List.range 4).filter fun k => (c.thr k).live

/-- The launch that a share belongs to. -/
def State.launchOf (s : State) (sh : Share) : Option Launch :=
  s.launches.find? fun l => decide (l.q = sh.q ∧ l.lhead = sh.lhead)

/-- The interval of positions that a level covers for the share on core `h` whose logical core lies at `pos` (R138,
R139). -/
def State.domRange (s : State) (h pos lv : Nat) : Nat × Nat :=
  if lv = 2 then (pos / 4 * 4, 4)
  else
    let w := (s.core h).dom.val (lv - 2) 0
    (wbits w 12 0, wbits w 45 32)

/-- The logical cores of a launch that a level's domain holds, as (k, the core that holds share k now). -/
def Launch.within (l : Launch) (r : Nat × Nat) : List (Nat × Nat) :=
  (l.members.zipIdx.filter fun p => decide (r.1 ≤ p.1 ∧ p.1 < r.1 + r.2)).map fun p => (p.2, l.where_.getD p.2 p.1)

/-- The members of the barrier at a level that core `h` with share `sh` takes part in. -/
def State.barMembers (s : State) (h : Nat) (sh : Share) (lv : Nat) : List (Nat × Nat) :=
  if lv ≤ 1 then [(sh.k, h)]
  else match s.launchOf sh with
    | some l => l.within (s.domRange h (l.members.getD sh.k h) lv)
    | none => [(sh.k, h)]

/-- A live thread has arrived at a level and its instance is not complete. -/
def Thread.arrivedAt (t : Thread) (lv : Nat) : Bool := t.arrivals.any fun a => decide (a.level = lv) && a.done.isNone

/-- The core holds share `k` of the launch that `sh` belongs to. -/
def Core.holds (c : Core) (sh : Share) (k : Nat) : Bool :=
  match c.share with
  | some x => decide (x.q = sh.q ∧ x.lhead = sh.lhead ∧ x.k = k)
  | none => false

/-- Share `k` of that launch where it is saved. -/
def Saved.holds (v : Saved) (sh : Share) (k : Nat) : Bool := decide (v.q = sh.q ∧ v.lhead = sh.lhead ∧ v.k = k)

/-- A core without a live thread of its share is past its routine phase: it counts as arrived at every instance of levels 2
to 5 (R315). -/
def Core.pastRoutines (c : Core) : Bool :=
  c.liveSlots.isEmpty && (match c.share with | some x => decide (2 ≤ x.phase) | none => false)

/-- A logical core counts as arrived: where its share runs, each of its live threads has arrived or, at level 2 and above,
none lives and its routine phase is over; where its share is saved, the latter; and where it has ended (R131, R315). -/
def State.coreArrived (s : State) (sh : Share) (lv : Nat) (m : Nat × Nat) : Bool :=
  let c := s.core m.2
  if c.holds sh m.1 then
    (if c.liveSlots = [] then decide (2 ≤ lv) && c.pastRoutines else c.liveSlots.all fun k => (c.thr k).arrivedAt lv)
  else
    (match s.launchOf sh with | some l => l.ended.contains m.1 | none => false) ||
      (decide (2 ≤ lv) && s.saved.any fun v => v.holds sh m.1 && v.core.pastRoutines)

/-- The arrivals at a level that stand in a core. -/
def Core.arrivalsAt (c : Core) (lv : Nat) : List Arrival :=
  c.liveSlots.flatMap fun k => (c.thr k).arrivals.filter fun a => decide (a.level = lv) && a.done.isNone

/-! ### Generations (R209) -/

/-- The generation of a tenant advances: the clocks it carries are zeroed and the sweep of the generation after it
starts (R206, R209). -/
def State.advanceGen (s : State) (t : Nat) : State :=
  let s1 := s.setSrf 0xDA t 7 0 ((s.srf 0xDA t 7 0 + 1) % 256)
  let qs := (s1.cores.filter fun p => match p.2.share with | some sh => decide (sh.tenant = t) | none => false).map Prod.fst
  let s2 := qs.foldl (fun s h => s.onQuad (h / 4) fun q => { q with shareClk := q.shareClk.put (h % 4) 0 }) s1
  { s2 with
    relClk := s2.relClk.filter fun p => decide (p.1 % 256 ≠ t)
    fcClk := s2.fcClk.filter fun p => !(decide (256 * s2.tenFcb t ≤ p.1 ∧ p.1 < 256 * (s2.tenFcb t + s2.tenFcn t)))
    sweeps := t :: s2.sweeps.erase t }

/-- RACE_SWEEP_DONE [t]: every pier has cleared the tenant's records of the coming generation (R209). A record is the
tenant's when its frame is. -/
def execRaceSweepDone (s : State) : Out1 :=
  let t := s.param 0
  .next (if s.sweeps.contains t then
      let g := (s.srf 0xDA t 7 0 + 1) % 256
      { s with
        sweeps := s.sweeps.erase t
        race := s.race.filter fun p => !(decide (p.2.gen = g ∧ (s.frame (p.2.line / 1024)).tenant = t)) }
    else s)

/-! ### Completion -/

/-- One member thread at a completed instance. -/
def Thread.completed (t : Thread) (lv clk : Nat) : Thread :=
  { t with arrivals := t.arrivals.map fun a => if a.level = lv ∧ a.done.isNone then { a with done := some clk } else a }

/-- One member core at a completed instance: the threads, the clock (1 for a generation barrier), the phase. -/
def Core.completed (c : Core) (lv clk : Nat) (gen : Bool) : Core :=
  let c1 := c.liveSlots.foldl (fun c k => c.setThr k ((c.thr k).completed lv clk)) c
  let c2 := if gen then { c1 with sclk := 1, clkEx := false } else c1.acquire clk
  if 3 ≤ lv then
    (let w := c2.dom.val (lv - 2) 0
     { c2 with dom := c2.dom.put (lv - 2) (w ^^^ BitVec.ofNat 64 (2 ^ 62)) })
  else c2

/-- A member takes the completion of an instance: its core where the share runs, its save until the restore where it is
saved. -/
def State.memberCompleted (s : State) (sh : Share) (lv clk : Nat) (gen : Bool) (m : Nat × Nat) : State :=
  if (s.core m.2).holds sh m.1 then s.onCoreAt m.2 fun c => c.completed lv clk gen
  else { s with saved := s.saved.map fun v => if v.holds sh m.1 then { v with missed := v.missed ++ [(lv, clk, gen)] } else v }

/-- The instance at a level that core `h` takes part in completes when every member has arrived (R315). -/
def State.barComplete (s : State) (h lv : Nat) : State :=
  match (s.core h).share with
  | none => s
  | some sh =>
    let ms := s.barMembers h sh lv
    let arr := (ms.filter fun m => (s.core m.2).holds sh m.1).flatMap fun m => (s.core m.2).arrivalsAt lv
    let gen := arr.any fun a => a.gen
    if arr = [] ∨ ¬ ms.all (s.coreArrived sh lv) ∨ (gen = true ∧ s.sweeps.contains sh.tenant = true) then s
    else
      let clk := arr.foldl (fun m a => max m a.clk) 0
      let s1 := ms.foldl (fun s m => s.memberCompleted sh lv clk gen m) s
      if gen then s1.advanceGen sh.tenant else s1

/-- BARRIER_COMPLETE [h, level]. -/
def execBarrierComplete (s : State) : Out1 := .next (s.barComplete (s.param 0) (s.param 1))

/-! ### Instructions -/

/-- The level is one that this core's thread may name (R138). -/
def State.levelOk (s : State) (lv : Nat) : Bool :=
  if lv = 0 then true
  else if s.kernel ∨ 5 < lv then false
  else if lv ≤ 2 then true
  else (s.cc.dom.val (lv - 2) 0).getLsbD 63

/-- Scope of a barrier at a level that core `h` takes part in (R315). -/
def State.scopeAt (s : State) (h lv : Nat) : Nat :=
  if lv ≤ 1 then 0
  else if lv = 2 then 1
  else
    let r := s.domRange h h lv
    if r.1 / 1024 = (r.1 + r.2 - 1) / 1024 then 2 else 3

/-- Scope of a barrier of the issuing thread. -/
def State.barScope (s : State) (lv : Nat) : Nat := s.scopeAt s.curH lv

/-- BAR.GEN names the level whose domain holds every logical core of its launch (R209). -/
def State.genLevelOk (s : State) (lv : Nat) : Bool :=
  match s.cc.share with
  | none => false
  | some sh => decide (1 ≤ lv) && decide ((s.barMembers s.curH sh lv).length = sh.l)

/-- BARA's effect once any earlier instance has completed: the release, which waits for an earlier acquire (log 84), the clock
and the arrival (R315). -/
def State.arriveAt (s : State) (lv : Nat) (gen : Bool) (f : State → State) : State :=
  if s.cur.arrivedAt lv ∨ s.relWaits then s
  else s.fencedAll (s.barScope lv) fun s1 =>
    if s1.cc.clockEx then s1.kfault fCLOCKEX 0
    else
      let a : Arrival := { level := lv, clk := s1.cc.sclk + 1, gen := gen, done := if lv = 0 then some (s1.cc.sclk + 1) else none }
      f ((s1.onCC Core.tick).onCur fun t => { t with arrivals := (t.arrivals.filter fun b => decide (b.level ≠ lv)) ++ [a] })

/-- BARW's wait: the arrival closes once its instance has completed (R315). -/
def State.waitAt (s : State) (lv : Nat) : State :=
  if s.cur.arrivedAt lv then s
  else (s.onCur fun t => { t with arrivals := t.arrivals.filter fun a => decide (a.level ≠ lv) }).retire 4

/-- BAR: the arrival, then the wait (R315). -/
def State.barrier (s : State) (lv : Nat) (gen : Bool) : State :=
  if ¬ s.levelOk lv ∨ (gen = true ∧ ¬ s.genLevelOk lv) then s.illegal
  else if s.cur.wait = .arrived then s.waitAt lv
  else s.arriveAt lv gen fun s1 =>
    if lv = 0 then s1.waitAt lv else s1.onCur fun t => { t with wait := .arrived }

/-- BAR. -/
def execBar (lv : Nat) (s : State) : Out1 := .next (s.barrier lv false)

/-- BAR.gen. -/
def execBarGen (lv : Nat) (s : State) : Out1 := .next (s.barrier lv true)

/-- BARA. -/
def execBara (lv : Nat) (s : State) : Out1 :=
  .next (if ¬ s.levelOk lv then s.illegal else s.arriveAt lv false fun s1 => s1.retire 4)

/-- BARW. -/
def execBarw (lv : Nat) (s : State) : Out1 :=
  .next (if ¬ s.levelOk lv then s.illegal else s.waitAt lv)

end Sys2Proof.Machine
end

