-- ==== Sys2Proof/Machine/Pier.lean ====
section
/-! DEFINITION. The ordering points (R191–R193), the homes (R179–R187), results on their way back, fence tokens (R30)
and the side log's engine (R173–R175). -/

namespace Sys2Proof.Machine

/-! ### The ordering point -/

def Acc.waitsEntry (a : Acc) : Bool := match a.st with | .issued => true | .held => true | _ => false

/-- A strong store in the sense of R191 rule 2: not an atomic. -/
def Acc.strongStore (a : Acc) : Bool := a.strong && (match a.kind with | .store | .stf => true | _ => false)

/-- An earlier access keeps this one from its entry: program order to one location, where one that returns a value has first
to be performed, since it may fault; program order of a core's strong accesses but for a strong load passing strong stores to
other locations (R190, R191, R193). Identities rise in program order. -/
def Acc.keeps (b a : Acc) : Bool :=
  decide (b.id < a.id) && (
    ((b.waitsEntry || (b.kind.returns && (match b.st with | .performed _ => false | _ => true))) &&
      decide (b.h = a.h ∧ b.slot = a.slot) && b.overlaps a) ||
    (b.waitsEntry && a.strong && b.strong && decide (b.h = a.h) &&
      !(decide (a.kind = .load) && b.strongStore && !b.overlaps a)))

/-- The die's ordering point holds an access that has entered as number `n` until it has sent it (R192). -/
def State.holds (s : State) (die n : Nat) : Bool := decide (s.sent.val die 0 ≤ n)

/-- A strong store that the die's ordering point holds (R192). -/
def State.heldStore (s : State) (b : Acc) (die : Nat) : Bool :=
  decide (dieOf b.h = die) && b.strongStore && (match b.st with | .entered n => s.holds die n | _ => false)

/-- The access may enter its ordering point now (R191, R193). -/
def State.enterOk (s : State) (a : Acc) : Bool :=
  decide (a.st = .issued) && !(s.accs.any fun b => b.keeps a) && !s.faultBefore a &&
    !(decide (a.kind = .load) && !a.strong && s.accs.any fun b => s.heldStore b (dieOf a.h) && b.overlaps a)

/-- The held store that forwards its value to a load behind it (R192): the last overlapping write in entry order of those
not yet performed must be a strong store that is still held and covers the load. -/
def State.forward (s : State) (a : Acc) : Option Acc :=
  let ws := s.accs.filter fun b => decide (dieOf b.h = dieOf a.h) && b.overlaps a && b.kind.writes &&
    (match b.st with | .entered _ => true | _ => false)
  let last := ws.foldl (fun (m : Option Acc) b => match m, b.st with
    | none, _ => some b
    | some c, .entered n => (match c.st with | .entered k => if k < n then some b else m | _ => some b)
    | m, _ => m) none
  match last with
  | some b => if s.heldStore b (dieOf a.h) ∧ b.loc ≤ a.loc ∧ a.loc + a.size ≤ b.loc + b.size then some b else none
  | none => none

/-- The access enters the ordering point of its die, which runs (R21), or takes a held store's value there, with the clock that a release carries
(R206); one held at its abutment translates again. -/
def State.enterAcc (s : State) (id : Nat) : State :=
  match s.acc? id with
  | none => s
  | some a =>
    if a.st = .held then s.resend a
    else if ¬ s.enterOk a ∨ s.relocking = some (dieOf a.h) then s
    else
      let die := dieOf a.h
      let n := s.entered.val die 0
      let s1 := { s with entered := s.entered.put die (n + 1) }
      match (if a.kind = .load ∧ a.strong then s.forward a else none) with
      | some b =>
        ((s1.mapAcc id fun a => { a with st := .performed (b.data / 256 ^ (a.loc - b.loc) % 256 ^ a.size) }).relClock b).acqClock a
      | none => s1.mapAcc id fun a => { a with st := .entered n }

/-- The ordering point of a die sends its next entry to its home (R192). -/
def State.sendNext (s : State) (die : Nat) : State :=
  let n := s.sent.val die 0
  if n < s.entered.val die 0 then { s with sent := s.sent.put die (n + 1) } else s

/-- An access may be performed at its home now: everything its die sent there before has been (R192); no earlier request
of its thread waits at the location or has been sent back from it (R190); on a watched page every earlier acquire of its
thread has taken effect (R207); its flit has room (R39); and the home's socket does not relock (R21). -/
def State.homeTurn (s : State) (a : Acc) : Bool :=
  (!isRemote a.loc || a.gone || s.mayLeave) && s.homeRuns a.loc &&
    !(s.accs.any fun b => decide (b.h = a.h ∧ b.slot = a.slot ∧ b.id < a.id) &&
      ((decide (b.st = .waiting ∨ b.st = .held) && b.overlaps a) ||
       (s.watchedAt a.loc && b.acq && (match b.st with | .performed _ => false | _ => true)))) &&
    match a.st with
    | .entered n => s.accs.all fun b => match b.st with
        | .entered m => !(decide (dieOf b.h = dieOf a.h ∧ m < n) && decide (s.homeOf b.loc = s.homeOf a.loc))
        | _ => true
    | _ => false

/-! ### Hotness (R180) -/

def quadrant (die : Nat) : Nat := if die < 2 then 0 else if die < 4 then 1 else if die < 6 then 2 else 3

/-- A miss in a pier buffer by a compute die (R180). -/
def State.hotMiss (s : State) (pa die : Nat) : State :=
  let r := pa / 2 ^ 21
  let k := 4 * r + quadrant die
  let s1 := if s.hot.val k 0 = 0xFFFF then
      { s with hot := (List.range 4).foldl (fun m i => m.put (4 * r + i) (m.val (4 * r + i) 0 / 2)) s.hot } else s
  { s1 with hot := s1.hot.put k (s1.hot.val k 0 + 1) }

/-! ### Homes -/

/-- An access that returns no value has ended: the entry that waits for it is told. -/
def State.endAcc (s : State) (a : Acc) : State :=
  if a.ent = 0 then s.dropAcc a.id else (s.dropAcc a.id).onThr a.h a.slot fun t => t.arrive a.ent 0 0 0

/-- What a home's answer does to an access in flight. -/
def State.settle (s : State) (a : Acc) (r : HRes) : State :=
  match r with
  | .value v => if a.ent = 0 ∧ a.kind.returns then s.dropAcc a.id else s.mapAcc a.id fun a => { a with st := .performed v }
  | .fault f => if a.kind.returns then s.landFault a f else s.endAcc a
  | .wait =>
    if a.ent = 0 then s.dropAcc a.id else
    let p := s.homeOf a.loc
    let n := (s.accs.filter fun b => decide (b.st = .waiting ∧ s.homeOf b.loc = p)).length
    let s1 := s.dropAcc a.id
    { s1 with accs := s1.accs ++ [{ a with st := if n < 2048 then .waiting else .held }] }
  | .done => s.endAcc a

/-- A remote access in its turn: its request leaves, and one that returns a value waits for the answer, which is its next turn
(R40, R44, R45); a store or a reduction needs none. Without a route it is UNREACHABLE. -/
def State.remoteTurn (s : State) (a : Acc) (refused : Bool) : State :=
  if a.gone then (let (s1, r) := s.remoteAnswer a refused; s1.settle a r)
  else if a.kind.returns ∧ s.routed then
    (s.mapAcc a.id fun b => { b with gone := true }).remoteSend { a with gone := true } false
  else (let (s1, r) := s.remoteOp a refused; s1.settle a r)

/-- PIER_ACCESS [id, crc, miss]: the access is performed at its home in its turn, which sends what entered before it
(R179, R192). `crc` 1 and 2 are a failed CRC check with at most, or more than, 4 wrong bytes; for a remote access 1 is
a refusal at the target. -/
def execPierAccess (s : State) : Out1 :=
  .next (match s.acc? (s.param 0) with
    | none => s
    | some a =>
      if ¬ s.homeTurn a then s
      else
        let die := dieOf a.h
        let s0 : State := match a.st with
          | .entered n => { s with sent := s.sent.put die (max (s.sent.val die 0) (n + 1)) }
          | _ => s
        if isRemote a.loc then s0.remoteTurn a (decide (s.param 1 = 1))
        else
          let s1 := if isHbm a.loc then s0.crc a.loc (s.param 1) else s0
          let s2 := if isHbm a.loc ∧ s.param 2 = 1 then s1.hotMiss a.loc die else s1
          let (s3, r) := s2.perform a
          s3.settle a r)

/-- LONG_LATENCY_RESULT [h, slot, idx]: a result reaches pending entry `idx` of a thread: a performed access's value, or
a special-function result (R137, R150). -/
def execLongLatencyResult (s : State) : Out1 :=
  let h := s.param 0
  let t := s.thr h (s.param 1)
  let pend := if t.trap.act ∧ s.param 2 ≥ t.pend.length then t.trap.pend else t.pend
  let i := if t.trap.act ∧ s.param 2 ≥ t.pend.length then s.param 2 - t.pend.length else s.param 2
  .next (match pend[i]? with
    | none => s
    | some e =>
      match s.accs.find? fun a => decide (a.ent = e.id) && (match a.st with | .performed _ => true | _ => false) with
      | some a => (match a.st with | .performed v => s.landAcc a v | _ => s)
      | none =>
        match (s.quad (h / 4)).sfq.find? fun r => decide (r.ent = e.id) with
        | some r =>
          (s.onQuad (h / 4) fun q => { q with sfq := q.sfq.filter fun x => decide (x.ent ≠ e.id) }).onThr h (s.param 1)
            fun t => t.arrive e.id 0 2048 r.value
        | none => s)

/-- LDF_RESEND [id]: a request that a full pier returned is sent again and takes a new place at its home (R309); it translates
again, as every access held at an abutment does (R171, R182). -/
def execLdfResend (s : State) : Out1 :=
  .next (match s.acc? (s.param 0) with
    | none => s
    | some a =>
      if a.st = .held ∧ (a.kind = .ldf ∨ a.kind = .ldfE) then s.resend a else s)

/-! ### Tokens (R30) -/

/-- FENCE_TOKEN_RETURN [h, slot, recip]: a recipient returns the token of a thread's fence. -/
def execFenceTokenReturn (s : State) : Out1 :=
  let h := s.param 0
  let k := s.param 1
  .next (match (s.thr h k).wait with
    | .tokens mark left =>
      if left.contains (s.param 2) ∧ s.tokenReady (dieOf h) mark (s.param 2) then
        s.onThr h k fun t => { t with wait := .tokens mark (left.erase (s.param 2)) }
      else s
    | _ => s)

/-! ### The side log (R173–R175) -/

/-- The accesses of the head entry as they are performed at its retry, where it now has a place and its turn has come
(R175); what they find on a watched page is recorded and not checked, since the instruction can no longer trap
(DESIGN CHOICE, log 73). -/
def State.slogPlace (s : State) (h : Nat) (e : SlogEntry) (a : Acc) : State × Option (List Acc) :=
  match spaceOf a.va with
  | .global =>
    (match s.translate h e.asid e.tenant a.va a.kind.need with
    | (s1, .error _) => (s1, none)
    | (s1, .ok x) =>
      let as := e.accs.map fun y => { y.placed x with supp := true }
      if as.any (fun y => y.kind.badAt y.loc) ∨ s1.moving (x.at a.va) ∨ (as.any fun y => !s1.nowReady y) then (s1, none)
      else (s1, some as))
  | .deck off => (s, if s.deckOk h off then some (e.accs.map fun y => { y with loc := deckLoc (h / 4) (y.va - a.va + off) }) else none)
  | .ls off => (s, some (e.accs.map fun y => { y with loc := lsLoc h (y.va - a.va + off) }))
  | .none => (s, none)

/-- The retry of the head entry of a core's side log (R175): performed when it translates and its turn has come. -/
def State.slogHead (s : State) (h : Nat) : State :=
  match (s.core h).slog with
  | [] => s
  | e :: rest =>
    match e.accs with
    | [] => s.onCoreAt h fun c => { c with slog := rest }
    | a :: _ => match s.slogPlace h e a with
      | (s1, none) => s1
      | (s1, some as) => (as.foldl (fun s y => (s.perform y).1) (s1.passNow (dieOf h))).onCoreAt h fun c => { c with slog := rest }

/-- The moments of R175: the head of the side log is retried, and so are the header writes that the span holds (R383). -/
def State.slogRetry (s : State) (h : Nat) : State :=
  (s.slogHead h).onCoreAt h fun c => { c with dq := c.dq.map fun d => { d with started := false } }

/-- SIDE_LOG_RETRY [h]: the abutment's own retry, at least every 100 µs (R175). -/
def execSideLogRetry (s : State) : Out1 := .next (s.slogRetry (s.param 0))

/-- SLOG_RETRY [h]: a write of RETRY to `SLOG.CMD` (R175). -/
def execSlogRetry (s : State) : Out1 := .next (s.slogRetry (s.param 0))

/-- HELD_STORE_ENTER [h]: the oldest access held at the abutment enters the side log as an entry frees (R173). -/
def State.heldEnter (s : State) (h : Nat) : State :=
  let c := s.core h
  match c.slogHeld with
  | [] => s
  | a :: rest =>
    if c.slog.length < 32 then
      s.setCore h { c with slogHeld := rest, slog := c.slog ++ [{ slot := a.slot, asid := a.asid, tenant := a.tenant, line := a.va / 64, accs := [a] }] }
    else s

def execHeldStoreEnter (s : State) : Out1 := .next (s.heldEnter (s.param 0))

/-- Side-log entries that a core holds, in the log, at the abutment, or still to be replayed. -/
def Core.slogCount (c : Core) : Nat :=
  c.slog.length + c.slogHeld.length + (c.replay.filter fun e => e.accs.all fun a => !a.kind.returns).length

/-- Entries counted in DROP (R175). -/
def Core.dropCount (c : Core) (n : Nat) : Core := { c with slogDrop := (c.slogDrop + n) % 2 ^ 32 }

/-- Every side-log entry of a core is dropped and counted in DROP (R175). -/
def Core.slogDiscard (c : Core) : Core := { c.dropCount c.slogCount with
  slog := [], slogHeld := [], replay := c.replay.filter fun e => e.accs.any fun a => a.kind.returns }

/-! ### Replay entries (R127) -/

/-- The next entry of a restored share: its stores and reductions are performed in their turn, or go to the side log where
they fault or their page moves; an atomic or a full/empty request is issued again, under the identity that its thread
waits for (R127, R310). -/
def State.replayHead (s : State) (h : Nat) : State :=
  match (s.core h).replay with
  | [] => s
  | e :: rest =>
    let pop := fun (s : State) => s.onCoreAt h fun c => { c with replay := rest }
    let logged := fun (s : State) (code : Nat) => (pop s).slogAgain h e code
    match e.accs with
    | [] => pop s
    | a :: _ =>
      if a.kind.returns then e.accs.foldl (fun s y => s.sendAcc { y with st := .issued }) (pop s)
      else match spaceOf a.va with
      | .ls off => pop (e.accs.foldl (fun s y => (s.perform { y with loc := lsLoc h (y.va - a.va + off) }).1) s)
      | .deck off =>
        if s.deckOk h off then
          pop (e.accs.foldl (fun s y => (s.perform { y with loc := deckLoc (h / 4) (y.va - a.va + off) }).1) s)
        else logged s fPERM
      | .none => logged s fPERM
      | .global =>
        match s.translate h e.asid e.tenant a.va a.kind.need with
        | (s1, .error c) => logged s1 c
        | (s1, .ok x) =>
          let as := e.accs.map fun y => { y.placed x with supp := true }
          if as.any fun y => y.kind.badAt y.loc then logged s1 fPERM
          else if s1.moving (x.at a.va) then logged s1 fPAGE
          else if as.any fun y => !s1.nowReady y then s1
          else pop (as.foldl (fun s y => (s.perform y).1) (s1.passNow (dieOf h)))

end Sys2Proof.Machine
end

