-- ==== Sys2Proof/Machine/Transfer.lean ====
section
/-! DEFINITION. Messages (R318–R323), pair-merge (R324), copies and permits (R325–R327) and completion tags (R328). -/

namespace Sys2Proof.Machine

/-! ### Where a logical core's share is -/

/-- Where the share of a logical core stands. -/
inductive Place where
  /-- Running on a core. -/
  | at (h : Nat)
  /-- Saved: its index among the saved shares. -/
  | kept (i : Nat)
  /-- Not yet begun: the core that it is dealt to. -/
  | early (h : Nat)
  /-- Ended, on the core that ran it last. -/
  | gone (h : Nat)
  deriving DecidableEq, Repr

/-- The share of logical core `k` of the launch of share `sh` (R318, R131). -/
def State.placeOf (s : State) (sh : Share) (k : Nat) : Place :=
  match List.find? (fun p : Nat × Core => match p.2.share with
      | some x => decide (x.q = sh.q ∧ x.lhead = sh.lhead ∧ x.k = k)
      | none => false) s.cores with
  | some p => .at p.1
  | none => match s.saved.findIdx? fun v => decide (v.q = sh.q ∧ v.lhead = sh.lhead ∧ v.k = k) with
    | some i => .kept i
    | none => match s.launchOf sh with
      | some l => if l.ended.contains k then .gone (l.where_.getD k 0) else .early (l.where_.getD k 0)
      | none => .gone 0

/-- The smallest scope holding two cores (R198). -/
def scopeOf (h k : Nat) : Nat :=
  if h = k then 0 else if h / 4 = k / 4 then 1 else if h / 1024 = k / 1024 then 2 else 3

/-! ### Channels -/

/-- A waiting RECV of channel `c` takes a message (R321). -/
def takeInto (c : Nat) (m : Msg) : List Pend → Option (List Pend)
  | [] => none
  | e :: t =>
    if e.chan = some c ∧ e.missing ≠ 0 then
      some ({ e with value := m.payload.toNat, msgTag := m.nxm, clk := m.clk, missing := e.missing - 1 } :: t)
    else (takeInto c m t).map (e :: ·)

/-- The oldest waiting RECV of a channel takes the message at its head, in the saved table first (R321, R322); the
message's clock is returned. -/
def Thread.serveChan (t : Thread) (c : Nat) : Option (Thread × Nat) :=
  match t.chans.val c [] with
  | [] => none
  | m :: rest =>
    match takeInto c m t.trap.pend with
    | some p => some ({ t with trap := { t.trap with pend := p }, chans := t.chans.put c rest }, m.clk)
    | none => match takeInto c m t.pend with
      | some p => some ({ t with pend := p, chans := t.chans.put c rest }, m.clk)
      | none => none

/-- Every waiting RECV of a channel that a message serves is served; `n` bounds the rounds. -/
def Core.serveChan (co : Core) (k c : Nat) : Nat → Core
  | 0 => co
  | n + 1 => match (co.thr k).serveChan c with
    | some (t, clk) => ((co.setThr k t).acquire clk).serveChan k c n
    | none => co

/-- The oldest waiting offer of a channel joins its messages when the channel has room (R320). -/
def Core.fill (co : Core) (k c : Nat) : Core × Option Msg :=
  let t := co.thr k
  match t.offers.val c [] with
  | [] => (co, none)
  | m :: rest =>
    if (t.chans.val c []).length < 4 then
      (co.setThr k { t with offers := t.offers.put c rest, chans := t.chans.put c (t.chans.val c [] ++ [m]) }, some m)
    else (co, none)

/-- The oldest waiting offer of a channel is accepted when the channel has room, and a RECV that waits takes it (R320,
R321). -/
def Core.accept (co : Core) (k c : Nat) : Core × Option Msg :=
  match co.fill k c with
  | (c1, some m) => (c1.serveChan k c 8, some m)
  | (c1, none) => (c1, none)

/-- A core whose thread with offer `id` may send again. -/
def Core.offerDone (co : Core) (id : Nat) : Core :=
  if co.threads.any fun p => decide (p.2.offer = id) then
    { co with threads := co.threads.map fun p => (p.1, if p.2.offer = id then { p.2 with offer := 0 } else p.2) }
  else co

/-- The sender's message is accepted: its next SEND may go, wherever its share is (R320). -/
def State.accepted (s : State) (m : Option Msg) : State :=
  match m with
  | none => s
  | some m => { s with cores := s.cores.map fun p => (p.1, p.2.offerDone m.id)
                       saved := s.saved.map fun v => { v with core := v.core.offerDone m.id } }

/-- A channel of a resident thread accepts what it has room for. -/
def State.acceptAt (s : State) (h k c : Nat) : State :=
  let (co, m) := (s.core h).accept k c
  (s.setCore h co).accepted m

/-- MESSAGE_ACCEPT [h, slot, chan]. -/
def execMessageAccept (s : State) : Out1 := .next (s.acceptAt (s.param 0) (s.param 1) (s.param 2))

/-- An offer joins the offers at a channel. -/
def Core.offered (co : Core) (k c : Nat) (m : Msg) : Core :=
  let t := co.thr k
  co.setThr k { t with offers := t.offers.put c (t.offers.val c [] ++ [m]) }

/-- A message counted as discarded, saturating (R319, R323). -/
def Core.discard (co : Core) (n : Nat) : Core := { co with msgDisc := min (co.msgDisc + n) 0xFFFFFFFF }

/-- The launch of a share changed. -/
def State.onLaunch (s : State) (q lhead : Nat) (f : Launch → Launch) : State :=
  { s with launches := s.launches.map fun l => if l.q = q ∧ l.lhead = lhead then f l else l }

/-- The offer of a SEND to logical core `n` of the sender's launch reaches its channel (R319, R320); one to a share that has
not begun waits until it begins. -/
def State.offerTo (s : State) (p : Place) (n k c : Nat) (m : Msg) : State :=
  match p with
  | .at h => (s.onCoreAt h fun co => co.offered k c m).acceptAt h k c
  | .kept i => match s.saved[i]? with  -- its channel fills, and then its senders wait (R131)
    | none => s
    | some v =>
      let (co, a) := (v.core.offered k c m).fill k c
      ({ s with saved := s.saved.set i { v with core := co } } : State).accepted a
  | .early _ => match s.cc.share with
    | some sh => s.onLaunch sh.q sh.lhead fun l => { l with early := l.early ++ [{ k := n, slot := k, chan := c, m := m }] }
    | none => s
  | .gone h => (s.onCoreAt h fun co => co.discard 1).accepted (some m)

/-- The receiver that a destination doubleword names; none where SEND raises PERM (R318). -/
def State.sendPlace (s : State) (d : Word) : Option Place :=
  let k := wbits d 12 0
  if s.kernel then
    (if k < 32 ∧ (s.srv 0xB0 k).getLsbD 63 = true then some (.at (s.srf 0xB0 k 12 0)) else none)
  else match s.cc.share with
    | none => none
    | some sh => if k < sh.l then some (s.placeOf sh k) else none

/-- Scope of a message to a place. -/
def State.sendScope (s : State) (p : Place) : Nat :=
  match p with
  | .at h => scopeOf s.curH h
  | .gone h => scopeOf s.curH h
  | .early h => scopeOf s.curH h
  | .kept _ => 3

/-- SEND (R320). Its release waits for an earlier acquire whose clock the message has to carry (log 84). -/
def execSend (d a : Nat) (s : State) : Out1 :=
  let dst := s.g a
  let x := s.g d
  .next (match s.sendPlace dst with
    | none => s.perm 0
    | some p =>
      if s.cc.clockEx then s.kfault fCLOCKEX 0
      else if s.cur.offer ≠ 0 ∨ s.relWaits then s
      else s.fencedAll (s.sendScope p) fun s1 =>
        let (s2, id) := s1.newId
        let m : Msg := { payload := x, nxm := s2.cc.nxm, clk := s2.cc.sclk + 1, id := id }
        (((s2.onCC Core.tick).onCur fun t => { t with offer := id }).retire 4).offerTo p (wbits dst 12 0) (wbits dst 17 16) (wbits dst 22 20) m)

/-- RECV (R321). Its window keeps the `NXM` that it was issued under (R264). -/
def execRecv (d ch la : Nat) (s : State) : Out1 :=
  .next (
    if s.cur.openG d then s.lookahead
    else if s.cur.full then s
    else
      let e : Pend := { dest := if d = 0 then .none else .scalar (s.cur.phys d), field := d, missing := 1, chan := some ch, nxm := s.cc.nxm }
      let (s1, _) := s.alloc e la
      (s1.onCC fun c => c.serveChan s1.curSlot ch 4).retire 4)

/-- RECVQ (R321). A returned handler's SUPP delivers the head without the check (R265). -/
def execRecvq (d ch : Nat) (s : State) : Out1 :=
  .next (
    if s.cur.openG d then s.lookahead
    else match s.cur.chans.val ch [] with
      | [] => s
      | m :: rest =>
        if m.nxm ≠ s.cc.nxm ∧ s.cur.supp = false then s.utrap 4 0
        else
          (((s.onCur fun t => { t with chans := t.chans.put ch rest }).onCC fun c => c.acquire m.clk).wrG d m.payload).retire 4)

/-! ### PMRG (R324) -/

/-- The merged pair of two pairs. -/
def pairMerge (x y : Word) : Word :=
  let ma := fp32.read (wbits x 31 0)
  let sa := fp32.read (wbits x 63 32)
  let mb := fp32.read (wbits y 31 0)
  let sb := fp32.read (wbits y 63 32)
  let pair := fun (m s : FVal) => BitVec.ofNat 64 (fp32.round .rne false s * 2 ^ 32 + fp32.round .rne false m)
  if ma.isNan ∨ sa.isNan ∨ mb.isNan ∨ sb.isNan ∨ ma = .inf false ∨ mb = .inf false then pair .nan .nan
  else if ma = .inf true ∧ mb = .inf true then pair (.inf true) (.fin false 0 0)
  else if ma = .inf true then y
  else if mb = .inf true then x
  else
    let m := ma.larger mb
    let f := fun (v : FVal) => fp32.read (fp32.round .rne false (v.add m.neg).exp2)
    pair m ((sa.mul (f ma)).add (sb.mul (f mb)))

/-- PMRG (R324). -/
def execPmrg (d a b : Nat) (s : State) : Out1 := .next (s.wrNext d 4 (pairMerge (s.g a) (s.g b)))

/-! ### Copies (R325–R327) -/

/-- Fields of a copy descriptor. -/
def cpSrc (r : Nat) : Nat := recField r 0 8
def cpDst (r : Nat) : Nat := recField r 8 8
def cpRows (r : Nat) : Nat := recField r 16 4
def cpRb (r : Nat) : Nat := recField r 20 4
def cpSp (r : Nat) : Nat := recField r 24 4
def cpDp (r : Nat) : Nat := recField r 28 4
def cpTag (r : Nat) : Nat := recField r 32 1
def cpMcn (r : Nat) : Nat := recField r 34 2
def cpMck (r : Nat) : Nat := recField r 36 2

/-- First bytes of the rows of a copy's range. -/
def rowStarts (base pitch rows : Nat) : List Nat := (List.range rows).map fun r => base + r * pitch

/-- The rows of a range lie in one row of R161 that raises no PERM, and touch no deck share of another partition
(R325). -/
def State.rangeOk (s : State) (h base pitch rows rb : Nat) : Bool :=
  let last := base + (rows - 1) * pitch + rb - 1
  decide (last < 2 ^ 64) && sameRow base last &&
    (match spaceOf base with
     | .deck _ => (rowStarts base pitch rows).all fun a =>
         (List.range 4).all fun k =>
           let lo := 0xFFFFFE0000000000 + k * 0x20000
           decide (¬ (a < lo + 0x20000 ∧ lo < a + rb)) || s.deckOk h (k * 0x20000)
     | _ => true)

/-- Some page of a global range lies in the pool or in a remote package. -/
def State.farRange (s : State) (a : Acc) (base pitch rows rb : Nat) : Bool :=
  (rowStarts base pitch rows).any fun lo =>
    (List.range (rb / 65536 + 2)).any fun i =>
      match (s.translateAt (abutOf a.h) a.asid a.tenant (min (lo + i * 65536) (lo + rb - 1))).2 with
      | .ok x => isPool x.pa || isRemote x.pa
      | .error _ => false

/-- The descriptor checks of R325 step 2. -/
def State.copyOk (s : State) (a : Acc) (r : Nat) (multi : Bool) : Bool :=
  let glob := fun (b : Nat) => decide (spaceOf b = .global)
  decide (1 ≤ cpRows r ∧ cpRows r ≤ 65536 ∧ 4 ≤ cpRb r ∧ cpRb r ≤ 65536 ∧ cpTag r ≤ 63 ∧
      (cpRows r ≤ 1 ∨ cpRb r ≤ cpDp r) ∧ recField r 33 1 = 0 ∧ recField r 38 26 = 0) &&
    (if multi then
      decide (1 ≤ cpMcn r ∧ cpMcn r ≤ 256) &&
        decide (cpMck r + cpMcn r ≤ match s.cc.share with | some sh => sh.l | none => 0) &&
        (match spaceOf (cpDst r) with | .ls _ => true | _ => false)
     else decide (cpMcn r = 0 ∧ cpMck r = 0)) &&
    s.rangeOk a.h (cpSrc r) (cpSp r) (cpRows r) (cpRb r) && s.rangeOk a.h (cpDst r) (cpDp r) (cpRows r) (cpRb r) &&
    !(glob (cpSrc r) && !glob (cpDst r) && s.farRange a (cpSrc r) (cpSp r) (cpRows r) (cpRb r)) &&
    !(glob (cpDst r) && !glob (cpSrc r) && s.farRange a (cpDst r) (cpDp r) (cpRows r) (cpRb r))

/-- Some line of a row of a copy lies in its core's side log (R174). -/
def State.rowsLogged (s : State) (a : Acc) (rows : List Nat) (rb : Nat) : Bool :=
  let c := s.core a.h
  (c.slog.any fun e => decide (e.asid = a.asid) && rows.any fun lo => rangeHits lo rb (64 * e.line, 64)) ||
    c.slogHeld.any fun x => decide (x.asid = a.asid) && rows.any fun lo => rangeHits lo rb (x.va / 64 * 64, 64)

/-- A copied range stalls at issue on a dispatched span instruction (R151, R364), or on a line of the side log (R174). -/
def State.copyHeld (s : State) (a : Acc) (r : Nat) : Bool :=
  s.rowsLogged a (rowStarts (cpDst r) (cpDp r) (cpRows r)) (cpRb r) ||
  s.rowsLogged a (rowStarts (cpSrc r) (cpSp r) (cpRows r)) (cpRb r) ||
  ((rowStarts (cpDst r) (cpDp r) (cpRows r)).any fun a => s.dqOwn a (cpRb r) || s.dqReads a (cpRb r)) ||
    (rowStarts (cpSrc r) (cpSp r) (cpRows r)).any fun a => s.dqOwn a (cpRb r)

/-- Bits of the completion map are cleared, in the maps too against which the core's waits look for bits that rise (R328,
R399). -/
def Core.clearTags (c : Core) (m : Word) : Core :=
  { c with
    ctag := c.ctag &&& ~~~m
    ctagErr := c.ctagErr &&& ~~~m
    threads := c.threads.map fun p => (p.1, match p.2.wait with
      | .waitSince t ctag d x past => { p.2 with wait := .waitSince t (ctag &&& ~~~m) d x past }
      | _ => p.2) }

/-- CPY and CPYM once the descriptor is read (R325, R326): a stall keeps what was read. -/
def State.startCopy (s : State) (acc : Acc) (r : Nat) (multi : Bool) : State :=
  if cpSrc r % 4 ≠ 0 ∨ cpDst r % 4 ≠ 0 ∨ cpRb r % 4 ≠ 0 ∨ cpSp r % 4 ≠ 0 ∨ cpDp r % 4 ≠ 0 then s.alignF 0
  else if ¬ s.copyOk acc r multi then s.perm 0
  else if 8 ≤ s.cc.copies.length ∨ (s.cc.copies.any fun c => decide (c.tag = cpTag r)) ∨
      s.slogPending s.curH s.curSlot then
    (s.meetFence fun _ => true).onCur fun t => { t with wait := .desc r }
  else if s.copyHeld acc r then
    (s.meetAt ((rowStarts (cpDst r) (cpDp r) (cpRows r) ++ rowStarts (cpSrc r) (cpSp r) (cpRows r)).map fun a => (a, cpRb r))).onCur
      fun t => { t with wait := .desc r }
  else
    let (s1, id) := s.newId
    let bit : Word := BitVec.ofNat 64 (2 ^ cpTag r)
    let targets := if multi then (List.range (cpMcn r)).map fun i => cpMck r + i else []
    let c : Copy := { id := id, slot := s.curSlot, asid := acc.asid, tenant := acc.tenant, pc := s.cur.pc, clk := s.cc.sclk,
                      src := cpSrc r, dst := cpDst r, rows := cpRows r, rbytes := cpRb r, spitch := cpSp r, dpitch := cpDp r,
                      tag := cpTag r, mcn := cpMcn r, mck := cpMck r, targets := targets }
    let s2 := s1.onCC fun k => { k.clearTags bit with copies := k.copies ++ [c] }
    let s3 := match s.cc.share with
      | some sh => targets.foldl (fun (s : State) k => match s.placeOf sh k with
          | .at h => s.onCoreAt h fun co => { co with mcWait := co.mcWait ++ [id] }
          | .kept i => { s with saved := s.saved.modify i fun v => { v with core := { v.core with mcWait := v.core.mcWait ++ [id] } } }
          | .early _ => s.onLaunch sh.q sh.lhead fun l => { l with earlyMc := l.earlyMc ++ [(k, id)] }
          | .gone _ => s) s2
      | none => s2
    s3.retire 4

/-- CPY and CPYM (R325). The descriptor is read once: a later change to it has no effect. -/
def State.copyOp (s : State) (a : Nat) (multi : Bool) : State :=
  let va := (s.g a).toNat
  let acc := s.accOf va 64 .load
  if va % 64 ≠ 0 then s.alignF va
  else match s.cur.wait with
  | .desc r => s.startCopy acc r multi
  | _ =>
    if ¬ s.accReady ∨ s.dqOwn va 64 then s.meetAt [(va, 64)]
    else match s.accessNow acc with
      | .stall s1 => s1
      | .fault s1 c => s1.kfault c va
      | .ok s1 (.fault (.kernel c _)) => s1.kfault c va
      | .ok s1 (.fault (.user c info)) => s1.utrap c (BitVec.ofNat 64 info)
      | .ok s1 (.value r) => s1.startCopy acc r multi
      | .ok s1 _ => s1

/-- CPY. -/
def execCpy (a : Nat) (s : State) : Out1 := .next (s.copyOp a false)

/-- CPYM. -/
def execCpym (a : Nat) (s : State) : Out1 := .next (s.copyOp a true)

/-- PERMIT (R327). -/
def execPermit (d a b : Nat) (s : State) : Out1 :=
  let w := s.g a
  let off := wbits w 15 0
  let len := wbits w 32 16
  let n := wbits (s.g b) 7 0
  .next (
    if s.cur.openG d then s.lookahead
    else if off % 4 ≠ 0 ∨ len % 4 ≠ 0 then s.alignF 0
    else if len ≠ 0 ∧ (len > 65536 ∨ off + len > 65536) then s.perm 0
    else
      let s1 := s.onCC fun c =>
        if len = 0 then { c with pcount := 0, permit := none }
        else { c with permit := some (off, len), pcount := min (c.pcount + n) 255 }
      (s1.wrG d (BitVec.ofNat 64 s.cc.pcount)).retire 4)

/-! ### The walk of a copy (R326) -/

/-- Where a copy's row stands. -/
inductive RowSt where
  | ok (s : State)
  | hold (s : State) (code addr : Nat)   -- PAGE, or no fault: a moving range, a home that does not take it (code 0)
  | quit (s : State) (code addr : Nat)

/-- A trestle access to a location may be made now: its flit has room and its home runs (R21, R39). -/
def State.engReady (s : State) (loc : Nat) : Bool := (!isRemote loc || s.mayLeave) && s.homeRuns loc

/-- The access of one word of a copy of core `h`, placed; `th` is the core whose local store or deck it means. -/
def State.copyLoc (s : State) (h th : Nat) (c : Copy) (va : Nat) (n : Need) : State × Except Nat Acc :=
  let a : Acc := { h := h, slot := c.slot, asid := c.asid, tenant := c.tenant, pc := c.pc, va := va, size := 4, strong := true,
                   clk := c.clk }
  match spaceOf va with
  | .ls off => (s, .ok { a with loc := lsLoc th off })
  | .deck off => if s.deckOk h off then (s, .ok { a with loc := deckLoc (h / 4) off }) else (s, .error fPERM)
  | .none => (s, .error fPERM)
  | .global => match s.translate h c.asid c.tenant va n with
    | (s1, .error e) => (s1, .error e)
    | (s1, .ok x) => if s1.moving (x.at va) ∨ ¬ s1.engReady (x.at va) then (s1, .error 0) else (s1, .ok (a.placed x))

/-- A source word of a copy (R326): its value, poison, or the fault that abandons the copy. -/
inductive SrcWord where
  | value (v : Nat)
  | poison
  | quit (code : Nat)

/-- The source word read; race detection does not see it (R203). -/
def State.copyRead (s : State) (a : Acc) : State × SrcWord :=
  match s.perform { a with free := true } with
  | (s1, .value v) => (s1, .value v)
  | (s1, .fault (.kernel c _)) => (s1, if c = fPOISON then .poison else .quit c)
  | (s1, _) => (s1, .value 0)

/-- A destination word of a copy written, with its full bit where the memory has one, and its poison mark (R326). -/
def State.copyWrite (s : State) (a : Acc) (v : SrcWord) : State :=
  let put := fun (x : Nat) =>
    (s.perform { a with kind := if isPool a.loc || isRemote a.loc then .store else .stf, data := x }).1
  match v with
  | .value x => put x
  | _ =>
    let s1 := put 0
    if s1.poison.contains (a.loc / 256) then s1 else { s1 with poison := a.loc / 256 :: s1.poison }

/-- A row is written: each granule that it covers whole and wrote no poison into is poisoned no longer (R183). -/
def State.copyCover (s : State) (h : Nat) (c : Copy) (da : Nat) (bads : List Nat) : State :=
  if s.poison = [] then s
  else (List.range (c.rbytes / 256)).foldl (fun s i =>
    let va := (da + 255) / 256 * 256 + 256 * i
    if da + c.rbytes < va + 256 then s
    else match (s.copyLoc h h c va .wr).2 with
      | .ok a => if isHbm a.loc ∧ ¬ bads.contains (a.loc / 256) then s.cover a.loc 256 else s
      | .error _ => s) s

/-- The words of a row from word `i` on; `bads` are the granules that took poison. A clock-exhausted core's copy into a
watched page is abandoned with CLOCKEX (R206; DEDUCED, log 74). -/
def State.copyWords (s : State) (h th : Nat) (c : Copy) (sa da i : Nat) (bads : List Nat) : Nat → RowSt
  | 0 => .ok (s.copyCover h c da bads)
  | n + 1 =>
    let sv := sa + 4 * i
    let dv := da + 4 * i
    match s.copyLoc h h c sv .rd with
    | (s1, .error e) => if e = fPAGE ∨ e = 0 then .hold s1 e sv else .quit s1 e sv
    | (s1, .ok src) =>
      match s1.copyLoc h th c dv .wr with
      | (s2, .error e) => if e = fPAGE ∨ e = 0 then .hold s2 e dv else .quit s2 e dv
      | (s2, .ok dst) =>
        if s2.watchedAt dst.loc ∧ (s2.core h).clkEx = true then .quit s2 fCLOCKEX dv
        else match s2.copyRead src with
        | (s3, .quit e) => .quit s3 e sv
        | (s3, .poison) =>
          if ¬ isHbm dst.loc then .quit s3 fPOISON sv
          else (s3.copyWrite dst .poison).copyWords h th c sa da (i + 1) (dst.loc / 256 :: bads) n
        | (s3, v) => (s3.copyWrite dst v).copyWords h th c sa da (i + 1) bads n

/-- The rows of a copy into one target from row `r` on; the row reached comes back. -/
def State.copyRows (s : State) (h th : Nat) (c : Copy) (r : Nat) : Nat → RowSt × Nat
  | 0 => (.ok s, r)
  | n + 1 =>
    match s.copyWords h th c (c.src + r * c.spitch) (c.dst + r * c.dpitch) 0 [] (c.rbytes / 4) with
    | .ok s1 => s1.copyRows h th c (r + 1) n
    | st => (st, r)

/-- The copy `c` of core `h` replaced. -/
def State.setCopy (s : State) (h : Nat) (c : Copy) : State :=
  s.onCoreAt h fun k => { k with copies := k.copies.map fun x => if x.id = c.id then c else x }

/-- A copy no longer waits at a target. -/
def Core.mcDone (co : Core) (id : Nat) : Core := { co with mcWait := co.mcWait.erase id }

/-- A copy waits at no target any more. -/
def State.mcGone (s : State) (c : Copy) : State :=
  { s with
    cores := s.cores.map fun p => if p.2.mcWait.contains c.id then (p.1, p.2.mcDone c.id) else p
    saved := s.saved.map fun v => { v with core := v.core.mcDone c.id }
    launches := s.launches.map fun l => { l with earlyMc := l.earlyMc.filter fun e => decide (e.2 ≠ c.id) } }

/-- A copy ends: its tag is set, with the error bit when it was abandoned in whole or at a target (R326). -/
def State.copyEnd (s : State) (h : Nat) (c : Copy) : State :=
  let bit : Word := BitVec.ofNat 64 (2 ^ c.tag)
  (if c.mcn = 0 then s else s.mcGone c).onCoreAt h fun k => { k with
    copies := k.copies.filter fun x => decide (x.id ≠ c.id)
    ctag := k.ctag ||| bit
    ctagErr := if c.err then k.ctagErr ||| bit else k.ctagErr }

/-- The fault record of a copy (R326). -/
def State.copyRecord (s : State) (h : Nat) (c : Copy) (code addr : Nat) : State :=
  s.faultRec h { pc := c.pc, addr := addr, code := code, asid := c.asid, tenant := c.tenant, slot := c.slot }

/-- A copy is abandoned with a fault record (R326). -/
def State.copyQuit (s : State) (h : Nat) (c : Copy) (code addr : Nat) : State :=
  (s.copyRecord h c code addr).copyEnd h { c with err := true }

/-- The outcome of a walk that did not finish: held at its row, with one record for each row that holds it, or
abandoned. -/
def State.copyStop (s : State) (h : Nat) (c : Copy) (r : Nat) (hold : Bool) (code addr : Nat) : State :=
  if hold then
    (if code = 0 then s.setCopy h { c with row := r, held := c.held && decide (c.row = r) }
     else if c.held ∧ c.row = r then s.setCopy h c
     else (s.setCopy h { c with row := r, held := true, haddr := addr }).copyRecord h c code addr)
  else s.copyQuit h c code addr

/-- A fault of the thread that waits in an open window keeps copy `c`: an access or a span instruction before it has still to be
performed (R153, R201). -/
def State.copyFaultBefore (s : State) (h : Nat) (c : Copy) : Bool :=
  (s.thr h c.slot).awaits c.id fun e => e.fault.isSome && e.retry.any fun a => decide (a.id < c.id)

/-- A faulted span instruction is one of those: its window is open, or a trap before the copy has saved it. -/
def State.copyAwaits (s : State) (h : Nat) (c : Copy) (d : DqEntry) : Bool :=
  !d.faulted || (s.thr h c.slot).awaits c.id fun e => decide (e.id = d.ent)

/-- Every earlier access of the thread is performed at its home, those of its span instructions and those that have faulted
too (R201). The issuing die runs (R21). -/
def State.copyReady (s : State) (h : Nat) (c : Copy) : Bool :=
  !(s.core h).quiesce && (s.core h).replay.isEmpty && !s.poolStopped h c.slot && decide (s.relocking ≠ some (dieOf h)) &&
  !s.copyFaultBefore h c &&
  (s.accs.all fun a => decide (a.h ≠ h ∨ a.slot ≠ c.slot ∨ c.id ≤ a.id) ||
    (match a.st with | .performed _ => true | _ => false)) &&
  (s.core h).dq.all fun d => decide (d.slot ≠ c.slot ∨ c.id ≤ d.id) || !s.copyAwaits h c d

/-- What a target's permit says to a copy at the head of its waiting copies (R327). -/
inductive Permit where
  | wait
  | take (h : Nat)
  | refuse (h : Nat)
  deriving DecidableEq, Repr

def State.permitAt (s : State) (c : Copy) (sh : Share) (k : Nat) : Permit :=
  match s.placeOf sh k with
  | .at th =>
    let co := s.core th
    if co.mcWait.head? ≠ some c.id then .wait
    else if c.took then .take th  -- the target that it is held at, which comes first
    else if co.pcount = 0 then .wait
    else match co.permit with
      | some (off, len) =>
        let lo := c.dst % 65536
        if off ≤ lo ∧ lo + (c.rows - 1) * c.dpitch + c.rbytes ≤ off + len then .take th else .refuse th
      | none => .refuse th
  | _ => .wait

/-- The targets of a multicast copy, one after the other; the copy comes back with those that still wait (R327). A copy
held at a row of a target, whose count it has taken, goes on there first. -/
def State.copyTargets (s : State) (h : Nat) (c : Copy) (sh : Share) : List Nat → State × Copy × Bool
  | [] => (s, c, true)
  | k :: rest =>
    match s.permitAt c sh k with
    | .wait => if c.took then (s, c, true) else s.copyTargets h c sh rest
    | .refuse th =>
      (s.onCoreAt th fun co => co.mcDone c.id).copyTargets h { c with err := true, targets := c.targets.erase k } sh rest
    | .take th =>
      let s1 := if c.took then s else s.onCoreAt th fun co => { co with pcount := co.pcount - 1 }
      match s1.copyRows h th c c.row (c.rows - c.row) with
      | (.ok s2, _) =>
        (s2.onCoreAt th fun co => co.mcDone c.id).copyTargets h
          { c with targets := c.targets.erase k, row := 0, held := false, took := false } sh rest
      | (.hold s2 e va, r) => (s2.copyStop h { c with targets := k :: c.targets.erase k, took := true } r true e va, c, false)
      | (.quit s2 e va, r) => (s2.copyStop h c r false e va, c, false)

/-- A copy walks as far as it can and, once every word is written, ends (R326). -/
def State.copyWalk (s : State) (h : Nat) (c : Copy) : State :=
  if ¬ s.copyReady h c then s
  else if c.mcn = 0 then
    match s.copyRows h h c c.row (c.rows - c.row) with
    | (.ok s1, _) => s1.copyEnd h c
    | (.hold s1 e va, r) => s1.copyStop h c r true e va
    | (.quit s1 e va, r) => s1.copyStop h c r false e va
  else match (s.core h).share with
    | none => s
    | some sh =>
      match s.copyTargets h c sh c.targets with
      | (s1, c1, true) => if c1.targets = [] then s1.copyEnd h c1 else s1.setCopy h c1
      | (s1, _, false) => s1

/-- COPY_COMPLETE [h, tag]. -/
def execCopyComplete (s : State) : Out1 :=
  let h := s.param 0
  .next (match (s.core h).copies.find? fun c => decide (c.tag = s.param 1) with
    | some c => s.copyWalk h c
    | none => s)

/-- The copies that a fault holds are abandoned, each with its record (R326). -/
def State.abandonHeld (s : State) (h : Nat) : State :=
  ((s.core h).copies.filter fun c => c.held).foldl (fun s c => s.copyQuit h c fPAGE c.haddr) s

/-- SLOG_DISCARD [h]: a write of DISCARD to `SLOG.CMD` (R175, R326). -/
def State.slogDiscard (s : State) (h : Nat) : State := (s.onCoreAt h fun c => c.slogDiscard).abandonHeld h

def execSlogDiscard (s : State) : Out1 := .next (s.slogDiscard (s.param 0))

/-! ### Completion tags (R328) -/

/-- A copy of the thread that CTWAIT waits for waits in turn for a fault of the same thread: the window of the fault closes at
the CTWAIT, since nothing else would close it (R153, R201; DEDUCED, log 72). -/
def State.meetCopies (s : State) (m : Word) : State :=
  if s.cc.copies.any fun c => decide (c.slot = s.curSlot) && m.getLsbD c.tag then s.meetFence fun _ => true else s

/-- CTWAIT. Every word of the copies is performed when their bits read 1, so the acquire waits for nothing more. -/
def State.ctwait (s : State) (d a : Nat) (all : Bool) : State :=
  let m := s.g a
  let v := s.cc.ctag &&& m
  if s.cur.openG d then s.lookahead
  else if m = 0 ∨ (if all then v = m else v ≠ 0) then (s.wrG d v).retire 4
  else s.meetCopies m

def execCtwait (d a : Nat) (s : State) : Out1 := .next (s.ctwait d a false)

/-- CTWAIT.all. -/
def execCtwaitAll (d a : Nat) (s : State) : Out1 := .next (s.ctwait d a true)

/-- CTFF. -/
def execCtff (d a : Nat) (s : State) : Out1 :=
  .next (s.wrNext d 4 (BitVec.ofNat 64 (ctzN (s.cc.ctag &&& s.g a).toNat 0 64)))

/-- CTCLR. -/
def execCtclr (a : Nat) (s : State) : Out1 :=
  .next ((s.onCC fun c => c.clearTags (s.g a)).retire 4)

end Sys2Proof.Machine
end

