-- ==== Sys2Proof/Machine/Vector.lean ====
section
/-! DEFINITION. Vector integer, predicate and vector memory instructions (16_vector), with the 16-bit integer forms
(R246, R247). -/

namespace Sys2Proof.Machine

/-! ### Lanes -/

/-- VL (R329). -/
def vl : Nat := 256

/-- Lane size of a type code (R329). -/
def laneSize (t : Nat) : Nat := 2 ^ t

/-- Lane `i` of `s` bytes of a register's bits. -/
def lane (v s i : Nat) : Nat := v / 2 ^ (8 * s * i) % 2 ^ (8 * s)

/-- A register from its lanes `i`, `i + 1`, … of `s` bytes. -/
def buildLanes (s : Nat) (f : Nat → Nat) : Nat → Nat → Nat
  | _, 0 => 0
  | i, n + 1 => f i % 2 ^ (8 * s) + 2 ^ (8 * s) * buildLanes s f (i + 1) n

/-- Lane `i` is active under a governing predicate's bits (R330). -/
def active (p s i : Nat) : Bool := p.testBit (i * s)

/-- A vector result: active lanes from `f`, inactive ones from the old value or 0 (R330). -/
def lanesWith (s n p z old : Nat) (f : Nat → Nat) : Nat :=
  buildLanes s (fun i => if active p s i then f i else if z = 1 then 0 else lane old s i) 0 n

/-- A predicate from its lanes: all `s` bits of each (R330). -/
def buildPred (s : Nat) (f : Nat → Bool) : Nat → Nat → Nat
  | _, 0 => 0
  | i, n + 1 => (if f i then 2 ^ s - 1 else 0) + 2 ^ s * buildPred s f (i + 1) n

/-- A predicate result under a governing predicate: an inactive lane keeps each of its old bits, or all are 0 (R330). -/
def predWith (s n p z old : Nat) (f : Nat → Bool) : Nat :=
  buildPred 1 (fun j => if active p s (j / s) then f (j / s) else if z = 1 then false else old.testBit j) 0 (n * s)

/-- Bits of a vector, predicate or governing predicate register of the issuing thread. -/
def State.vb (s : State) (n : Nat) : Nat := (s.cur.rdV n).toNat
def State.pb (s : State) (n : Nat) : Nat := (s.cur.rdP n).toNat
def State.gb (s : State) (n : Nat) : Nat := (s.cur.gov n).toNat

/-! ### Shapes -/

/-- A vector register written at issue (R331). -/
def State.wrVNext (s : State) (d len x : Nat) : State :=
  if s.cur.openV d then s.lookahead
  else (s.onCur fun t => t.wrV d (BitVec.ofNat 2048 x)).retire len

/-- A predicate written at issue; a write to p0 is discarded (R330). -/
def State.wrPNext (s : State) (d len x : Nat) : State :=
  (if d = 0 then s else s.onCur fun t => t.wrP d (BitVec.ofNat 256 x)).retire len

/-- A lane operation on va and vb (R333, R334). -/
def State.laneOp (s : State) (d a b p z t len : Nat) (f : Nat → Nat → Nat → Nat) : State :=
  let n := laneSize t
  s.wrVNext d len (lanesWith n (vl / n) (s.gb p) z (s.vb d) fun i => f (8 * n) (lane (s.vb a) n i) (lane (s.vb b) n i))

/-- A lane comparison into a predicate (R334). -/
def State.laneCmp (s : State) (d a b p z t : Nat) (f : Nat → Nat → Nat → Bool) : State :=
  let n := laneSize t
  s.wrPNext d 4 (predWith n (vl / n) (s.gb p) z (s.pb d) fun i => f (8 * n) (lane (s.vb a) n i) (lane (s.vb b) n i))

/-! ### Lane functions (R333, R334): width, x, y -/

def fMov (_ _ y : Nat) : Nat := y
def fAdd (_ x y : Nat) : Nat := x + y
def fSub (w x y : Nat) : Nat := x + 2 ^ w - y
def fMul (_ x y : Nat) : Nat := x * y
def fMulh (w x y : Nat) : Nat := unsgn w ((sgn w x * sgn w y) / (2 ^ w : Nat))
def fMulhU (w x y : Nat) : Nat := x * y / 2 ^ w
def fMin (w x y : Nat) : Nat := if sgn w x ≤ sgn w y then x else y
def fMax (w x y : Nat) : Nat := if sgn w x ≤ sgn w y then y else x
def fMinU (_ x y : Nat) : Nat := min x y
def fMaxU (_ x y : Nat) : Nat := max x y
def fAddSat (w x y : Nat) : Nat := unsgn w (satS w (sgn w x + sgn w y))
def fSubSat (w x y : Nat) : Nat := unsgn w (satS w (sgn w x - sgn w y))
def fAnd (_ x y : Nat) : Nat := x &&& y
def fOr (_ x y : Nat) : Nat := x ||| y
def fXor (_ x y : Nat) : Nat := x ^^^ y
def fShl (w x y : Nat) : Nat := x * 2 ^ (y % w)
def fShr (w x y : Nat) : Nat := x / 2 ^ (y % w)
def fSar (w x y : Nat) : Nat := unsgn w (sgn w x / (2 ^ (y % w) : Nat))
def fAbs (w x _ : Nat) : Nat := (sgn w x).natAbs
def fAbsSat (w x _ : Nat) : Nat := unsgn w (satS w (sgn w x).natAbs)

/-! ### Major 0x20 (R333) -/

/-- VMOV. -/
def execVmov (d _x b p z t : Nat) (s : State) : Out1 := .next (s.laneOp d b b p z t 4 fMov)
/-- VADD. -/
def execVadd (d a b p z t : Nat) (s : State) : Out1 := .next (s.laneOp d a b p z t 4 fAdd)
/-- VSUB. -/
def execVsub (d a b p z t : Nat) (s : State) : Out1 := .next (s.laneOp d a b p z t 4 fSub)
/-- VMUL. -/
def execVmul (d a b p z t : Nat) (s : State) : Out1 := .next (s.laneOp d a b p z t 4 fMul)
/-- VMULH. -/
def execVmulh (d a b p z t : Nat) (s : State) : Out1 := .next (s.laneOp d a b p z t 4 fMulh)
/-- VMULH.u. -/
def execVmulhU (d a b p z t : Nat) (s : State) : Out1 := .next (s.laneOp d a b p z t 4 fMulhU)
/-- VMIN. -/
def execVmin (d a b p z t : Nat) (s : State) : Out1 := .next (s.laneOp d a b p z t 4 fMin)
/-- VMAX. -/
def execVmax (d a b p z t : Nat) (s : State) : Out1 := .next (s.laneOp d a b p z t 4 fMax)
/-- VMIN.u. -/
def execVminU (d a b p z t : Nat) (s : State) : Out1 := .next (s.laneOp d a b p z t 4 fMinU)
/-- VMAX.u. -/
def execVmaxU (d a b p z t : Nat) (s : State) : Out1 := .next (s.laneOp d a b p z t 4 fMaxU)
/-- VADD.sat. -/
def execVaddSat (d a b p z t : Nat) (s : State) : Out1 := .next (s.laneOp d a b p z t 4 fAddSat)
/-- VSUB.sat. -/
def execVsubSat (d a b p z t : Nat) (s : State) : Out1 := .next (s.laneOp d a b p z t 4 fSubSat)
/-- VAND. -/
def execVand (d a b p z t : Nat) (s : State) : Out1 := .next (s.laneOp d a b p z t 4 fAnd)
/-- VOR. -/
def execVor (d a b p z t : Nat) (s : State) : Out1 := .next (s.laneOp d a b p z t 4 fOr)
/-- VXOR. -/
def execVxor (d a b p z t : Nat) (s : State) : Out1 := .next (s.laneOp d a b p z t 4 fXor)

/-! ### Major 0x21 (R334) -/

/-- VSHL. -/
def execVshl (d a b p z t : Nat) (s : State) : Out1 := .next (s.laneOp d a b p z t 4 fShl)
/-- VSHR. -/
def execVshr (d a b p z t : Nat) (s : State) : Out1 := .next (s.laneOp d a b p z t 4 fShr)
/-- VSAR. -/
def execVsar (d a b p z t : Nat) (s : State) : Out1 := .next (s.laneOp d a b p z t 4 fSar)
/-- VABS. -/
def execVabs (d a p z t : Nat) (s : State) : Out1 := .next (s.laneOp d a a p z t 4 fAbs)
/-- VABS.sat. -/
def execVabsSat (d a p z t : Nat) (s : State) : Out1 := .next (s.laneOp d a a p z t 4 fAbsSat)
/-- VCMP.eq. -/
def execVcmpEq (d a b p z t : Nat) (s : State) : Out1 := .next (s.laneCmp d a b p z t fun _ x y => x == y)
/-- VCMP.ne. -/
def execVcmpNe (d a b p z t : Nat) (s : State) : Out1 := .next (s.laneCmp d a b p z t fun _ x y => x != y)
/-- VCMP.lt. -/
def execVcmpLt (d a b p z t : Nat) (s : State) : Out1 :=
  .next (s.laneCmp d a b p z t fun w x y => decide (sgn w x < sgn w y))
/-- VCMP.ge. -/
def execVcmpGe (d a b p z t : Nat) (s : State) : Out1 :=
  .next (s.laneCmp d a b p z t fun w x y => decide (sgn w y ≤ sgn w x))
/-- VCMP.ltu. -/
def execVcmpLtu (d a b p z t : Nat) (s : State) : Out1 := .next (s.laneCmp d a b p z t fun _ x y => decide (x < y))
/-- VCMP.geu. -/
def execVcmpGeu (d a b p z t : Nat) (s : State) : Out1 := .next (s.laneCmp d a b p z t fun _ x y => decide (y ≤ x))
/-- VSEL: every lane is written, from va where pg is active and from vb elsewhere. -/
def execVsel (d a b p t : Nat) (s : State) : Out1 :=
  let n := laneSize t
  .next (s.wrVNext d 4 (buildLanes n (fun i => if active (s.gb p) n i then lane (s.vb a) n i else lane (s.vb b) n i) 0 (vl / n)))

/-! ### Major 0x22 (R335) -/

/-- PAND. -/
def execPand (d a b : Nat) (s : State) : Out1 := .next (s.wrPNext d 4 (s.gb a &&& s.gb b))
/-- POR. -/
def execPor (d a b : Nat) (s : State) : Out1 := .next (s.wrPNext d 4 (s.gb a ||| s.gb b))
/-- PXOR. -/
def execPxor (d a b : Nat) (s : State) : Out1 := .next (s.wrPNext d 4 (s.gb a ^^^ s.gb b))
/-- PNOT. -/
def execPnot (d a : Nat) (s : State) : Out1 := .next (s.wrPNext d 4 (s.gb a ^^^ (2 ^ 256 - 1)))
/-- PFIRST. -/
def execPfirst (d a t : Nat) (s : State) : Out1 :=
  let n := laneSize t
  let f := firstBelow (vl / n) fun i => active (s.gb a) n i
  .next (s.wrPNext d 4 (buildPred n (fun i => decide (some i = f)) 0 (vl / n)))
/-- PCNT. -/
def execPcnt (d a t : Nat) (s : State) : Out1 :=
  let n := laneSize t
  .next (s.wrNext d 4 (BitVec.ofNat 64 ((List.range (vl / n)).filter fun i => active (s.gb a) n i).length))
/-- VQLEN. -/
def execVqlen (d : Nat) (s : State) : Out1 := .next (s.wrNext d 4 (BitVec.ofNat 64 vl))
/-- VBOUND: the sum does not wrap. -/
def execVbound (d a b t : Nat) (s : State) : Out1 :=
  let n := laneSize t
  .next (s.wrPNext d 4 (buildPred n (fun i => decide ((s.g a).toNat + i < (s.g b).toNat)) 0 (vl / n)))

/-! ### Major 0x23 (R336) -/

/-- VBCAST. -/
def execVbcast (d a p z t : Nat) (s : State) : Out1 :=
  let n := laneSize t
  .next (s.wrVNext d 4 (lanesWith n (vl / n) (s.gb p) z (s.vb d) fun _ => (s.g a).toNat))

/-- The lane that VEXT reads: 0 where the index is out of range. -/
def State.extLane (s : State) (a b t : Nat) : Nat :=
  let n := laneSize t
  let k := (s.g b).toNat
  if k < vl / n then lane (s.vb a) n k else 0

/-- VEXT. -/
def execVext (d a b t : Nat) (s : State) : Out1 := .next (s.wrNext d 4 (zx (8 * laneSize t) (s.extLane a b t)))
/-- VEXT.sx. -/
def execVextSx (d a b t : Nat) (s : State) : Out1 := .next (s.wrNext d 4 (sx (8 * laneSize t) (s.extLane a b t)))
/-- VINS: other lanes unchanged. -/
def execVins (d a b t : Nat) (s : State) : Out1 :=
  let n := laneSize t
  .next (s.wrVNext d 4 (buildLanes n (fun i => if i = (s.g b).toNat then (s.g a).toNat else lane (s.vb d) n i) 0 (vl / n)))

/-! ### VPERM, VRED, VSCAN (R337, R338) -/

/-- VPERM. -/
def execVperm (d a b p z t : Nat) (s : State) : Out1 :=
  let n := laneSize t
  .next (s.wrVNext d 4 (lanesWith n (vl / n) (s.gb p) z (s.vb d) fun i =>
    let k := lane (s.vb b) n i
    if k < vl / n then lane (s.vb a) n k else 0))

/-- Identity of a reduction operation at a width (R338). -/
def redId (op w : Nat) : Nat :=
  match op with
  | 1 => 2 ^ (w - 1) - 1
  | 2 => 2 ^ (w - 1)
  | 3 => 2 ^ w - 1
  | 5 => 2 ^ w - 1
  | _ => 0

/-- A reduction operation (R338). -/
def redOp (op w x y : Nat) : Nat :=
  match op with
  | 0 => (x + y) % 2 ^ w
  | 1 => fMin w x y
  | 2 => fMax w x y
  | 3 => min x y
  | 4 => max x y
  | 5 => x &&& y
  | 6 => x ||| y
  | _ => x ^^^ y

/-- The running value of a reduction over the active lanes up to but not at `n`. -/
def redUpTo (op s p v : Nat) : Nat → Nat
  | 0 => redId op (8 * s)
  | n + 1 => if active p s n then redOp op (8 * s) (redUpTo op s p v n) (lane v s n) else redUpTo op s p v n

/-- VRED. -/
def execVred (d a p t op : Nat) (s : State) : Out1 :=
  let n := laneSize t
  let r := redUpTo op n (s.gb p) (s.vb a) (vl / n)
  .next (s.wrNext d 4 (if op ≤ 2 then sx (8 * n) r else zx (8 * n) r))

/-- The lanes of a scan from lane `i` on with the running value `acc`. -/
def scanFrom (op s p z v old : Nat) : Nat → Nat → Nat → Nat
  | _, _, 0 => 0
  | i, acc, n + 1 =>
    let acc1 := if active p s i then redOp op (8 * s) acc (lane v s i) else acc
    (if active p s i then acc1 else if z = 1 then 0 else lane old s i) + 2 ^ (8 * s) * scanFrom op s p z v old (i + 1) acc1 n

/-- VSCAN. -/
def execVscan (d a p z t op : Nat) (s : State) : Out1 :=
  let n := laneSize t
  .next (s.wrVNext d 4 (scanFrom op n (s.gb p) z (s.vb a) (s.vb d) 0 (redId op (8 * n)) (vl / n)))

/-! ### Vector memory (R339–R343) -/

/-- Active elements of a vector access: lane and address (R340). -/
def elements (s p : Nat) (addr : Nat → Word) : List (Nat × Nat) :=
  ((List.range (vl / s)).filter fun i => active p s i).map fun i => (i, (addr i).toNat)

/-- The lowest address at which a check of R341 fails. -/
def lowestBad (es : List (Nat × Nat)) (bad : Nat → Bool) : Option Nat :=
  (es.filter fun e => bad e.2).foldl (fun m e => match m with
    | none => some e.2
    | some a => some (min a e.2)) none

/-- An element lies where R161 or R94 raises PERM. -/
def State.badSpace (s : State) (a : Nat) : Bool :=
  match spaceOf a with
  | .none => true
  | .deck off => !s.deckOk s.curH off
  | _ => false

/-- The checks of R341, then `f`. -/
def State.vecChecks (s : State) (n : Nat) (es : List (Nat × Nat)) (f : State) : State :=
  match lowestBad es fun a => decide (a % n ≠ 0) with
  | some a => s.alignF a
  | none => match lowestBad es s.badSpace with
    | some a => s.perm a
    | none => f

/-- A vector load (R342): one access for each active element. -/
def State.vecLoad (s : State) (d z t la p : Nat) (addr : Nat → Word) : State :=
  let n := laneSize t
  let es := elements n (s.gb p) addr
  if s.cur.openV d then s.lookahead
  else s.vecChecks n es (
    let accs := es.map fun e => { s.accOf e.2 n .load with lane := 8 * n * e.1 }
    if s.cur.full then s
    else if ¬ s.accReady ∨ accs.any s.loadHeld then s.meetAt (accs.map fun a => (a.va, a.size))
    else match accs.find? s.exhausted with
      | some a => s.kfault fCLOCKEX a.va
      | none =>
        if s.acqDue s.curH s.curSlot ∧ accs.any s.watched then s else
        let (s0, nums) := s.numbered accs
        let e : Pend := { dest := .vector d, field := d, kind := 1, value := if z = 1 then 0 else s.vb d,
                          missing := es.length, retry := nums }
        let (s1, ent) := s0.pruneAcq.alloc e la
        (nums.foldl (fun s a => s.sendAcc { a with ent := ent }) s1).retire 4)

/-- VLD. -/
def execVld (d a p z t la : Nat) (s : State) : Out1 :=
  .next (s.vecLoad d z t la p fun i => s.g a + BitVec.ofNat 64 (i * laneSize t))

/-- VLDS: the stride is in the register after the base. -/
def execVlds (d a p z t la : Nat) (s : State) : Out1 :=
  .next (s.vecLoad d z t la p fun i => s.g a + BitVec.ofNat 64 i * s.g (a + 1))

/-- Address of an indexed element: the index lane sign-extended and scaled. -/
def State.indexed (s : State) (a b t : Nat) (i : Nat) : Word :=
  let n := laneSize t
  s.g a + sx (8 * n) (lane (s.vb b) n i) * BitVec.ofNat 64 n

/-- VGATH. -/
def execVgath (d a b p z t la : Nat) (s : State) : Out1 := .next (s.vecLoad d z t la p (s.indexed a b t))

/-- Translations of a store's elements that lie in no local store or own deck: each access with its location and the fault of
its line, PERM outside every space or in another partition's deck share (R304, R361), PAGE for a moving page (R182; log 24). -/
def State.xlAll (s : State) : List Acc → State × List (Acc × Option Nat)
  | [] => (s, [])
  | a :: t =>
    if s.badSpace a.va then (let (s1, r) := s.xlAll t; (s1, (a, some fPERM) :: r)) else
    match s.translate a.h a.asid a.tenant a.va .wr with
    | (s1, .error c) => let (s2, r) := s1.xlAll t; (s2, (a, some c) :: r)
    | (s1, .ok x) =>
      let y := a.placed x
      let (s2, r) := s1.xlAll t
      (s2, (y, if s1.moving y.loc then some fPAGE else none) :: r)

/-- The distinct lines of a list of accesses, in order, each with its first fault. -/
def faultLines : List (Acc × Option Nat) → List (Nat × Nat × Nat)
  | [] => []
  | (a, some c) :: t =>
    let r := (faultLines t).filter fun l => decide (l.1 ≠ a.va / 64)
    (a.va / 64, c, a.va) :: r
  | (_, none) :: t => faultLines t

/-- Fault records for faulting lines (R343). -/
def State.lineRecords (s : State) (a : Acc) (ls : List (Nat × Nat × Nat)) : State :=
  ls.foldl (fun s l =>
    s.faultRec a.h { pc := a.pc, addr := l.2.2, code := l.2.1, asid := a.asid, tenant := a.tenant, slot := a.slot }) s

/-- Lines of the held store whose records are sent. -/
def Wait.lines : Wait → List Nat
  | .recorded ls => ls
  | _ => []

/-- Every byte of a granule of virtual addresses is written by one of the accesses (R183). -/
def coversGranule (accs : List Acc) (g : Nat) : Bool :=
  (List.range 256).all fun i => accs.any fun a => decide (a.va ≤ 256 * g + i ∧ 256 * g + i < a.va + a.size)

/-- The accesses of a vector or identifier store, accepted whole (R343): local ones performed, checked ones performed
after every check, the rest sent, and each faulting line one side-log entry, with one record for each. -/
def State.storeAll (s : State) (accs : List Acc) : Stored :=
  match accs with
  | [] => .done s
  | a0 :: _ =>
    if accs.any s.storeHeld then .stall (s.meetAt (accs.map fun a => (a.va, a.size)))
    else
      let glob := (accs.filter fun a => decide (spaceOf a.va = .global) || s.badSpace a.va).map fun a =>
        { a with whole := !s.poison.isEmpty && coversGranule accs (a.va / 256) }
      let (s1, xs) := s.xlAll glob
      let fl := faultLines xs
      let c := s1.cc
      let free := if c.slogHeld.isEmpty then 32 - c.slog.length else 0
      let told := s.cur.wait.lines
      let new := fl.filter fun l => !told.contains l.1
      if free < fl.length then
        .stall ((s1.lineRecords a0 new).onCur fun t => { t with wait := .recorded (told ++ new.map Prod.fst) })
      else
        let isBad := fun (a : Acc) => fl.any fun l => decide (l.1 = a.va / 64)
        let good := (xs.filter fun x => !isBad x.1).map Prod.fst
        let wat := good.filter fun a => s1.watchedAt a.loc
        if c.clkEx ∧ wat ≠ [] then .trap (s1.kfault fCLOCKEX (wat.headD a0).va)
        else if wat.any fun a => !s1.nowReady a then .stall s1
        else match wat.find? fun a => (s1.raceStep a).2 with
          | some a => .trap (s1.utrap 10 (BitVec.ofNat 64 a.va))
          | none =>
            let loc := fun (s : State) (a : Acc) => match spaceOf a.va with
              | .ls off => (s.perform { a with loc := lsLoc a.h off }).1
              | .deck off => if s.deckOk a.h off then (s.perform { a with loc := deckLoc (a.h / 4) off }).1 else s
              | _ => s
            let s2 := accs.foldl loc s1
            let s3 := good.foldl (fun (s : State) a =>
              if s1.watchedAt a.loc then ((s.passNow (dieOf a.h)).perform a).1
              else let (s4, id) := s.newId; { s4 with accs := s4.accs ++ [{ a with id := id }] }) s2
            .done (fl.foldl (fun (s : State) l =>
              let e : SlogEntry := { slot := a0.slot, asid := a0.asid, tenant := a0.tenant, line := l.1,
                                     accs := (xs.filter fun x => decide (x.1.va / 64 = l.1)).map Prod.fst }
              s.onCC fun c => { c with slog := c.slog ++ [e] }) (s3.lineRecords a0 new))

/-- A vector store of register `d` (R343). -/
def State.vecStore (s : State) (d t p : Nat) (addr : Nat → Word) : State :=
  let n := laneSize t
  let es := elements n (s.gb p) addr
  s.vecChecks n es (
    if ¬ s.accReady then s.meetAcq.meet DqEntry.isRev
    else (s.pruneAcq.storeAll (es.map fun e => { s.accOf e.2 n .store with data := lane (s.vb d) n e.1 })).finish)

/-- VST. -/
def execVst (d a p t : Nat) (s : State) : Out1 :=
  .next (s.vecStore d t p fun i => s.g a + BitVec.ofNat 64 (i * laneSize t))

/-- VSTS. -/
def execVsts (d a b p t : Nat) (s : State) : Out1 :=
  .next (s.vecStore d t p fun i => s.g a + BitVec.ofNat 64 i * s.g b)

/-- VSCAT. -/
def execVscat (d a b p t : Nat) (s : State) : Out1 := .next (s.vecStore d t p (s.indexed a b t))

/-! ### 16-bit forms (R247): va = vd, pg = p1 when g = 1, merging -/

/-- VMOV: lane type 0. -/
def execVmov16 (d sv g : Nat) (s : State) : Out1 := .next (s.laneOp d d sv g 0 0 2 fMov)
/-- VADD. -/
def execVadd16 (d sv g : Nat) (s : State) : Out1 := .next (s.laneOp d d sv g 0 2 2 fAdd)
/-- VSUB. -/
def execVsub16 (d sv g : Nat) (s : State) : Out1 := .next (s.laneOp d d sv g 0 2 2 fSub)
/-- VMUL. -/
def execVmul16 (d sv g : Nat) (s : State) : Out1 := .next (s.laneOp d d sv g 0 2 2 fMul)
/-- VAND. -/
def execVand16 (d sv g : Nat) (s : State) : Out1 := .next (s.laneOp d d sv g 0 2 2 fAnd)
/-- VOR. -/
def execVor16 (d sv g : Nat) (s : State) : Out1 := .next (s.laneOp d d sv g 0 2 2 fOr)
/-- VXOR. -/
def execVxor16 (d sv g : Nat) (s : State) : Out1 := .next (s.laneOp d d sv g 0 2 2 fXor)
/-- VMIN. -/
def execVmin16 (d sv g : Nat) (s : State) : Out1 := .next (s.laneOp d d sv g 0 2 2 fMin)
/-- VMAX. -/
def execVmax16 (d sv g : Nat) (s : State) : Out1 := .next (s.laneOp d d sv g 0 2 2 fMax)
/-- VSHL. -/
def execVshl16 (d sv g : Nat) (s : State) : Out1 := .next (s.laneOp d d sv g 0 2 2 fShl)
/-- VSAR. -/
def execVsar16 (d sv g : Nat) (s : State) : Out1 := .next (s.laneOp d d sv g 0 2 2 fSar)

end Sys2Proof.Machine
end

