-- ==== Sys2Proof/Machine/VectorFp.lean ====
section
/-! DEFINITION. Vector floating point, conversion, packed dot products, carry-less products and special functions
(17_vector_fp), with the 16-bit floating-point forms (R247). Majors 0x24 to 0x27 go into the core's dispatch queue with
what they captured (R344); the span gives them their results. -/

namespace Sys2Proof.Machine

/-- Lane format of a type code (R346). -/
def fmtOf (t : Nat) : Fmt := if t = 0 then bf16 else if t = 1 then fp16 else fp32

/-- Lane size of a format in bytes. -/
def Fmt.bytes (f : Fmt) : Nat := f.width / 8

/-- The core's dispatch queue is full (R136). -/
def State.dqFull (s : State) : Bool := decide (8 ≤ s.cc.dq.length)

/-- The entry of an instruction without memory operands, with what it captured (R344). -/
def State.vecEntry (s : State) (id ent : Nat) (i : Instr) (args : List Nat) : DqEntry :=
  { id := id, slot := s.curSlot, ent := ent, i := i, args := args, nxm := s.cc.nxm, pc := s.cur.pc }

/-- An instruction of majors 0x24 to 0x26 (R344): LOOKAHEAD where its destination is a vector register with an open window,
a stall while the core's dispatch queue is full, and the dispatch of what it captured. -/
def State.spanV (s : State) (dst : Option Nat) (len : Nat) (i : Instr) (args : List Nat) : State :=
  if (match dst with | some d => s.cur.openV d | none => false) = true then s.lookahead
  else if s.dqFull then s
  else
    let (s1, id) := s.newId
    (s1.onCC fun c => { c with dq := c.dq ++ [s.vecEntry id 0 i args] }).retire len

/-- What such an instruction captures: its two sources, its destination's old value, the governing predicate and g7. -/
def State.fpArgs (s : State) (a b old p : Nat) : List Nat := [s.vb a, s.vb b, old, s.gb p, (s.g 7).toNat]

/-- A floating-point lane operation (R347, R348). -/
def State.fpOp (s : State) (i : Instr) (d a b p len : Nat) : State := s.spanV (some d) len i (s.fpArgs a b (s.vb d) p)

/-- A floating-point comparison into a predicate (R348). -/
def State.fpCmp (s : State) (i : Instr) (d a b p : Nat) : State := s.spanV none 4 i (s.fpArgs a b (s.pb d) p)

/-- The result of a lane operation on captured values. -/
def fpVal (t z : Nat) (f : Fmt → Nat → Nat → Nat → Nat) (x : List Nat) : Nat :=
  let fm := fmtOf t
  let n := fm.bytes
  lanesWith n (vl / n) (x.getD 3 0) z (x.getD 2 0) fun i =>
    f fm (lane (x.getD 0 0) n i) (lane (x.getD 1 0) n i) (lane (x.getD 2 0) n i)

/-- The result of a comparison on captured values. -/
def fpCmpVal (t z : Nat) (f : FVal → FVal → Bool) (x : List Nat) : Nat :=
  let fm := fmtOf t
  let n := fm.bytes
  predWith n (vl / n) (x.getD 3 0) z (x.getD 2 0) fun i =>
    f (fm.read (lane (x.getD 0 0) n i)) (fm.read (lane (x.getD 1 0) n i))

def ffAdd (f : Fmt) (x y _ : Nat) : Nat := f.round .rne false ((f.read x).add (f.read y))
def ffSub (f : Fmt) (x y _ : Nat) : Nat := f.round .rne false ((f.read x).add (f.read y).neg)
def ffMul (f : Fmt) (x y _ : Nat) : Nat := f.round .rne false ((f.read x).mul (f.read y))

/-- VFMA with its negations (R347). -/
def ffMa (np na : Bool) (f : Fmt) (x y z : Nat) : Nat :=
  let p := (f.read x).mul (f.read y)
  let q := f.read z
  f.round .rne false ((if np then p.neg else p).add (if na then q.neg else q))

/-- The place of a code in the order with −0 below +0 (R348). -/
def fpKey (f : Fmt) (c : Nat) : Int :=
  if c.testBit (f.ew + f.mw) then -((c % f.signBit : Nat) : Int) - 1 else (c : Int)

/-- VFMIN and VFMAX on codes, passed through unchanged (R348). -/
def ffMinMax (big : Bool) (f : Fmt) (x y _ : Nat) : Nat :=
  match (f.read x).isNan, (f.read y).isNan with
  | true, true => f.nanCode
  | true, false => y
  | false, true => x
  | false, false => if (fpKey f x ≤ fpKey f y) = (big = false) then x else y

/-- VFADD. -/
def execVfadd (d a b p z t : Nat) (s : State) : Out1 := .next (s.fpOp (.vfadd d a b p z t) d a b p 4)
/-- VFSUB. -/
def execVfsub (d a b p z t : Nat) (s : State) : Out1 := .next (s.fpOp (.vfsub d a b p z t) d a b p 4)
/-- VFMUL. -/
def execVfmul (d a b p z t : Nat) (s : State) : Out1 := .next (s.fpOp (.vfmul d a b p z t) d a b p 4)
/-- VFMIN. -/
def execVfmin (d a b p z t : Nat) (s : State) : Out1 := .next (s.fpOp (.vfmin d a b p z t) d a b p 4)
/-- VFMAX. -/
def execVfmax (d a b p z t : Nat) (s : State) : Out1 := .next (s.fpOp (.vfmax d a b p z t) d a b p 4)
/-- VFCMP.eq. -/
def execVfcmpEq (d a b p z t : Nat) (s : State) : Out1 := .next (s.fpCmp (.vfcmpEq d a b p z t) d a b p)
/-- VFCMP.ne. -/
def execVfcmpNe (d a b p z t : Nat) (s : State) : Out1 := .next (s.fpCmp (.vfcmpNe d a b p z t) d a b p)
/-- VFCMP.lt. -/
def execVfcmpLt (d a b p z t : Nat) (s : State) : Out1 := .next (s.fpCmp (.vfcmpLt d a b p z t) d a b p)
/-- VFCMP.le. -/
def execVfcmpLe (d a b p z t : Nat) (s : State) : Out1 := .next (s.fpCmp (.vfcmpLe d a b p z t) d a b p)
/-- VFCMP.gt. -/
def execVfcmpGt (d a b p z t : Nat) (s : State) : Out1 := .next (s.fpCmp (.vfcmpGt d a b p z t) d a b p)
/-- VFCMP.ge. -/
def execVfcmpGe (d a b p z t : Nat) (s : State) : Out1 := .next (s.fpCmp (.vfcmpGe d a b p z t) d a b p)
/-- VFCMP.un. -/
def execVfcmpUn (d a b p z t : Nat) (s : State) : Out1 := .next (s.fpCmp (.vfcmpUn d a b p z t) d a b p)
/-- VFMA. -/
def execVfma (d a b p z t np na : Nat) (s : State) : Out1 :=
  .next (s.fpOp (.vfma d a b p z t np na) d a b p 4)

/-! ### Conversion (R349, R350) -/

/-- A conversion format: floating point, or an integer of `n` bits. -/
inductive CFmt where
  | fp (f : Fmt)
  | int (n : Nat) (signed : Bool)
  deriving DecidableEq, Repr

/-- The format of a code of R349. -/
def cfmt (nxm : Bool) (c : Nat) : CFmt :=
  match c with
  | 0 => .fp fp32
  | 1 => .fp fp16
  | 2 => .fp bf16
  | 3 => .fp (e4m3 nxm)
  | 4 => .fp (e5m2 nxm)
  | 5 => .int 32 true
  | 6 => .int 16 true
  | 7 => .int 8 true
  | _ => .int 8 false

def CFmt.width : CFmt → Nat
  | .fp f => f.width
  | .int n _ => n

/-- An integer format's value of a code. -/
def intVal (n : Nat) (signed : Bool) (c : Nat) : Int := if signed then sgn n c else ((c % 2 ^ n : Nat) : Int)

/-- Saturation to an integer format (R259). -/
def intSat (n : Nat) (signed : Bool) (z : Int) : Int := if signed then satS n z else satU n z

/-- The value of a code of either kind. -/
def CFmt.read (f : CFmt) (c : Nat) : FVal :=
  match f with
  | .fp g => g.read c
  | .int n sg => .ofInt (intVal n sg c) 0

/-- A value into a format (R269–R272). -/
def CFmt.write (f : CFmt) (md : RMode) (sat : Bool) (x : FVal) : Nat :=
  match f with
  | .fp g => g.round md sat x
  | .int n sg => unsgn n (intSat n sg (x.toInt md))

/-- One element converted (R350). -/
def convert (src dst : CFmt) (md : RMode) (sat : Bool) (c : Nat) : Nat :=
  match src, dst with
  | .int n sg, .int k dg => unsgn k (if sat then intSat k dg (intVal n sg c) else intVal n sg c)
  | _, _ => dst.write md sat (src.read c)

/-- Rounding mode of a mode field for element `i` (R270). -/
def modeOf (m seed i : Nat) : RMode := if m = 0 then .rne else if m = 1 then .trunc else .stoch (draw seed i)

/-- The result of VCVT on captured values (R350). -/
def vcvtVal (src sat z mode dst : Nat) (nxm : Bool) (x : List Nat) : Nat :=
  let sf := cfmt nxm src
  let df := cfmt nxm dst
  let c := sf.width / 8
  let n := df.width / 8
  let cnt := vl / max c n
  buildLanes n (fun i =>
    if i < cnt then
      (if active (x.getD 3 0) n i then convert sf df (modeOf mode (x.getD 4 0) i) (sat = 1) (lane (x.getD 0 0) c i)
       else if z = 1 then 0 else lane (x.getD 2 0) n i)
    else 0) 0 (vl / n)

/-- VCVT. -/
def execVcvt (d a src sat p z mode dst : Nat) (s : State) : Out1 :=
  .next (s.fpOp (.vcvt d a src sat p z mode dst) d a 0 p 4)

/-- The register that an instruction of majors 0x24 to 0x26, or of their 16-bit forms, writes: a vector register or a
predicate; none for any other instruction. -/
inductive VDest where
  | vec (d : Nat)
  | pred (d : Nat)
  deriving DecidableEq, Repr

/-- Destination and result of an instruction of majors 0x24 to 0x26 on captured values (R344, R347–R350). -/
def fpResult (i : Instr) (nxm : Bool) (x : List Nat) : Option (VDest × Nat) :=
  match i with
  | .vfadd d _ _ _ z t => some (.vec d, fpVal t z ffAdd x)
  | .vfsub d _ _ _ z t => some (.vec d, fpVal t z ffSub x)
  | .vfmul d _ _ _ z t => some (.vec d, fpVal t z ffMul x)
  | .vfmin d _ _ _ z t => some (.vec d, fpVal t z (ffMinMax false) x)
  | .vfmax d _ _ _ z t => some (.vec d, fpVal t z (ffMinMax true) x)
  | .vfadd16 d _ _ => some (.vec d, fpVal 2 0 ffAdd x)
  | .vfsub16 d _ _ => some (.vec d, fpVal 2 0 ffSub x)
  | .vfmul16 d _ _ => some (.vec d, fpVal 2 0 ffMul x)
  | .vfmin16 d _ _ => some (.vec d, fpVal 2 0 (ffMinMax false) x)
  | .vfmax16 d _ _ => some (.vec d, fpVal 2 0 (ffMinMax true) x)
  | .vfma d _ _ _ z t np na => some (.vec d, fpVal t z (ffMa (np = 1) (na = 1)) x)
  | .vcvt d _ src sat _ z mode dst => some (.vec d, vcvtVal src sat z mode dst nxm x)
  | .vfcmpEq d _ _ _ z t => some (.pred d, fpCmpVal t z (fun x y => x.eqv y) x)
  | .vfcmpNe d _ _ _ z t => some (.pred d, fpCmpVal t z (fun x y => !x.eqv y) x)
  | .vfcmpLt d _ _ _ z t => some (.pred d, fpCmpVal t z (fun x y => x.lt y) x)
  | .vfcmpLe d _ _ _ z t => some (.pred d, fpCmpVal t z (fun x y => x.lt y || x.eqv y) x)
  | .vfcmpGt d _ _ _ z t => some (.pred d, fpCmpVal t z (fun x y => y.lt x) x)
  | .vfcmpGe d _ _ _ z t => some (.pred d, fpCmpVal t z (fun x y => y.lt x || x.eqv y) x)
  | .vfcmpUn d _ _ _ z t => some (.pred d, fpCmpVal t z (fun x y => x.isNan || y.isNan) x)
  | _ => none

/-- The destination alone. -/
def fpDest (i : Instr) : Option VDest :=
  match i with
  | .vfadd d _ _ _ _ _ | .vfsub d _ _ _ _ _ | .vfmul d _ _ _ _ _ | .vfmin d _ _ _ _ _ | .vfmax d _ _ _ _ _
  | .vfadd16 d _ _ | .vfsub16 d _ _ | .vfmul16 d _ _ | .vfmin16 d _ _ | .vfmax16 d _ _
  | .vfma d _ _ _ _ _ _ _ | .vcvt d _ _ _ _ _ _ _ => some (.vec d)
  | .vfcmpEq d _ _ _ _ _ | .vfcmpNe d _ _ _ _ _ | .vfcmpLt d _ _ _ _ _ | .vfcmpLe d _ _ _ _ _ | .vfcmpGt d _ _ _ _ _
  | .vfcmpGe d _ _ _ _ _ | .vfcmpUn d _ _ _ _ _ => some (.pred d)
  | _ => none

/-- The vector registers and the predicates that an instruction reads or writes (R344). -/
def vUse (i : Instr) : List Nat × List Nat :=
  match i with
  | .vmov16 d a g | .vadd16 d a g | .vsub16 d a g | .vmul16 d a g | .vand16 d a g | .vor16 d a g | .vxor16 d a g
  | .vmin16 d a g | .vmax16 d a g | .vshl16 d a g | .vsar16 d a g | .vfadd16 d a g | .vfsub16 d a g | .vfmul16 d a g
  | .vfmin16 d a g | .vfmax16 d a g => ([d, a], [g])
  | .vmov d _ b p _ _ => ([d, b], [p])
  | .vadd d a b p _ _ | .vsub d a b p _ _ | .vmul d a b p _ _ | .vmulh d a b p _ _ | .vmulhU d a b p _ _
  | .vmin d a b p _ _ | .vmax d a b p _ _ | .vminU d a b p _ _ | .vmaxU d a b p _ _ | .vaddSat d a b p _ _
  | .vsubSat d a b p _ _ | .vand d a b p _ _ | .vor d a b p _ _ | .vxor d a b p _ _ | .vshl d a b p _ _
  | .vshr d a b p _ _ | .vsar d a b p _ _ | .vperm d a b p _ _ | .vfadd d a b p _ _ | .vfsub d a b p _ _
  | .vfmul d a b p _ _ | .vfmin d a b p _ _ | .vfmax d a b p _ _ | .vfma d a b p _ _ _ _ | .vsel d a b p _ => ([d, a, b], [p])
  | .vabs d a p _ _ | .vabsSat d a p _ _ | .vscan d a p _ _ _ | .vcvt d a _ _ p _ _ _ | .vsfn d a _ p _ _ _ => ([d, a], [p])
  | .vcmpEq d a b p _ _ | .vcmpNe d a b p _ _ | .vcmpLt d a b p _ _ | .vcmpGe d a b p _ _ | .vcmpLtu d a b p _ _
  | .vcmpGeu d a b p _ _ | .vfcmpEq d a b p _ _ | .vfcmpNe d a b p _ _ | .vfcmpLt d a b p _ _ | .vfcmpLe d a b p _ _
  | .vfcmpGt d a b p _ _ | .vfcmpGe d a b p _ _ | .vfcmpUn d a b p _ _ => ([a, b], [d, p])
  | .pand d a b | .por d a b | .pxor d a b => ([], [d, a, b])
  | .pnot d a | .pfirst d a _ => ([], [d, a])
  | .pcnt _ a _ => ([], [a])
  | .vbound d _ _ _ => ([], [d])
  | .vbcast d _ p _ _ | .vld d _ p _ _ _ | .vlds d _ p _ _ _ | .vst d _ p _ | .vsts d _ _ p _ => ([d], [p])
  | .vext _ a _ _ | .vextSx _ a _ _ => ([a], [])
  | .vins d _ _ _ => ([d], [])
  | .vred _ a p _ _ => ([a], [p])
  | .vgath d _ b p _ _ _ | .vscat d _ b p _ => ([d, b], [p])
  | .vdot d a b _ _ _ | .vclmul d a b _ _ => ([d, a, b], [])
  | _ => ([], [])

/-- The closing instructions of R152. -/
def closes (i : Instr) : Bool :=
  match i with
  | .spillw | .fillw | .halt | .haltK _ | .gang _ | .split | .spawn _ _ _ | .mts _ _ _ _ | .trap _ | .brk => true
  | _ => false

/-- An instruction of majors 0x24 to 0x26 of the thread has still to write its destination (R344). -/
def State.fpOwed (s : State) (h k : Nat) : Bool :=
  (s.core h).dq.any fun e => decide (e.slot = k) && !e.orphan && (fpDest e.i).isSome

/-- An instruction of slot `k` of core `h` stalls at issue: it reads or writes the destination of an instruction of majors
0x24 to 0x26 of its thread that has not written it, closes a window on that destination, or is a closing instruction or a trap
handler's and such a one of before is still to write (R344, R345). -/
def State.spanDue (s : State) (h k : Nat) (i : Instr) : Bool :=
  let t := s.thr h k
  (s.core h).dq.any fun e => decide (e.slot = k) && !e.orphan && (match fpDest e.i with
    | none => false
    | some v => closes i || (t.trap.act && decide (e.id < t.trap.mark)) || (match v with
      | .vec d => (vUse i).1.contains d || t.pend.any fun p => decide (p.cnt = 0 ∧ p.dest = .vector d)
      | .pred d => decide (d ≠ 0) && (vUse i).2.contains d))

/-! ### VDOT and VCLMUL (R351, R352): they run from the dispatch queue with what they captured -/

/-- A floating-point group: the exact sum with the accumulator, rounded once. -/
def dotFp (f : Fmt) (n : Nat) (sat : Bool) (acc x y : Nat) : Nat :=
  let ps := (List.range n).map fun k => (f.read (lane x f.bytes k)).mul (f.read (lane y f.bytes k))
  fp32.round .rne sat (FVal.sum (fp32.read acc :: ps))

/-- An integer sum into INT32, saturated or wrapped. -/
def int32Of (sat : Bool) (z : Int) : Nat := unsgn 32 (if sat then satS 32 z else z)

/-- Signed element `k` of `w` bits. -/
def sElem (v w k : Nat) : Int := sgn w (v / 2 ^ (w * k))

/-- A real integer group. -/
def dotInt (w n : Nat) (sat : Bool) (acc x y : Nat) : Nat :=
  int32Of sat ((List.range n).foldl (fun z k => z + sElem x w k * sElem y w k) (sgn 32 acc))

/-- A complex group: real and imaginary accumulators as one 64-bit value (R275). -/
def dotCx (w n : Nat) (sat : Bool) (acc x y : Nat) : Nat :=
  let re := (List.range n).foldl (fun z k =>
    z + (sElem x w (2 * k) * sElem y w (2 * k) - sElem x w (2 * k + 1) * sElem y w (2 * k + 1))) (sgn 32 acc)
  let im := (List.range n).foldl (fun z k =>
    z + (sElem x w (2 * k) * sElem y w (2 * k + 1) + sElem x w (2 * k + 1) * sElem y w (2 * k))) (sgn 32 (acc / 2 ^ 32))
  int32Of sat re + 2 ^ 32 * int32Of sat im

/-- The result of VDOT on captured registers (R351). -/
def vdotValue (fmt : Nat) (sat nxm : Bool) (x y z : Nat) : Nat :=
  let g := fun (s : Nat) (f : Nat → Nat → Nat → Nat) => buildLanes s (fun i => f (lane z s i) (lane x s i) (lane y s i)) 0 (vl / s)
  match fmt with
  | 0 => g 4 (dotInt 8 4 sat)
  | 1 => g 4 (dotInt 4 8 sat)
  | 2 => g 8 (dotCx 8 4 sat)
  | 3 => g 8 (dotCx 4 8 sat)
  | 4 => g 4 (dotFp (e4m3 nxm) 4 sat)
  | 5 => g 4 (dotFp (e5m2 nxm) 4 sat)
  | 6 => g 4 (dotFp bf16 2 sat)
  | _ => g 4 (dotFp fp16 2 sat)

/-- The result of VCLMUL (R352). -/
def vclmulValue (hi : Bool) (x y : Nat) : Nat :=
  buildLanes 8 (fun i =>
    let p := clmulN (lane x 8 i) (lane y 8 i) 64
    if hi then p / 2 ^ 64 else p) 0 (vl / 8)

/-- A long-latency vector instruction of the span: LOOKAHEAD, then a stall while the table or the queue is full, then
the entry and the dispatch (R136, R344, R362). -/
def State.dispatchV (s : State) (d la : Nat) (i : Instr) (args : List Nat) : State :=
  if s.cur.openV d then s.lookahead
  else if s.cur.full ∨ s.dqFull then s
  else
    let (s1, ent) := s.alloc { dest := .vector d, field := d, kind := 1, missing := 1 } la
    let (s2, id) := s1.newId
    (s2.onCC fun c => { c with dq := c.dq ++ [s.vecEntry id ent i args] }).retire 4

/-- VDOT. -/
def execVdot (d a b fmt sat la : Nat) (s : State) : Out1 :=
  .next (s.dispatchV d la (.vdot d a b fmt sat la) [s.vb a, s.vb b, s.vb d])

/-- VCLMUL. -/
def execVclmul (d a b hi la : Nat) (s : State) : Out1 :=
  .next (s.dispatchV d la (.vclmul d a b hi la) [s.vb a, s.vb b])

/-! ### VSFN (R353, R354, R137) -/

/-- VSFN: a request to the quad's special-function unit; its result lands later. -/
def execVsfn (d a fn p z t la : Nat) (s : State) : Out1 :=
  let fm := fmtOf t
  let n := fm.bytes
  .next (
    if s.cur.openV d then s.lookahead
    else if s.cur.full then s
    else
      let v := lanesWith n (vl / n) (s.gb p) z (s.vb d) fun i => sfn fm fn (lane (s.vb a) n i)
      let (s1, ent) := s.alloc { dest := .vector d, field := d, kind := 1, missing := 1 } la
      (s1.onQuad (s.curH / 4) fun q => { q with sfq := q.sfq ++ [{ h := s.curH, slot := s.curSlot, ent := ent, value := v }] }).retire 4)

/-! ### 16-bit forms (R247) -/

/-- VFADD. -/
def execVfadd16 (d sv g : Nat) (s : State) : Out1 := .next (s.fpOp (.vfadd16 d sv g) d d sv g 2)
/-- VFSUB. -/
def execVfsub16 (d sv g : Nat) (s : State) : Out1 := .next (s.fpOp (.vfsub16 d sv g) d d sv g 2)
/-- VFMUL. -/
def execVfmul16 (d sv g : Nat) (s : State) : Out1 := .next (s.fpOp (.vfmul16 d sv g) d d sv g 2)
/-- VFMAX. -/
def execVfmax16 (d sv g : Nat) (s : State) : Out1 := .next (s.fpOp (.vfmax16 d sv g) d d sv g 2)
/-- VFMIN. -/
def execVfmin16 (d sv g : Nat) (s : State) : Out1 := .next (s.fpOp (.vfmin16 d sv g) d d sv g 2)

end Sys2Proof.Machine
end

