-- ==== Sys2Proof/Machine/Tile.lean ====
section
/-! DEFINITION. Tensor identifiers and the issue of tile instructions (18_tile), with the record reservation of record
mode (R380–R384). What the span does with a dispatched instruction is in Span. -/

namespace Sys2Proof.Machine

/-! ### Identifier entries (R357, R358), read as the 512-bit number of their bytes -/

def idBase (e : Nat) : Nat := recField e 0 8
def idFmt (e : Nat) : Nat := recField e 8 1
def idRot (e : Nat) : Nat := recField e 9 1
def idRec (e : Nat) : Nat := recField e 10 1
def idGrad (e : Nat) : Nat := recField e 11 1
def idRows (e : Nat) : Nat := recField e 12 2
def idCols (e : Nat) : Nat := recField e 14 2
def idPitch (e : Nat) : Nat := recField e 16 4
def idTp (e : Nat) : Nat := recField e 20 4
def idSbase (e : Nat) : Nat := recField e 24 8
def idGen (e : Nat) : Nat := recField e 32 2

/-- Element width of a format code in bits (R358). -/
def fmtBits (f : Nat) : Nat := [32, 16, 16, 8, 8, 32, 16, 8, 8, 4, 16, 8].getD f 4
def fmtBlk (f : Nat) : Bool := decide (12 ≤ f)
def fmtCx (f : Nat) : Bool := decide (f = 10 ∨ f = 11)
/-- An integer format that is not complex. -/
def fmtInt (f : Nat) : Bool := decide (5 ≤ f ∧ f ≤ 9)

/-- Bytes of a row, ceil(COLS × b / 8). -/
def rowBytes (e : Nat) : Nat := (idCols e * fmtBits (idFmt e) + 7) / 8

/-- E(r, 0) of R358. -/
def rowAddr (e r : Nat) : Nat :=
  idBase e + r / 64 * (if idTp e = 0 then 64 * idPitch e else idTp e) + r % 64 * idPitch e

/-- Scale bytes of a tensor. -/
def scaleBytes (e : Nat) : Nat := if fmtBlk (idFmt e) then idRows e * (idCols e / 32) else 0

/-- The byte ranges of a tensor: its rows and its scale bytes. -/
def idRanges (e : Nat) : List (Nat × Nat) :=
  ((List.range (idRows e)).map fun r => (rowAddr e r, rowBytes e)) ++
    (if scaleBytes e = 0 then [] else [(idSbase e, scaleBytes e)])

/-- A range that the span may access: in the deck or global space, in one row of R161, and in no deck share of another
partition (R360 check 5). -/
def State.spanRange (s : State) (h : Nat) (r : Nat × Nat) : Bool :=
  decide (r.1 + r.2 ≤ 2 ^ 64) && sameRow r.1 (r.1 + r.2 - 1) &&
    (match spaceOf r.1 with
     | .ls _ => false
     | .deck _ => (List.range 4).all fun k =>
         let lo := 0xFFFFFE0000000000 + k * 0x20000
         !(rangeHits r.1 r.2 (lo, 0x20000)) || s.deckOk h (k * 0x20000)
     | _ => true)

/-- The checks of R360 on an entry. -/
def State.identOk (s : State) (h e : Nat) : Bool :=
  decide (recField e 34 30 = 0 ∧ idFmt e ≤ 15 ∧ idRot e ≤ 7 ∧ idRec e < 4 ∧ idGrad e / 64 % 2 = 0 ∧ idRows e ≠ 0 ∧
      idCols e ≠ 0 ∧ idBase e % 4 = 0 ∧ idPitch e % 4 = 0 ∧ idTp e % 4 = 0 ∧ rowBytes e ≤ idPitch e ∧
      (fmtBlk (idFmt e) = true → idCols e % 32 = 0)) &&
    (decide (idRot e = 0) ||
      ((match spaceOf (idBase e) with | .deck _ => true | _ => false) &&
        decide (idBase e % 128 = 0 ∧ idPitch e % 128 = 0 ∧ rowBytes e % 128 = 0))) &&
    (idRanges e).all (s.spanRange h)

/-! ### Record mode (R377–R384) -/

def Core.recording (c : Core) : Bool := c.adjCtl.getLsbD 0
def Core.adjSeq (c : Core) : Nat := wbits c.adjCtl 63 32

/-- The effective flag of an operand (R380): 1 save, 2 recompute, 3 constant. -/
def effFlag (f e : Nat) : Nat := if f ≠ 0 then f else if idRec e % 4 ≠ 0 then idRec e % 4 else 1

/-- A part of a payload, padded (R382). -/
def pad32 (n : Nat) : Nat := (n + 31) / 32 * 32

/-- Bytes of a saved operand (R382). -/
def operandBytes (e : Nat) : Nat := idRows e * rowBytes e + scaleBytes e

/-- ADJOVF (R379, R383): `NEED` and the trap. -/
def State.adjOvf (s : State) (need : Nat) : State :=
  (s.onCC fun c => { c with adjStat := putBits c.adjStat 47 16 need }).utrap 5 0

/-- `size` bytes of the log reserved (R383). -/
def Core.reserve (c : Core) (size : Nat) : Core :=
  { c with
    adjPtr := c.adjPtr + BitVec.ofNat 64 size
    adjCtl := putBits c.adjCtl 63 32 ((c.adjSeq + 1) % 2 ^ 32) }

/-- The log has no room for `size` bytes (R383). -/
def Core.logFull (c : Core) (size : Nat) : Bool := decide (c.adjLimit.toNat < c.adjPtr.toNat + size)

/-! ### Issue (R360, R362, R384) -/

/-- What a tile instruction names: its operands' identifier numbers and flag fields, whether A is its destination, the
bytes of accumulator a record saves, and its shape rule. -/
structure TileOp where
  i : Instr
  acc : Nat := 0
  la : Nat := 0
  a : Option Nat := none
  b : Option Nat := none
  fA : Nat := 0
  fB : Nat := 0
  flagged : Bool := false
  store : Bool := false
  save : Nat → Nat := fun _ => 0
  shape : Nat → Nat → Bool := fun _ _ => true

/-- Captured entry of an operand, 0 where there is none. -/
def State.capture (s : State) (n : Option Nat) : Nat := match n with | some k => (s.cur.rdD k).toNat | none => 0

/-- The dispatch entry of a span instruction of the issuing thread. -/
def State.dqEntry (s : State) (id ent : Nat) (i : Instr) (args : List Nat) (rd wr : List (Nat × Nat)) : DqEntry :=
  { id := id, slot := s.curSlot, ent := ent, i := i, args := args, nxm := s.cc.nxm, pc := s.cur.pc,
    asid := s.asidOf s.curH s.curSlot, tenant := s.tenantOf s.curH, clk := s.cc.sclk, reads := rd, writes := wr }

/-- A span instruction enters the dispatch queue with a window (R136, R362). -/
def State.enqueue (s : State) (acc la : Nat) (i : Instr) (args : List Nat) (rd wr : List (Nat × Nat)) : State :=
  let (s1, ent) := s.alloc { dest := .tile, field := acc, kind := 3, missing := 1 } la
  let (s2, id) := s1.newId
  s2.onCC fun c => { c with dq := c.dq ++ [s.dqEntry id ent i args rd wr] }

/-- The core takes no span instruction of the thread now (R136, R150, R195). -/
def State.spanBusy (s : State) : Bool := s.cur.full || s.dqFull || !s.accReady

/-- GEN of an identifier raised (R361). -/
def Thread.genUp (t : Thread) (n : Nat) : Thread :=
  let e := (t.rdD n).toNat
  t.wrD n (BitVec.ofNat 512 (setField e 256 16 (idGen e + 1)))

/-- Payload bytes of a record (R382). -/
def TileOp.plen (o : TileOp) (ea eb : Nat) : Nat :=
  (if o.flagged ∧ effFlag o.fA ea = 1 then pad32 (operandBytes ea) else 0) +
    (if o.b.isSome ∧ effFlag o.fB eb = 1 then pad32 (operandBytes eb) else 0) + pad32 (o.save ea)

/-- Whether the instruction is the microprogrammed product, which records only constants (R384). -/
def TileOp.isX (o : TileOp) : Bool := match o.i with | .tmmx _ _ _ _ _ _ => true | _ => false

/-- The dispatch of a tile instruction whose checks have passed. Its captured values are: entries A and B, the seed,
whether it is recorded, the record's place, SEQ, the identifier numbers, the effective flags and the payload's length. -/
def State.sendTile (s : State) (o : TileOp) (ea eb : Nat) : State :=
  let rec1 := s.cc.recording
  let plen := o.plen ea eb
  let pos := s.cc.adjPtr.toNat
  let size := 32 + plen
  let args := [ea, eb, (s.g 7).toNat, b2n rec1, pos, s.cc.adjSeq, o.a.getD 0, o.b.getD 0,
               if o.flagged then effFlag o.fA ea else 0, if o.b.isSome then effFlag o.fB eb else 0, plen]
  let ra := if o.a.isSome then idRanges ea else []
  let rb := if o.b.isSome then idRanges eb else []
  let log := if rec1 then [(pos, size)] else []
  let s1 := s.enqueue o.acc o.la o.i args (if o.store then rb else ra ++ rb) (if o.store then ra ++ log else log)
  let s2 := if rec1 then s1.onCC fun c => c.reserve size else s1
  (if o.store then s2.onCur fun t => t.genUp (o.a.getD 0) else s2).retire 4

/-- The issue of a tile instruction: LOOKAHEAD, the checks of R360 and its own, ADJNOADJ, ADJOVF, then the dispatch. -/
def State.issueTile (s : State) (o : TileOp) : State :=
  let ea := s.capture o.a
  let eb := s.capture o.b
  let bad := fun (n : Option Nat) (e : Nat) => n.isSome && !s.identOk s.curH e
  let noAdj := if effFlag o.fA ea ≠ 3 then some 1 else if effFlag o.fB eb ≠ 3 then some 2 else none
  if o.store ∧ s.cur.openD (o.a.getD 0) then s.lookahead
  else if bad o.a ea ∨ bad o.b eb ∨ ¬ o.shape ea eb then s.perm 0
  else match (if s.cc.recording ∧ o.isX then noAdj else none) with
    | some n => (s.onCC fun c => { c with adjStat := putBits c.adjStat 9 8 n }).utrap 6 0
    | none =>
      if s.cc.recording ∧ s.cc.logFull (32 + o.plen ea eb) then s.adjOvf (32 + o.plen ea eb)
      else if s.spanBusy then s.meetAcq.meet DqEntry.isRev
      else s.sendTile o ea eb

/-! ### Shapes (R366, R367, R369, R370, R376) -/

/-- The operand shapes of a product: A.COLS = B.ROWS ≤ 4,096, at most `n` columns and 64 rows. -/
def productShape (n a b : Nat) : Bool :=
  decide (idCols a = idRows b ∧ idCols a ≤ 4096 ∧ idRows a ≤ 64 ∧ idCols b ≤ n)

/-- The operand formats of `TMMA` (R366). -/
def mmaFormats (f g : Nat) : Bool :=
  (decide (f = 7 ∨ f = 8) && decide (g = 7 ∨ g = 8)) || (decide (f = 9 ∧ g = 9)) ||
    (decide (f = 3 ∨ f = 4) && decide (g = 3 ∨ g = 4)) || (decide (f = 2 ∧ g = 2)) || (decide (f = 1 ∧ g = 1)) ||
    (fmtBlk f && fmtBlk g)

def mmaShape (a b : Nat) : Bool := productShape 64 a b && mmaFormats (idFmt a) (idFmt b)
def mmacShape (a b : Nat) : Bool := productShape 32 a b && fmtCx (idFmt a) && decide (idFmt a = idFmt b)
def mmxShape (a b : Nat) : Bool := productShape 64 a b && decide (idFmt a ≤ 2 ∧ idFmt b ≤ 2)
def elemShape (a _ : Nat) : Bool := decide (idRows a ≤ 64 ∧ idCols a ≤ 64) && !fmtCx (idFmt a)

/-! ### Instructions -/

def State.product (s : State) (i : Instr) (acc dA dB fA fB la : Nat) (shape : Nat → Nat → Bool) : State :=
  s.issueTile { i := i, acc := acc, la := la, a := some dA, b := some dB, fA := fA, fB := fB, flagged := true, shape := shape }

/-- TMMA (R366). -/
def execTmma (acc dA dB fA fB la : Nat) (s : State) : Out1 :=
  .next (s.product (.tmma acc dA dB fA fB la) acc dA dB fA fB la mmaShape)
/-- TMMA.sat. -/
def execTmmaSat (acc dA dB fA fB la : Nat) (s : State) : Out1 :=
  .next (s.product (.tmmaSat acc dA dB fA fB la) acc dA dB fA fB la mmaShape)
/-- TMMAC (R367). -/
def execTmmac (acc dA dB fA fB la : Nat) (s : State) : Out1 :=
  .next (s.product (.tmmac acc dA dB fA fB la) acc dA dB fA fB la mmacShape)
/-- TMMAC.sat. -/
def execTmmacSat (acc dA dB fA fB la : Nat) (s : State) : Out1 :=
  .next (s.product (.tmmacSat acc dA dB fA fB la) acc dA dB fA fB la mmacShape)
/-- TMMX (R369). -/
def execTmmx (acc dA dB fA fB la : Nat) (s : State) : Out1 :=
  .next (s.product (.tmmx acc dA dB fA fB la) acc dA dB fA fB la mmxShape)
/-- TADD (R370). -/
def execTadd (acc dA fA la : Nat) (s : State) : Out1 :=
  .next (s.issueTile { i := .tadd acc dA fA la, acc := acc, la := la, a := some dA, fA := fA, flagged := true, shape := elemShape })
/-- TMUL (R370); a record saves its region of the accumulator. -/
def execTmul (acc dA fA la : Nat) (s : State) : Out1 :=
  .next (s.issueTile { i := .tmul acc dA fA la, acc := acc, la := la, a := some dA, fA := fA, flagged := true,
                       shape := elemShape, save := fun e => 4 * (idRows e * idCols e) })
/-- TACT (R371); a record saves the tile. -/
def execTact (acc fn la : Nat) (s : State) : Out1 :=
  .next (s.issueTile { i := .tact acc fn la, acc := acc, la := la, save := fun _ => 16384 })
/-- TRED (R372); a record of `.max` saves the tile. -/
def execTred (acc fn la : Nat) (s : State) : Out1 :=
  .next (s.issueTile { i := .tred acc fn la, acc := acc, la := la, save := fun _ => if fn = 1 then 16384 else 0 })
/-- TTRN (R373). -/
def execTtrn (acc la : Nat) (s : State) : Out1 := .next (s.issueTile { i := .ttrn acc la, acc := acc, la := la })
/-- TCVT (R374). -/
def execTcvt (acc ty mode la : Nat) (s : State) : Out1 :=
  .next (s.issueTile { i := .tcvt acc ty mode la, acc := acc, la := la })
/-- TZERO (R375). -/
def execTzero (acc ty la : Nat) (s : State) : Out1 :=
  .next (s.issueTile { i := .tzero acc ty la, acc := acc, la := la })
/-- TST (R376). -/
def execTst (acc dA sat mode la : Nat) (s : State) : Out1 :=
  .next (s.issueTile { i := .tst acc dA sat mode la, acc := acc, la := la, a := some dA, store := true, shape := elemShape })

/-- TDESC (R361): the 64 bytes of an image, loaded as eight doublewords into the pending entry. -/
def execTdesc (dA ra la : Nat) (s : State) : Out1 :=
  let va := (s.g ra).toNat
  let accs := (List.range 8).map fun k => { s.accOf (va + 8 * k) 8 .load with lane := 64 * k }
  .next (
    if s.cur.openD dA then s.lookahead
    else if va % 64 ≠ 0 then s.alignF va
    else if s.cur.full then s
    else if ¬ s.accReady ∨ accs.any s.loadHeld then s.meetAt [(va, 64)]
    else match accs.find? s.exhausted with
      | some a => s.kfault fCLOCKEX a.va
      | none =>
        if s.acqDue s.curH s.curSlot ∧ accs.any s.watched then s else
        let (s1, ent) := s.pruneAcq.alloc { dest := .ident dA, field := dA, kind := 2, missing := 8 } la
        (accs.foldl (fun s a => s.issueAcc { a with ent := ent }) s1).retire 4)

/-- The thread without the pending entry `id`. -/
def Thread.dropPend (t : Thread) (id : Nat) : Thread :=
  { t with pend := t.pend.filter fun e => decide (e.id ≠ id)
           trap := { t.trap with pend := t.trap.pend.filter fun e => decide (e.id ≠ id) } }

/-- TDRD (R361): the entry stored as eight doublewords; its window closes when every one of them that did not fault is
performed, and one that faults enters the side log. -/
def execTdrd (dA ra la : Nat) (s : State) : Out1 :=
  let va := (s.g ra).toNat
  let e := (s.cur.rdD dA).toNat
  .next (
    if va % 64 ≠ 0 then s.alignF va
    else if s.cur.full then s
    else if ¬ s.accReady then s.meetAt [(va, 64)]
    else
      let (s1, ent) := s.pruneAcq.alloc { dest := .none, kind := 3 } la
      let accs := (List.range 8).map fun k => { s.accOf (va + 8 * k) 8 .store with data := recField e (8 * k) 8, ent := ent }
      match s1.storeAll accs with
      | .stall s2 => s2.onCur fun t => t.dropPend ent
      | .trap s2 => s2.onCur fun t => t.dropPend ent
      | .done s2 =>
        let n := (s2.accs.filter fun a => decide (a.ent = ent)).length
        (s2.onCur fun t => t.onPend ent fun p => { p with missing := n }).retire 4)

/-- An operation of a microprogram that raises PERM (R368). -/
def badMicro (w : Nat) : Bool := (List.range 4).any fun j => decide (5 < w / 2 ^ (16 * j + 12) % 16 ∨ w / 2 ^ (16 * j) % 64 ≠ 0)

/-- TUPROG (R368): the read and its check, then the stall while the queue or the table is full (R362). -/
def execTuprog (ra la : Nat) (s : State) : Out1 :=
  let va := (s.g ra).toNat
  .next (
    if va % 8 ≠ 0 then s.alignF va
    else if ¬ s.accReady then s.meetAcq.meet DqEntry.isRev
    else match s.accessNow (s.accOf va 8 .load) with
      | .stall s1 => s1
      | .fault s1 c => s1.kfault c va
      | .ok s1 (.fault (.kernel c a)) => s1.kfault c a
      | .ok s1 (.fault (.user c info)) => s1.utrap c (BitVec.ofNat 64 info)
      | .ok s1 (.value w) =>
        if badMicro w then s1.perm 0
        else if s1.spanBusy then s1
        else (s1.enqueue 0 la (.tuprog ra la) [w] [] []).retire 4
      | .ok s1 _ => s1)

end Sys2Proof.Machine
end

