-- ==== Sys2Proof/Machine/Span.lean ====
section
/-! DEFINITION. The span executing a dispatched tile or vector instruction (R136, R363–R376): the order of entries, the
span's accesses, the arithmetic on accumulator tiles, and the record it leaves (R381–R383). -/

namespace Sys2Proof.Machine

/-! ### Accesses of the span (R363, R365) -/

/-- What stops an access of the span: a fault, or a moving range (none). -/
abbrev SpanR (α : Type) := State × Except (Option PFault) α

/-- An access of a dispatched entry. -/
def DqEntry.acc (e : DqEntry) (h va size : Nat) (k : AccKind) : Acc :=
  { id := e.id, h := h, slot := e.slot, asid := e.asid, tenant := e.tenant, pc := e.pc, va := va, size := size, kind := k,
    clk := e.clk, supp := e.supp }

/-- The access with its location, where it may be performed now, which is behind all that the die's ordering point holds (R94,
R161, R182, R190–R193, R206). -/
def State.spanLoc (s : State) (a : Acc) : SpanR Acc :=
  match spaceOf a.va with
  | .deck off =>
    if s.deckOk a.h off then (s, .ok { a with loc := deckLoc (a.h / 4) off }) else (s, .error (some (.kernel fPERM a.va)))
  | .global =>
    match s.translate a.h a.asid a.tenant a.va a.kind.need with
    | (s1, .error c) => (s1, .error (some (.kernel c a.va)))
    | (s1, .ok x) =>
      let y := a.placed x
      if s1.watchedAt y.loc ∧ (s1.core a.h).clkEx = true then (s1, .error (some (.kernel fCLOCKEX a.va)))
      else if s1.moving y.loc ∨ ¬ s1.nowReady y then (s1, .error none)
      else (s1.passNow (dieOf a.h), .ok y)
  | _ => (s, .error (some (.kernel fPERM a.va)))

/-- One located read. -/
def State.spanRead1 (s : State) (a : Acc) : SpanR Nat :=
  match s.perform a with
  | (s1, .value v) => (s1, .ok v)
  | (s1, .fault f) => (s1, .error (some f))
  | (s1, _) => (s1, .ok 0)

/-- A range cut at 64-B lines: address and length of each piece. -/
def pieces : Nat → Nat → Nat → List (Nat × Nat)
  | _, _, 0 => []
  | lo, n, fuel + 1 => if n = 0 then [] else
      let k := min n (64 - lo % 64)
      (lo, k) :: pieces (lo + k) (n - k) fuel

/-- The pieces of a range read in order; the value is that of its bytes. -/
def State.spanReadPieces (s : State) (h : Nat) (e : DqEntry) : List (Nat × Nat) → SpanR Nat
  | [] => (s, .ok 0)
  | (lo, n) :: t =>
    match s.spanLoc (e.acc h lo n .load) with
    | (s1, .error x) => (s1, .error x)
    | (s1, .ok a) =>
      match s1.spanRead1 a with
      | (s2, .error x) => (s2, .error x)
      | (s2, .ok v) =>
        match s2.spanReadPieces h e t with
        | (s3, .error x) => (s3, .error x)
        | (s3, .ok w) => (s3, .ok (v + 256 ^ n * w))

def State.spanRead (s : State) (h : Nat) (e : DqEntry) (lo n : Nat) : SpanR Nat :=
  s.spanReadPieces h e (pieces lo n (n / 64 + 2))

/-- A tensor as the span read it: its entry, its rows without their rotation, and its scale bytes. -/
structure TData where
  id : Nat := 0
  rows : List Nat := []
  scales : Nat := 0

/-- Row `r` of `n` bytes with its bank rotation applied or removed (R359). -/
def rotate (rot r n v : Nat) : Nat :=
  if rot = 0 then v else buildLanes 4 (fun w => lane v 4 (w ^^^ (r * rot % 32))) 0 (n / 4)

/-- The rows of a tensor from row `r` on. -/
def State.spanRows (s : State) (h : Nat) (e : DqEntry) (id r : Nat) : Nat → SpanR (List Nat)
  | 0 => (s, .ok [])
  | k + 1 =>
    match s.spanRead h e (rowAddr id r) (rowBytes id) with
    | (s1, .error x) => (s1, .error x)
    | (s1, .ok v) =>
      match s1.spanRows h e id (r + 1) k with
      | (s2, .error x) => (s2, .error x)
      | (s2, .ok l) => (s2, .ok (rotate (idRot id) r (rowBytes id) v :: l))

/-- A whole tensor read. -/
def State.spanTensor (s : State) (h : Nat) (e : DqEntry) (id : Nat) : SpanR TData :=
  match s.spanRows h e id 0 (idRows id) with
  | (s1, .error x) => (s1, .error x)
  | (s1, .ok l) =>
    match s1.spanRead h e (idSbase id) (scaleBytes id) with
    | (s2, .error x) => (s2, .error x)
    | (s2, .ok sc) => (s2, .ok { id := id, rows := l, scales := sc })

/-- A write the span will perform: address, bytes, value, whether the high nibble of its last byte stays (R376), and
whether it is part of a write that covers its granule whole (R183). -/
structure SWrite where
  va : Nat
  size : Nat
  data : Nat
  keep : Bool := false
  whole : Bool := false

/-- The writes of a range, cut at lines. -/
def rangeWrites (lo n v : Nat) (keep : Bool) : List SWrite :=
  (pieces lo n (n / 64 + 2)).map fun p =>
    { va := p.1, size := p.2, data := v / 256 ^ (p.1 - lo) % 256 ^ p.2
      keep := keep && decide (p.1 + p.2 = lo + n)
      whole := !keep && decide (lo ≤ p.1 / 256 * 256 ∧ p.1 / 256 * 256 + 256 ≤ lo + n) }

/-- Every write located before any is performed (R365). -/
def State.spanLocAll (s : State) (h : Nat) (e : DqEntry) : List SWrite → SpanR (List (Acc × Bool))
  | [] => (s, .ok [])
  | w :: t =>
    match s.spanLoc { e.acc h w.va w.size .store with data := w.data, whole := w.whole } with
    | (s1, .error x) => (s1, .error x)
    | (s1, .ok a) =>
      match s1.spanLocAll h e t with
      | (s2, .error x) => (s2, .error x)
      | (s2, .ok l) => (s2, .ok ((a, w.keep) :: l))

/-- One located write performed. -/
def State.spanWrite1 (s : State) (p : Acc × Bool) : State :=
  let a := p.1
  let hi := s.rdP8 (a.loc + a.size - 1) / 16 * 16
  let v := if p.2 then a.data % 256 ^ (a.size - 1) + 256 ^ (a.size - 1) * (a.data / 256 ^ (a.size - 1) % 16 + hi) else a.data
  (s.perform { a with data := v }).1

/-- Every write of an instruction: located, checked under R207, then performed; a failing one stops all. -/
def State.spanWrites (s : State) (h : Nat) (e : DqEntry) (ws : List SWrite) : SpanR Unit :=
  match s.spanLocAll h e ws with
  | (s1, .error x) => (s1, .error x)
  | (s1, .ok l) =>
    match l.find? fun p => (s1.raceStep p.1).2 with
    | some p => (s1, .error (some (.user 10 p.1.va)))
    | none => (l.foldl State.spanWrite1 s1, .ok ())

/-! ### Elements (R260, R266–R268) -/

/-- V(TYPE, code) of R268 in eighths. -/
def blkV8 (ty c : Nat) : Int :=
  let m := c % 8
  match ty with
  | 0 => 8 * sgn 4 c
  | 1 => (if c / 8 = 1 then -1 else 1) * (([0, 4, 8, 12, 16, 24, 32, 48].getD m 0 : Nat) : Int)
  | 2 => (if c / 8 = 1 then -1 else 1) * ((if m = 0 then 0 else 2 ^ (m - 1) : Nat) : Int)
  | _ => if c < 8 then 8 * (c : Int)
         else (if c % 2 = 1 then -1 else 1) * (([64, 96, 128, 192].getD ((c - 8) / 2) 0 : Nat) : Int)

/-- The sign of a block element's code where its value is zero (R268). -/
def blkNeg (ty c : Nat) : Bool := decide ((ty = 1 ∨ ty = 2) ∧ c = 8)

/-- The value of a block element under its scale byte (R267). -/
def blkVal (sb c : Nat) : FVal :=
  let v := blkV8 (sb / 64) c
  .fin (decide (v < 0) || blkNeg (sb / 64) c) v.natAbs ((sb % 64 : Nat) - 35 : Int)

/-- The format of a real tensor format code (R236). -/
def tfmt (nxm : Bool) (f : Nat) : CFmt :=
  match f with
  | 0 => .fp fp32
  | 1 => .fp fp16
  | 2 => .fp bf16
  | 3 => .fp (e4m3 nxm)
  | 4 => .fp (e5m2 nxm)
  | 5 => .int 32 true
  | 6 => .int 16 true
  | 7 => .int 8 true
  | 8 => .int 8 false
  | _ => .int 4 true

/-- The code of element (r, c). -/
def TData.code (d : TData) (r c : Nat) : Nat :=
  let b := fmtBits (idFmt d.id)
  d.rows.getD r 0 / 2 ^ (b * c) % 2 ^ b

/-- The scale byte of element (r, c). -/
def TData.scale (d : TData) (r c : Nat) : Nat := d.scales / 256 ^ (r * (idCols d.id / 32) + c / 32) % 256

/-- The exact value of a real element (R260, R267). -/
def TData.val (d : TData) (nxm : Bool) (r c : Nat) : FVal :=
  if fmtBlk (idFmt d.id) then blkVal (d.scale r c) (d.code r c) else (tfmt nxm (idFmt d.id)).read (d.code r c)

/-- The integer of an element of an integer format. -/
def TData.int (d : TData) (r c : Nat) : Int :=
  match tfmt false (idFmt d.id) with | .int n sg => intVal n sg (d.code r c) | _ => 0

/-- Real and imaginary part of a complex element (R266). -/
def TData.re (d : TData) (r c : Nat) : Int :=
  let b := fmtBits (idFmt d.id) / 2
  sgn b (d.code r c)
def TData.im (d : TData) (r c : Nat) : Int :=
  let b := fmtBits (idFmt d.id) / 2
  sgn b (d.code r c / 2 ^ b)

/-! ### Tiles -/

def Tile.at (t : Tile) (i j : Nat) : Nat := t.el.val (64 * i + j) 0

/-- A tile from its elements. -/
def Tile.make (int : Bool) (f : Nat → Nat → Nat) : Tile :=
  { int := int, el := (List.range 4096).filterMap fun k =>
      let v := f (k / 64) (k % 64)
      if v = 0 then none else some (k, v) }

/-- The tile with the elements of its M × N region from `f`. -/
def Tile.region (t : Tile) (m n : Nat) (f : Nat → Nat → Nat) : Tile :=
  Tile.make t.int fun i j => if i < m ∧ j < n then f i j else t.at i j

def rne32 (x : FVal) : Nat := fp32.round .rne false x

/-- The blocks of 32 of `K` indices (R273). -/
def blocks (k : Nat) : List (List Nat) :=
  (List.range ((k + 31) / 32)).map fun j => (List.range (min 32 (k - 32 * j))).map fun i => 32 * j + i

/-- The FP32 sum of products of R273. -/
def sumFp (sat : Bool) (acc k : Nat) (p : Nat → FVal) : Nat :=
  (blocks k).foldl (fun a b => fp32.round .rne sat (FVal.sum (fp32.read a :: b.map p))) acc

/-- The INT32 sum of products of R273. -/
def sumInt (sat : Bool) (acc k : Nat) (p : Nat → Int) : Nat :=
  (blocks k).foldl (fun a b => int32Of sat (b.foldl (fun z i => z + p i) (sgn 32 a))) acc

/-- TMMA on a tile (R366). -/
def tileMma (t : Tile) (sat nxm : Bool) (a b : TData) : Tile :=
  t.region (idRows a.id) (idCols b.id) fun i j =>
    if fmtInt (idFmt a.id) then sumInt sat (t.at i j) (idCols a.id) fun k => a.int i k * b.int k j
    else sumFp sat (t.at i j) (idCols a.id) fun k => (a.val nxm i k).mul (b.val nxm k j)

/-- TMMAC on a tile (R367). -/
def tileMmac (t : Tile) (sat : Bool) (a b : TData) : Tile :=
  t.region (idRows a.id) (2 * idCols b.id) fun i c =>
    let j := c / 2
    sumInt sat (t.at i c) (idCols a.id) fun k =>
      if c % 2 = 0 then a.re i k * b.re k j - a.im i k * b.im k j else a.re i k * b.im k j + a.im i k * b.re k j

/-- One operation of a microprogram on the registers s, a, b, x (R368, R369). -/
def microOp (rs : List Nat) (w : Nat) : List Nat :=
  let x := rs.getD (bits w 9 8) 0
  let y := rs.getD (bits w 7 6) 0
  match bits w 15 12 with
  | 1 => rs.set (bits w 11 10) (ffAdd fp32 x y 0)
  | 2 => rs.set (bits w 11 10) (ffSub fp32 x y 0)
  | 3 => rs.set (bits w 11 10) (ffMul fp32 x y 0)
  | 4 => rs.set (bits w 11 10) (ffMinMax false fp32 x y 0)
  | 5 => rs.set (bits w 11 10) (ffMinMax true fp32 x y 0)
  | _ => rs

/-- TMMX on a tile (R369). -/
def tileMmx (t : Tile) (prog : Word) (a b : TData) : Tile :=
  t.region (idRows a.id) (idCols b.id) fun i j =>
    (List.range (idCols a.id)).foldl (fun s k =>
      let rs := [s, rne32 (a.val false i k), rne32 (b.val false k j), 0]
      ((List.range 4).foldl (fun rs o => microOp rs (wbits prog (16 * o + 15) (16 * o))) rs).headD 0) (t.at i j)

/-- TADD and TMUL on a tile (R370). -/
def tileElem (t : Tile) (mul nxm : Bool) (a : TData) : Tile :=
  t.region (idRows a.id) (idCols a.id) fun i j =>
    if t.int then
      unsgn 32 (if mul then sgn 32 (t.at i j) * a.int i j else sgn 32 (t.at i j) + a.int i j)
    else
      let x := fp32.read (t.at i j)
      rne32 (if mul then x.mul (a.val nxm i j) else x.add (a.val nxm i j))

/-- The function of TACT on a code (R371). -/
def actFn (fn : Nat) (int : Bool) (x : Nat) : Nat :=
  match fn with
  | 0 =>
    if int then (if sgn 32 x < 0 then 0 else x)
    else if (fp32.read x).isNan then fp32.nanCode else if x.testBit 31 then 0 else x
  | 1 => sfn32 6 x
  | 2 => sfn32 7 x
  | _ => sfn32 0 x

/-- The row sum or maximum of TRED (R372). -/
def tileRed (t : Tile) (mx : Bool) : Tile :=
  Tile.make t.int fun i j =>
    if j ≠ 0 then 0
    else if mx then
      (List.range 63).foldl (fun m k => if t.int then fMax 32 m (t.at i (k + 1)) else ffMinMax true fp32 m (t.at i (k + 1)) 0) (t.at i 0)
    else if t.int then sumInt false 0 64 fun k => sgn 32 (t.at i k)
    else sumFp false 0 64 fun k => fp32.read (t.at i k)

/-- TCVT on a tile: to INT32 where `toInt` (R374). -/
def tileCvt (t : Tile) (toInt : Bool) (md : Nat → RMode) : Tile :=
  if t.int = toInt then t
  else Tile.make toInt fun i j =>
    if toInt then convert (.fp fp32) (.int 32 true) (md (64 * i + j)) false (t.at i j)
    else convert (.int 32 true) (.fp fp32) (md (64 * i + j)) false (t.at i j)

/-! ### The block formats of TST (R376) -/

/-- The largest magnitude of a TYPE that bounds EXP. -/
def blkMax (ty : Nat) : Nat := [7, 6, 8, 24].getD ty 7

/-- |v| ≤ Mx · 2^(EXP − 32) for a value of the block; a NaN places no bound. -/
def blkFits (ty exp : Nat) (x : FVal) : Bool :=
  match x with
  | .nan => true
  | .inf _ => false
  | .fin _ m e => !((FVal.fin false (blkMax ty) ((exp : Int) - 32)).lt (.fin false m e))

/-- The least EXP that fits every value of a block, 63 where none does. -/
def blkExp (ty : Nat) (xs : List FVal) : Nat :=
  match firstBelow 64 fun e => xs.all (blkFits ty e) with | some e => e | none => 63

/-- The code of a TYPE nearest to an element (R376). -/
def blkCode (ty exp el : Nat) (x : FVal) : Nat :=
  match x with
  | .nan => 0
  | _ =>
    let far : Int := 2 ^ 40
    let (z, one) : Int × Int := match x with
      | .fin s m e =>
        let k : Int := e + 35 - exp
        ((FVal.fin s m k).atUnit (min k 0), 2 ^ (0 - min k 0).toNat)
      | .inf s => (if s then -far else far, 1)
      | .nan => (0, 1)
    let d := fun (c : Nat) => (z - blkV8 ty c * one).natAbs
    let better := fun (b c : Nat) =>
      if d c < d b then true
      else if d c = d b then (if c % 2 = b % 2 then Config.freeTie ty el && decide (blkV8 ty c ≠ blkV8 ty b) else decide (c % 2 = 0))
      else false
    let r := (List.range 15).foldl (fun b i => if better b (i + 1) then i + 1 else b) 0
    if blkV8 ty r = 0 then 0 else r

/-- The value of element (i, j) of a tile. -/
def Tile.fval (t : Tile) (i j : Nat) : FVal := if t.int then .ofInt (sgn 32 (t.at i j)) 0 else fp32.read (t.at i j)

/-- The row and scale writes of TST (R358, R359, R376). -/
def tileStore (t : Tile) (a : Nat) (sat nxm : Bool) (md : Nat → RMode) : List SWrite :=
  let f := idFmt a
  let ty := f - 12
  let b := fmtBits f
  let n := idCols a
  let expOf := fun (i blk : Nat) => blkExp ty ((List.range 32).map fun k => t.fval i (32 * blk + k))
  let code := fun (i j : Nat) =>
    if fmtBlk f then blkCode ty (expOf i (j / 32)) (t.at i j) (t.fval i j)
    else convert (if t.int then .int 32 true else .fp fp32) (tfmt nxm f) (md (64 * i + j)) sat (t.at i j)
  let rowVal := fun (i : Nat) => (List.range n).foldl (fun v j => v + code i j % 2 ^ b * 2 ^ (b * j)) 0
  ((List.range (idRows a)).flatMap fun i =>
    rangeWrites (rowAddr a i) (rowBytes a) (rotate (idRot a) i (rowBytes a) (rowVal i)) (decide (b = 4 ∧ n % 2 = 1))) ++
  (if fmtBlk f then
    (List.range (idRows a)).flatMap fun i => (List.range (n / 32)).map fun k =>
      { va := idSbase a + i * (n / 32) + k, size := 1, data := 64 * ty + expOf i k }
   else [])

/-! ### What an instruction does (R366–R376) -/

/-- Captured values of a dispatched tile instruction. -/
def DqEntry.arg (e : DqEntry) (i : Nat) : Nat := e.args.getD i 0
def DqEntry.recorded (e : DqEntry) : Bool := decide (e.arg 3 = 1)

/-- A tile instruction's effect on its accumulator and its tensor writes; none where the tile's tag forbids it (R360). -/
def tileEffect (e : DqEntry) (t : Tile) (prog : Word) (a b : TData) : Option (Tile × List SWrite) :=
  let md := fun (m i : Nat) => modeOf m (e.arg 2) i
  let fa := idFmt a.id
  match e.i with
  | .tmma _ _ _ _ _ _ => if t.int = fmtInt fa then some (tileMma t false e.nxm a b, []) else none
  | .tmmaSat _ _ _ _ _ _ => if t.int = fmtInt fa then some (tileMma t true e.nxm a b, []) else none
  | .tmmac _ _ _ _ _ _ => if t.int then some (tileMmac t false a b, []) else none
  | .tmmacSat _ _ _ _ _ _ => if t.int then some (tileMmac t true a b, []) else none
  | .tmmx _ _ _ _ _ _ => if t.int then none else some (tileMmx t prog a b, [])
  | .tadd _ _ _ _ => if t.int = true ∧ fmtInt fa = false then none else some (tileElem t false e.nxm a, [])
  | .tmul _ _ _ _ => if t.int = true ∧ fmtInt fa = false then none else some (tileElem t true e.nxm a, [])
  | .tact _ fn _ =>
    if t.int = true ∧ fn ≠ 0 then none else some (Tile.make t.int fun i j => actFn fn t.int (t.at i j), [])
  | .tred _ op _ => some (tileRed t (decide (op = 1)), [])
  | .ttrn _ _ => some (Tile.make t.int fun i j => t.at j i, [])
  | .tcvt _ ty mode _ => some (tileCvt t (decide (ty = 0)) (md mode), [])
  | .tzero _ ty _ => some ({ int := decide (ty = 1) }, [])
  | .tst _ _ sat mode _ =>
    if t.int = true ∧ fmtInt (idFmt (e.arg 0)) = false then none
    else some (t, tileStore t (e.arg 0) (sat = 1) e.nxm (md mode))
  | _ => some (t, [])

/-- The accumulator that a tile instruction names. -/
def tileAcc (i : Instr) : Nat :=
  match i with
  | .tmma t _ _ _ _ _ | .tmmaSat t _ _ _ _ _ | .tmmac t _ _ _ _ _ | .tmmacSat t _ _ _ _ _ | .tmmx t _ _ _ _ _
  | .tadd t _ _ _ | .tmul t _ _ _ | .tact t _ _ | .tred t _ _ | .ttrn t _ | .tcvt t _ _ _ | .tzero t _ _ | .tst t _ _ _ _ => t
  | _ => 0

/-- OPC of a record (R381), and none for an instruction that leaves none. -/
def tileOpc (i : Instr) : Option Nat :=
  match i with
  | .tmma _ _ _ _ _ _ => some 0
  | .tmmaSat _ _ _ _ _ _ => some 1
  | .tmmac _ _ _ _ _ _ => some 2
  | .tmmacSat _ _ _ _ _ _ => some 3
  | .tmmx _ _ _ _ _ _ => some 4
  | .tadd _ _ _ _ => some 8
  | .tmul _ _ _ _ => some 9
  | .tact _ _ _ => some 10
  | .tred _ _ _ => some 11
  | .ttrn _ _ => some 12
  | .tcvt _ _ _ _ => some 13
  | .tzero _ _ _ => some 16
  | .tst _ _ _ _ _ => some 17
  | _ => none

/-- XOP of a record (R381). -/
def tileXop (i : Instr) : Nat :=
  match i with
  | .tact _ fn _ => fn
  | .tred _ op _ => op
  | .tcvt _ ty _ _ => ty
  | .tzero _ ty _ => ty
  | _ => 0

def usesA (opc : Nat) : Bool := decide (opc ≤ 4 ∨ opc = 8 ∨ opc = 9 ∨ opc = 17)
def usesB (opc : Nat) : Bool := decide (opc ≤ 4)

/-! ### The record (R381, R382) -/

/-- A saved operand: its rows and then its scale bytes, as a value and a length. -/
def TData.image (d : TData) : Nat × Nat :=
  let n := rowBytes d.id
  let rows := d.rows.foldr (fun r v => r % 256 ^ n + 256 ^ n * v) 0
  (rows + 256 ^ (n * idRows d.id) * d.scales, operandBytes d.id)

/-- Parts of a payload joined, each padded (R382). -/
def joinParts : List (Nat × Nat) → Nat
  | [] => 0
  | (v, n) :: t => v + 256 ^ pad32 n * joinParts t

/-- The header of a recorded instruction, captured before the instruction's effect (R381). -/
def tileHeader (e : DqEntry) (opc : Nat) (t : Tile) (saved : Bool) : Nat :=
  let a := e.arg 0
  let b := e.arg 1
  let prod := decide (opc ≤ 4)
  let m := if usesA opc then idRows a else 64
  let n := if prod then idCols b else if usesA opc then idCols a else 64
  mkRec [(0, 1, opc), (1, 1, tileXop e.i), (2, 1, tileAcc e.i + 4 * b2n t.int + 8 * b2n e.nxm),
    (3, 1, e.arg 8 + 4 * e.arg 9 + 16 * b2n saved), (4, 1, e.arg 6), (5, 1, e.arg 7), (6, 1, idGrad a), (7, 1, idGrad b),
    (8, 2, idGen a), (10, 2, idGen b), (12, 1, idFmt a % 16 + 16 * (idFmt b % 16)), (13, 1, m), (14, 1, n),
    (16, 2, if prod then idCols a else 0), (20, 4, e.arg 10), (24, 4, e.arg 5)]

/-- The record's writes: payload, then header (R382, R383). -/
def tileRecord (e : DqEntry) (t : Tile) (a b : TData) : List SWrite :=
  match tileOpc e.i with
  | none => []
  | some opc =>
    let (m, n) := if opc = 9 then (idRows a.id, idCols a.id) else (64, 64)
    let saved := decide (opc = 9 ∨ opc = 10) || decide (opc = 11 ∧ tileXop e.i = 1)
    let accImg := (List.range (m * n)).foldr (fun k v => t.at (k / n) (k % n) + 2 ^ 32 * v) 0
    let parts := (if e.arg 8 = 1 then [a.image] else []) ++ (if e.arg 9 = 1 then [b.image] else []) ++
      (if saved then [(accImg, 4 * (m * n))] else [])
    rangeWrites (e.arg 4) (e.arg 10) (joinParts parts) false ++
      rangeWrites (e.arg 4 + e.arg 10) 32 (tileHeader e opc t saved) false

/-! ### One entry executed -/

/-- Operands of a tile instruction that it reads. -/
def State.spanOperands (s : State) (h : Nat) (e : DqEntry) : SpanR (TData × TData) :=
  match tileOpc e.i with
  | none => (s, .ok ({}, {}))
  | some opc =>
    let ra : SpanR TData := if usesA opc ∧ opc ≠ 17 then s.spanTensor h e (e.arg 0) else (s, .ok { id := e.arg 0 })
    match ra with
    | (s1, .error x) => (s1, .error x)
    | (s1, .ok a) =>
      let rb : SpanR TData := if usesB opc then s1.spanTensor h e (e.arg 1) else (s1, .ok { id := e.arg 1 })
      match rb with
      | (s2, .error x) => (s2, .error x)
      | (s2, .ok b) => (s2, .ok (a, b))

/-- The header of a `TMARK` or a FILLER (R379, R383): arguments 4, 5, 10 are its place, SEQ and PLEN. -/
def plainHeader (e : DqEntry) : Nat :=
  if e.filler then mkRec [(0, 1, 0xFE), (20, 4, e.arg 10), (24, 4, e.arg 5)]
  else mkRec [(0, 1, 0xFF), (16, 2, e.arg 0), (24, 4, e.arg 5)]

/-- What an executed entry left. -/
inductive SpanEnd where
  | done (value : Nat)
  | more                 -- a reverse run with records still to process
  | stop (x : Option PFault)
  deriving DecidableEq, Repr

/-- A forward entry executed: the tile's tag judged, then reads, effect, writes (R360, R363, R365). -/
def State.spanForward (s : State) (h : Nat) (e : DqEntry) : State × SpanEnd :=
  if e.filler then
    match s.spanWrites h e (rangeWrites (e.arg 4 + e.arg 10) 32 (plainHeader e) false) with
    | (s1, .error x) => (s1, .stop x)
    | (s1, .ok _) => (s1, .done 0)
  else match fpResult e.i e.nxm e.args with
  | some (_, v) => (s, .done v)
  | none => match e.i with
  | .vdot _ _ _ fmt sat _ => (s, .done (vdotValue fmt (sat = 1) e.nxm (e.arg 0) (e.arg 1) (e.arg 2)))
  | .vclmul _ _ _ hi _ => (s, .done (vclmulValue (hi = 1) (e.arg 0) (e.arg 1)))
  | .tuprog _ _ => (s.onCoreAt h fun c => { c with uprog := BitVec.ofNat 64 (e.arg 0) }, .done 0)
  | .tmark _ =>
    match s.spanWrites h e (rangeWrites (e.arg 4) 32 (plainHeader e) false) with
    | (s1, .error x) => (s1, .stop x)
    | (s1, .ok _) => (s1, .done 0)
  | _ =>
    if (tileEffect e ((s.core h).acc.val (tileAcc e.i) {}) (s.core h).uprog { id := e.arg 0 } { id := e.arg 1 }).isNone then
      (s, .stop (some (.kernel fPERM 0)))
    else match s.spanOperands h e with
    | (s1, .error x) => (s1, .stop x)
    | (s1, .ok (a, b)) =>
      let t := (s1.core h).acc.val (tileAcc e.i) {}
      match tileEffect e t (s1.core h).uprog a b with
      | none => (s1, .stop (some (.kernel fPERM 0)))
      | some (t2, ws) =>
        match s1.spanWrites h e (ws ++ (if e.recorded then tileRecord e t a b else [])) with
        | (s2, .error x) => (s2, .stop x)
        | (s2, .ok _) => (s2.onCoreAt h fun c => { c with acc := c.acc.put (tileAcc e.i) t2 }, .done 0)

end Sys2Proof.Machine
end

