-- ==== Sys2Proof/Machine/Adjoint.lean ====
section
/-! DEFINITION. Record mode and the reverse run (19_adjoint), and the span starting an entry (R136, R363–R365). -/

namespace Sys2Proof.Machine

/-! ### Instructions (R378, R379) -/

/-- TREC. -/
def execTrec (s : State) : Out1 :=
  let c := s.cc
  .next (
    if c.recording then s.retire 4
    else if c.adjPtr.toNat < c.adjBase.toNat ∨ c.adjLimit.toNat < c.adjPtr.toNat then s.adjOvf 0
    else (s.onCC fun c => { c with adjCtl := putBits c.adjCtl 0 0 1 }).retire 4)

/-- TRECE. -/
def execTrece (s : State) : Out1 := .next ((s.onCC fun c => { c with adjCtl := putBits c.adjCtl 0 0 0 }).retire 4)

/-- TMARK: a boundary record in record mode; it opens no window. -/
def execTmark (ra : Nat) (s : State) : Out1 :=
  let c := s.cc
  .next (
    if ¬ c.recording then s.retire 4
    else if c.logFull 32 then s.adjOvf 32
    else if s.dqFull ∨ ¬ s.accReady then s.meetAcq.meet DqEntry.isRev
    else
      let (s1, id) := s.newId
      let pos := c.adjPtr.toNat
      let e := s.dqEntry id 0 (.tmark ra) [(s.g ra).toNat % 65536, 0, 0, 1, pos, c.adjSeq, 0, 0, 0, 0, 0] [] [(pos, 32)]
      (s1.onCC fun c => { c with dq := c.dq ++ [e] }.reserve 32).retire 4)

/-- TREV: a window with the thread's 64 identifiers captured (R385). -/
def execTrev (la : Nat) (s : State) : Out1 :=
  .next (
    if s.cc.recording then s.illegal
    else if s.spanBusy then s.meetAcq.meet DqEntry.isRev
    else (s.enqueue 0 la (.trev la) ((List.range 64).map fun k => (s.cur.rdD k).toNat) [(2 ^ 64, 0)] [(0, 2 ^ 64)]).retire 4)

/-- The entry is a vector instruction, which touches no tile, buffer or memory. -/
def DqEntry.isVec (e : DqEntry) : Bool :=
  match e.i with | .vdot _ _ _ _ _ _ => true | .vclmul _ _ _ _ _ => true | i => (fpDest i).isSome

/-- The entry writes the log. -/
def DqEntry.logs (e : DqEntry) : Bool := decide (e.arg 3 = 1) && !e.isRev && !e.isVec

/-- The core has a record reserved that the span has not written. -/
def Core.logOpen (c : Core) : Bool := c.dq.any DqEntry.logs

/-- TLOGQ. -/
def execTlogq (ra : Nat) (s : State) : Out1 :=
  .next (if s.cur.openG ra then s.lookahead else if s.cc.logOpen then s.meet DqEntry.logs else s.wrNext ra 4 s.cc.adjPtr)

/-! ### A record under the reverse run (R385–R387); `r` is the header's number -/

def hOpc (r : Nat) : Nat := recField r 0 1
def hXop (r : Nat) : Nat := recField r 1 1
def hAcc (r : Nat) : Nat := recField r 2 1 % 4
def hTagB (r : Nat) : Bool := bit (recField r 2 1) 2
def hNxm (r : Nat) : Bool := bit (recField r 2 1) 3
def hFlA (r : Nat) : Nat := recField r 3 1 % 4
def hFlB (r : Nat) : Nat := recField r 3 1 / 4 % 4
def hSaved (r : Nat) : Bool := bit (recField r 3 1) 4
def hM (r : Nat) : Nat := recField r 13 1
def hN (r : Nat) : Nat := recField r 14 1
def hK (r : Nat) : Nat := recField r 16 2
def hPlen (r : Nat) : Nat := recField r 20 4

/-- Fields that an instruction does not use are 0 (R381): a header that breaks this. `FILLER` keeps PLEN alone and `MARK` K
alone, and a payload is a multiple of 32 B. -/
def hUnused (r : Nat) : Bool :=
  let o := hOpc r
  let plain := decide (0xFE ≤ o)
  let a := usesA o
  let b := usesB o
  let flagged := b || decide (o = 8 ∨ o = 9)
  let saves := decide (o = 9 ∨ o = 10 ∨ (o = 11 ∧ hXop r = 1))
  (!(decide (o = 10 ∨ o = 11)) && decide (hXop r ≠ 0 ∧ (hXop r ≠ 1 ∨ (o ≠ 13 ∧ o ≠ 16)))) ||
    (plain && decide (recField r 2 1 ≠ 0 ∨ hM r ≠ 0 ∨ hN r ≠ 0)) ||
    (!flagged && decide (hFlA r ≠ 0)) || (!b && decide (hFlB r ≠ 0)) || (!saves && hSaved r) ||
    (!a && decide (recField r 4 1 ≠ 0 ∨ recField r 6 1 ≠ 0 ∨ recField r 8 2 ≠ 0 ∨ recField r 12 1 % 16 ≠ 0)) ||
    (!b && decide (recField r 5 1 ≠ 0 ∨ recField r 7 1 ≠ 0 ∨ recField r 10 2 ≠ 0 ∨ recField r 12 1 / 16 ≠ 0)) ||
    (!b && decide (o ≠ 0xFF ∧ hK r ≠ 0)) || decide (o = 0xFF ∧ hPlen r ≠ 0) || decide (hPlen r % 32 ≠ 0)

/-- A header is invalid (R385). -/
def hInvalid (r room : Nat) : Bool :=
  !([0, 1, 2, 3, 4, 8, 9, 10, 11, 12, 13, 16, 17, 0xFE, 0xFF].contains (hOpc r)) ||
    decide (recField r 2 1 / 16 ≠ 0 ∨ recField r 3 1 / 32 ≠ 0 ∨ recField r 4 1 / 64 ≠ 0 ∨ recField r 5 1 / 64 ≠ 0 ∨
      recField r 15 1 ≠ 0 ∨ recField r 18 2 ≠ 0 ∨ recField r 28 4 ≠ 0 ∨ room < hPlen r + 32) || hUnused r

/-- A gradient is computed for A, for B (R386). -/
def gradA (r : Nat) : Bool := (usesA (hOpc r)) && decide (hFlA r ≠ 3) && bit (recField r 6 1) 7
def gradB (r : Nat) : Bool := (usesB (hOpc r)) && decide (hFlB r ≠ 3) && bit (recField r 7 1) 7

/-- The adjoint needs the data of A, of B (R387). -/
def needA (r : Nat) : Bool := decide (hOpc r = 9) || (decide (hOpc r ≤ 3) && gradB r)
def needB (r : Nat) : Bool := decide (hOpc r ≤ 3) && gradA r

/-- Rows and columns of A and of B that a header records. -/
def shapeA (r : Nat) : Nat × Nat := (hM r, if hOpc r ≤ 4 then hK r else hN r)
def shapeB (r : Nat) : Nat × Nat := (hK r, hN r)

/-- An entry that lays out a packed saved operand: its format, shape and a pitch without gaps. -/
def packedId (fmt : Nat) (sh : Nat × Nat) : Nat := mkRec [(8, 1, fmt), (12, 2, sh.1), (14, 2, sh.2)]

/-- A saved operand from its bytes (R382). -/
def unpack (fmt : Nat) (sh : Nat × Nat) (v : Nat) : TData :=
  let id := packedId fmt sh
  let n := rowBytes id
  { id := id, rows := (List.range sh.1).map fun r => v / 256 ^ (n * r) % 256 ^ n, scales := v / 256 ^ (n * sh.1) }

def formatA (r : Nat) : Nat := recField r 12 1 % 16
def formatB (r : Nat) : Nat := recField r 12 1 / 16

/-- Padded bytes of A and B in the payload. -/
def partA (r : Nat) : Nat := if hFlA r = 1 then pad32 (operandBytes (packedId (formatA r) (shapeA r))) else 0
def partB (r : Nat) : Nat := if hFlB r = 1 then pad32 (operandBytes (packedId (formatB r) (shapeB r))) else 0

/-- A re-read operand's entry agrees with the header (R385). -/
def agrees (e fmt : Nat) (sh : Nat × Nat) : Bool := decide (idFmt e = fmt ∧ (idRows e, idCols e) = sh)

/-- An entry read over the header's region: R358 places every element of it. -/
def reshape (e : Nat) (sh : Nat × Nat) : Nat := setField (setField e 96 16 sh.1) 112 16 sh.2

/-- An operand's data: from the payload at `off`, or through its identifier (R380). -/
def State.revOperand (s : State) (h : Nat) (e : DqEntry) (flag fmt tid off : Nat) (sh : Nat × Nat) : SpanR TData :=
  if flag = 1 then
    match s.spanRead h e off (operandBytes (packedId fmt sh)) with
    | (s1, .error x) => (s1, .error x)
    | (s1, .ok v) => (s1, .ok (unpack fmt sh v))
  else s.spanTensor h e (reshape (e.arg tid) sh)

/-- A gradient entry passes R386. -/
def State.gradOk (s : State) (h g : Nat) (r : Nat) (fmt : Nat) (sh : Nat × Nat) : Bool :=
  s.identOk h g && decide (idFmt g = (if hTagB r then 5 else 0) ∧ idRows g = sh.1 ∧
    idCols g = (if fmtCx fmt then 2 * sh.2 else sh.2))

/-- The data of one adjoint: the tile's gradient, operands, gradient tensors and the saved accumulator. -/
structure Rev where
  t : Tile := {}
  a : TData := {}
  b : TData := {}
  ga : TData := {}
  gb : TData := {}
  x : Nat := 0

/-- The type the forward tile had after the instruction (R387). -/
def typeAfter (r : Nat) : Bool :=
  if hOpc r = 13 then decide (hXop r % 2 = 0) else if hOpc r = 16 then decide (hXop r % 2 = 1) else hTagB r

/-- A contribution added to a 32-bit element, in FP32 rounded once or in INT32 wrapping (R386). -/
def addTo (int : Bool) (acc : Nat) (p : FVal) (q : Int) : Nat :=
  if int then unsgn 32 (sgn 32 acc + q) else rne32 ((fp32.read acc).add p)

/-- A sum of products added to an element (R386). -/
def sumTo (int : Bool) (acc k : Nat) (p : Nat → FVal) (q : Nat → Int) : Nat :=
  if int then sumInt false acc k q else sumFp false acc k p

/-- The gradient of A (R387): element (i, k), or for complex operands half `c % 2` of element (i, c / 2). -/
def newGradA (r : Nat) (d : Rev) (i c : Nat) : Nat :=
  let int := hTagB r
  let n := hN r
  let old := d.ga.code i c
  let tf := fun (j : Nat) => fp32.read (d.t.at i j)
  let ti := fun (j : Nat) => sgn 32 (d.t.at i j)
  match hOpc r with
  | 0 | 1 => sumTo int old n (fun j => (tf j).mul (d.b.val (hNxm r) c j)) fun j => ti j * d.b.int c j
  | 2 | 3 => sumInt false old n fun j =>
      let br := d.b.re (c / 2) j
      let bi := -(d.b.im (c / 2) j)
      if c % 2 = 0 then ti (2 * j) * br - ti (2 * j + 1) * bi else ti (2 * j) * bi + ti (2 * j + 1) * br
  | 8 => addTo int old (tf c) (ti c)
  | 9 =>
    let x := d.x / 2 ^ (32 * (i * n + c)) % 2 ^ 32
    addTo int old ((tf c).mul (fp32.read x)) (ti c * sgn 32 x)
  | 17 => 0
  | _ => old

/-- The gradient of B (R387). -/
def newGradB (r : Nat) (d : Rev) (k c : Nat) : Nat :=
  let int := hTagB r
  let m := hM r
  let old := d.gb.code k c
  match hOpc r with
  | 0 | 1 => sumTo int old m (fun i => (d.a.val (hNxm r) i k).mul (fp32.read (d.t.at i c)))
      fun i => d.a.int i k * sgn 32 (d.t.at i c)
  | _ => sumInt false old m fun i =>
      let ar := d.a.re i k
      let ai := -(d.a.im i k)
      let tr := sgn 32 (d.t.at i (2 * (c / 2)))
      let tm := sgn 32 (d.t.at i (2 * (c / 2) + 1))
      if c % 2 = 0 then ar * tr - ai * tm else ar * tm + ai * tr

/-- The factor d of the adjoint of TACT for a saved element (R387), FP32. -/
def actFactor (fn x : Nat) : Nat :=
  let one := FVal.fin false 1 0
  let y := actFn fn false x
  let v := fp32.read y
  match fn with
  | 0 => if (FVal.fin false 0 0).lt (fp32.read x) then 0x3F800000 else 0
  | 1 => rne32 (one.add (fp32.read (rne32 (v.mul v))).neg)
  | 2 => rne32 (v.mul (fp32.read (rne32 (one.add v.neg))))
  | _ => rne32 (v.mul (fp32.read 0x3F317218))

/-- The column that takes a row's gradient of TRED.max (R387); `x` is the saved tile. -/
def maxCol (int : Bool) (x i : Nat) : Nat :=
  let el := fun (j : Nat) => x / 2 ^ (32 * (64 * i + j)) % 2 ^ 32
  let m := (List.range 63).foldl (fun m k => if int then fMax 32 m (el (k + 1)) else ffMinMax true fp32 m (el (k + 1)) 0) (el 0)
  let hit := fun (j : Nat) =>
    if int then decide (el j = m)
    else if (fp32.read m).isNan then (fp32.read (el j)).isNan else (fp32.read (el j)).eqv (fp32.read m)
  (firstBelow 64 hit).getD 0

/-- The tile's gradient after a record (R387). -/
def newTile (r : Nat) (d : Rev) : Tile :=
  let t := d.t
  let int := typeAfter r
  let m := hM r
  let n := hN r
  let t1 := match hOpc r with
    | 4 => t.region m n fun _ _ => 0
    | 9 => t.region m n fun i j =>
        if int then unsgn 32 (sgn 32 (t.at i j) * d.a.int i j)
        else rne32 ((fp32.read (t.at i j)).mul (d.a.val (hNxm r) i j))
    | 10 => Tile.make int fun i j =>
        let x := d.x / 2 ^ (32 * (64 * i + j)) % 2 ^ 32
        if int then (if sgn 32 x > 0 then t.at i j else 0)
        else rne32 ((fp32.read (t.at i j)).mul (fp32.read (actFactor (hXop r) x)))
    | 11 =>
      if hXop r = 1 then Tile.make int fun i j => if j = maxCol int d.x i then t.at i 0 else 0
      else Tile.make int fun i _ => t.at i 0
    | 12 => Tile.make int fun i j => t.at j i
    | 13 => tileCvt { t with int := int } (hTagB r) fun _ => .rne
    | 16 => {}
    | 17 => if gradA r then t.region m n fun i j => addTo int (t.at i j) (fp32.read (d.ga.code i j)) (sgn 32 (d.ga.code i j)) else t
    | _ => t
  { t1 with int := hTagB r }

/-- The writes of a gradient tensor: every row of it, from `f` (R359, R386). -/
def gradWrites (g : Nat) (f : Nat → Nat → Nat) : List SWrite :=
  (List.range (idRows g)).flatMap fun i =>
    let v := (List.range (idCols g)).foldl (fun v j => v + f i j % 2 ^ 32 * 2 ^ (32 * j)) 0
    rangeWrites (rowAddr g i) (rowBytes g) (rotate (idRot g) i (rowBytes g) v) false

/-- The byte at an address under a list of writes. -/
def underByte (ws : List SWrite) (a v : Nat) : Nat :=
  match ws.find? fun w => decide (w.va ≤ a ∧ a < w.va + w.size) with
  | some w => w.data / 256 ^ (a - w.va) % 256
  | none => v

/-- A tensor as it reads under a list of writes: a gradient that A's contributions have reached takes B's on top of them
(R386). -/
def TData.under (d : TData) (ws : List SWrite) : TData :=
  let n := rowBytes d.id
  { d with rows := d.rows.zipIdx.map fun p =>
      let raw := rotate (idRot d.id) p.2 n p.1
      rotate (idRot d.id) p.2 n (buildLanes 1 (fun i => underByte ws (rowAddr d.id p.2 + i) (lane raw 1 i)) 0 n) }

/-- Accesses that would read the given ranges. -/
def DqEntry.readsOf (e : DqEntry) (h : Nat) (rs : List (Nat × Nat)) : List Acc :=
  rs.flatMap fun r => (pieces r.1 r.2 (r.2 / 64 + 2)).map fun p => e.acc h p.1 p.2 .load

/-- Every access of a list is located, none performed (R385). -/
def State.spanReach (s : State) : List Acc → SpanR Unit
  | [] => (s, .ok ())
  | a :: t =>
    match s.spanLoc a with
    | (s1, .error x) => (s1, .error x)
    | (s1, .ok _) => s1.spanReach t

/-- A read made only when it is needed. -/
def readIf (c : Bool) (s : State) (f : State → SpanR TData) : SpanR TData := if c then f s else (s, .ok {})

/-- The accumulator saved in a record: its words, where its adjoint reads it (R382, R387). -/
def savedWords (r : Nat) : Nat :=
  if hSaved r ∧ (hOpc r = 9 ∨ hOpc r = 10 ∨ (hOpc r = 11 ∧ hXop r = 1)) then (if hOpc r = 9 then hM r * hN r else 4096) else 0

/-- The accesses of a record's adjoint, which all translate before any is performed: sources, then destinations (R385). -/
def revAccs (h : Nat) (e : DqEntry) (r pay : Nat) : List Acc :=
  let ida := e.arg (recField r 6 1 % 64)
  let idb := e.arg (recField r 7 1 % 64)
  let operand := fun (flag fmt tid off : Nat) (sh : Nat × Nat) =>
    if flag = 1 then [(off, operandBytes (packedId fmt sh))] else idRanges (reshape (e.arg tid) sh)
  let writes := fun (g : Nat) => (gradWrites g fun _ _ => 0).map fun w => e.acc h w.va w.size .store
  e.readsOf h
    ((if needA r then operand (hFlA r) (formatA r) (recField r 4 1) pay (shapeA r) else []) ++
      (if needB r then operand (hFlB r) (formatB r) (recField r 5 1) (pay + partA r) (shapeB r) else []) ++
      (if gradA r then idRanges ida else []) ++ (if gradB r then idRanges idb else []) ++
      [(pay + partA r + partB r, 4 * savedWords r)]) ++
    (if gradA r then writes ida else []) ++ (if gradB r then writes idb else [])

/-- One record's adjoint: every range translated, every source read, then every destination written (R385–R387). `top` is
the pointer past the record. -/
def State.revRecord (s : State) (h : Nat) (e : DqEntry) (r top : Nat) : SpanR Unit :=
  let ida := e.arg (recField r 6 1 % 64)
  let idb := e.arg (recField r 7 1 % 64)
  let pay := top - 32 - hPlen r
  if (gradA r && !s.gradOk h ida r (formatA r) (shapeA r)) || (gradB r && !s.gradOk h idb r (formatB r) (shapeB r)) then
    (s, .error (some (.kernel fPERM 0)))
  else match s.spanReach (revAccs h e r pay) with
  | (s0, .error x) => (s0, .error x)
  | (s0, .ok _) =>
    match readIf (needA r) s0 fun s => s.revOperand h e (hFlA r) (formatA r) (recField r 4 1) pay (shapeA r) with
    | (s1, .error x) => (s1, .error x)
    | (s1, .ok a) =>
      match readIf (needB r) s1 fun s => s.revOperand h e (hFlB r) (formatB r) (recField r 5 1) (pay + partA r) (shapeB r) with
      | (s2, .error x) => (s2, .error x)
      | (s2, .ok b) =>
        match readIf (gradA r) s2 fun s => s.spanTensor h e ida with
        | (s3, .error x) => (s3, .error x)
        | (s3, .ok ga) =>
          match readIf (gradB r) s3 fun s => s.spanTensor h e idb with
          | (s4, .error x) => (s4, .error x)
          | (s4, .ok gb) =>
            match s4.spanRead h e (pay + partA r + partB r) (4 * savedWords r) with
            | (s5, .error x) => (s5, .error x)
            | (s5, .ok x) =>
              let d : Rev := { t := (s5.core h).acc.val (hAcc r) {}, a := a, b := b, ga := ga, gb := gb, x := x }
              let wa := if gradA r then gradWrites ida (newGradA r d) else []
              let wb := if gradB r then gradWrites idb (newGradB r { d with gb := gb.under wa }) else []
              match s5.spanWrites h e (wa ++ wb) with
              | (s6, .error x) => (s6, .error x)
              | (s6, .ok _) => (s6.onCoreAt h fun c => { c with acc := c.acc.put (hAcc r) (newTile r d) }, .ok ())

/-- A field of `ADJ.STAT` set. -/
def State.adjStat (s : State) (h hi lo v : Nat) : State :=
  s.onCoreAt h fun c => { c with adjStat := putBits c.adjStat hi lo v }

def State.setAdjPtr (s : State) (h p : Nat) : State := s.onCoreAt h fun c => { c with adjPtr := BitVec.ofNat 64 p }

/-- The operand whose generation or shape stops a record: ADJSTALE with the operand, or PERM (R385). -/
def revStale (e : DqEntry) (r : Nat) : Option Nat ⊕ Unit :=
  let ea := e.arg (recField r 4 1)
  let eb := e.arg (recField r 5 1)
  let ra := needA r && decide (hFlA r ≠ 1)
  let rb := needB r && decide (hFlB r ≠ 1)
  if ra ∧ idGen ea ≠ recField r 8 2 then .inl (some 1)
  else if rb ∧ idGen eb ≠ recField r 10 2 then .inl (some 2)
  else if (ra ∧ ¬ agrees ea (formatA r) (shapeA r)) ∨ (rb ∧ ¬ agrees eb (formatB r) (shapeB r)) then .inr ()
  else .inl none

/-- TREV over one record (R385). -/
def State.spanReverse (s : State) (h : Nat) (e : DqEntry) : State × SpanEnd :=
  let s := s.adjStat h 3 0 0
  let c := s.core h
  let top := c.adjPtr.toNat
  if top ≤ c.adjBase.toNat then (s.adjStat h 3 0 1, .done 0)
  else match s.spanRead h e (top - 32) 32 with
    | (s1, .error x) => (s1, .stop x)
    | (s1, .ok r) =>
      if hInvalid r (top - c.adjBase.toNat) then (s1, .stop (some (.kernel fPERM (top - 32))))
      else if hOpc r = 0xFF then ((((s1.setAdjPtr h (top - 32)).adjStat h 63 48 (hK r)).adjStat h 3 0 2), .done 0)
      else if hOpc r = 0xFE then (s1.setAdjPtr h (top - 32 - hPlen r), .more)
      else
        let accept := c.adjCtl.getLsbD 1
        match (if accept then .inl none else revStale e r) with
        | .inl (some n) => (s1.adjStat h 9 8 n, .stop (some (.user 7 0)))
        | st =>
          let s2 := s1.onCoreAt h fun c => { c with adjCtl := putBits c.adjCtl 1 1 0 }
          match st with
          | .inr _ => (s2, .stop (some (.kernel fPERM 0)))
          | .inl _ =>
            match s2.revRecord h e r top with
            | (s3, .error x) => (s3, .stop x)
            | (s3, .ok _) => (s3.setAdjPtr h (top - 32 - hPlen r), .more)

/-! ### The order of entries (R363, R365, R383) -/

/-- The result of an instruction of majors 0x24 to 0x26 is written to its thread (R344); `p0` takes nothing. -/
def Thread.fpWrite (t : Thread) (d : VDest) (v : Nat) : Thread :=
  match d with
  | .vec n => t.wrV n (BitVec.ofNat 2048 v)
  | .pred n => if n = 0 then t else t.wrP n (BitVec.ofNat 256 v)

def rangesMeet (a b : List (Nat × Nat)) : Bool := a.any fun x => b.any fun y => rangeHits x.1 x.2 y

/-- The entry writes the inner-loop buffer, or runs it: a discarded one, of which a FILLER is left, does neither (R368, R369). -/
def DqEntry.fills (e : DqEntry) : Bool := match e.i with | .tuprog _ _ => !e.filler | _ => false
def DqEntry.buffer (e : DqEntry) : Bool := match e.i with | .tuprog _ _ => !e.filler | .tmmx _ _ _ _ _ _ => !e.filler | _ => false

/-- A later entry waits for an earlier one: the same accumulator; ranges of which one is written, or any that meet those of a
faulted entry (R365); the inner-loop buffer, where one writes it; a log header of no window, for one that writes the log (R383);
or a reverse run (R390). -/
def DqEntry.waitsFor (b a : DqEntry) : Bool :=
  if a.isVec || b.isVec then false
  else if a.isRev || b.isRev then true
  else
    let hasAcc := fun (e : DqEntry) => (tileOpc e.i).isSome && !e.filler
    (hasAcc a && hasAcc b && decide (tileAcc a.i = tileAcc b.i)) || (a.buffer && b.buffer && (a.fills || b.fills)) ||
      (decide (a.ent = 0) && a.logs && b.logs) ||
      rangesMeet a.writes (b.reads ++ b.writes) || rangesMeet a.reads (if a.faulted then b.reads ++ b.writes else b.writes)

/-- The earlier accesses of the thread that the entry's ranges meet are performed, and no line of them is in the side
log (R174, R190). Nothing starts on a core that is quiesced or has still to replay (R126, R127), for a stopped context
(R69), or on a die that relocks (R21). -/
def State.spanReady (s : State) (h : Nat) (e : DqEntry) : Bool :=
  let rs := if e.isRev then [(0, 2 ^ 64)] else e.reads ++ e.writes
  !(s.core h).quiesce && (s.core h).replay.isEmpty && !s.poolStopped h e.slot && decide (s.relocking ≠ some (dieOf h)) &&
  (s.accs.all fun a => !(decide (a.h = h ∧ a.slot = e.slot ∧ a.id < e.id)) ||
      !(rs.any (rangeHits a.va a.size)) || (match a.st with | .performed _ => true | _ => false)) &&
    !((s.core h).slog.any fun l => rs.any (rangeHits (64 * l.line) 64)) &&
    !((s.core h).slogHeld.any fun a => rs.any (rangeHits a.va a.size))

/-- The entry that a core's queue starts next: its first that is neither faulted nor held behind an earlier one, once its
thread's earlier accesses let it start (R136, R365). -/
def State.nextEntry (s : State) (h : Nat) : Option DqEntry :=
  let q := (s.core h).dq
  match q.find? fun e => !e.faulted && !e.started && !((q.takeWhile fun a => decide (a.id ≠ e.id)).any fun a => e.waitsFor a) with
  | some e => if s.spanReady h e then some e else none
  | none => none

/-- A discarded instruction: a recorded one leaves its FILLER header to write, any other nothing (R365, R383). -/
def DqEntry.discarded (e : DqEntry) : List DqEntry :=
  if e.logs then
    [{ e with ent := 0, faulted := false, filler := true, reads := [], writes := [(e.arg 4 + e.arg 10, 32)] }]
  else []

/-- An entry faulted: its window closes on the fault (R365); that of a thread halted since is discarded (R160). -/
def State.entryFault (s : State) (h : Nat) (e : DqEntry) (f : PFault) : State :=
  if e.ent = 0 then
    let code := match f with | .kernel c _ => c | .user _ _ => fPERM
    let s1 := s.onCoreAt h fun c =>
      { c with dq := c.dq.map fun d => if d.id = e.id then { d with started := true, sent := true } else d }
    if e.sent then s1
    else s1.faultRec h { pc := e.pc, addr := f.addr, code := code, asid := e.asid, tenant := e.tenant, slot := e.slot }
  else if e.orphan then
    s.onCoreAt h fun c => { c with dq := c.dq.flatMap fun d => if d.id = e.id then d.discarded else [d] }
  else
    (s.onCoreAt h fun c => { c with dq := c.dq.map fun d => if d.id = e.id then { d with faulted := true } else d }).onThr h e.slot
      fun t => t.onPend e.ent fun p => { p with fault := some f, missing := p.missing - 1 }

/-- One entry of core `h` started and, for this model, completed; a reverse run goes one record further (R363). Nothing
where one of its accesses has to wait for its turn. -/
def State.runEntry (s : State) (h : Nat) (e : DqEntry) : Option State :=
  match (if e.isRev then s.spanReverse h e else s.spanForward h e) with
  | (_, .stop none) => none
  | (s1, .stop (some f)) => some (s1.entryFault h e f)
  | (s1, .more) => some s1
  | (s1, .done v) =>
    let s2 := s1.onCoreAt h fun c => { c with dq := c.dq.filter fun d => decide (d.id ≠ e.id) }
    some (if e.orphan then s2
      else s2.onThr h e.slot fun t => match fpDest e.i with
        | some d => t.fpWrite d v
        | none => t.arrive e.ent 0 2048 v)

/-- A member's turn at the span: its next entry runs, where it has one and the accesses need not wait. -/
def State.memberRun (s : State) (q h : Nat) : Option State :=
  (s.nextEntry h).bind fun e => (s.onQuad q fun x => { x with rot := h % 4 }).runEntry h e

/-- The members of a quad in the order in which the span takes them: after the one it served last (R136). -/
def State.spanOrder (s : State) (q : Nat) : List Nat := (List.range 4).map fun i => 4 * q + ((s.quad q).rot + 1 + i) % 4

/-- SPAN_ENTRY_START [quad]: the first member whose turn moves something. -/
def State.spanStart (s : State) (q : Nat) : State := ((s.spanOrder q).findSome? (s.memberRun q)).getD s

def execSpanEntryStart (s : State) : Out1 := .next (s.spanStart (s.param 0))

/-- The faulted instructions of a thread that `sel` selects are discarded (R365, R383). -/
def Core.discardFaulted (c : Core) (k : Nat) (sel : DqEntry → Bool) : Core :=
  { c with dq := c.dq.flatMap fun e => if e.slot = k ∧ e.faulted = true ∧ sel e = true then e.discarded else [e] }

end Sys2Proof.Machine
end

