-- ==== Sys2Proof/Machine/Frames.lean ====
section
/-! DEFINITION. The journal (R77), frame transactions, revocation, deadlines and retirement
(R79–R86), CXL.mem accesses of the host (R84), and the host command window's commands that need nothing more
(R72–R75). -/

namespace Sys2Proof.Machine

/-! ### Entries and results (R79, R80) -/

/-- An entry's 128 bits (R79). -/
def Frame.image (e : Frame) : Nat :=
  e.state * 2 ^ 125 + e.owner * 2 ^ 123 + e.borrower * 2 ^ 121 + e.rvk * 2 ^ 119 + b2n e.prot * 2 ^ 118 +
    b2n e.watch * 2 ^ 117 + b2n e.exported * 2 ^ 116 + b2n e.lro * 2 ^ 115 + e.tenant * 2 ^ 104 + e.key * 2 ^ 96 +
    e.seq * 2 ^ 64 + e.deadline * 2 ^ 24 + e.bten * 2 ^ 16

/-- A result doubleword. -/
def txResult (seq status : Nat) : Word := BitVec.ofNat 64 (seq * 2 ^ 32 + status)

/-- `FREC.COUNT`. -/
def frecCount : Nat := 8388608

/-- The transactions of R81 but FQUERY. -/
inductive Tx where
  | offer | withdraw | accept | lend | recall | ret
  deriving DecidableEq, Repr

/-- The argument doubleword is out of range, or uses bits the transaction does not (R80). -/
def Tx.badArg (t : Tx) (p : Nat) (a : Word) : Bool :=
  match t with
  | .accept => decide (wbits a 63 8 ≠ 0 ∨ (p = 0 ∧ a ≠ 0))
  | .lend => decide (wbits a 63 9 ≠ 0 ∨ (p = 1 ∧ wbits a 7 0 ≠ 0))
  | .recall => decide (a.toNat < 1000 ∨ 1000000000 < a.toNat)
  | _ => decide (a ≠ 0)

/-- The issuer is the party that the table of R81 requires. -/
def Tx.issuer (t : Tx) (p : Nat) (e : Frame) : Bool :=
  match t with
  | .accept => decide (e.owner + p = 1)
  | .ret => decide (e.borrower = p + 1)
  | _ => decide (e.owner = p)

/-- The states that R81 requires. -/
def Tx.state (t : Tx) (e : Frame) : Bool :=
  match t with
  | .offer => decide (e.state = 0 ∨ e.state = 1)
  | .withdraw => decide (e.state = 2)
  | .accept => decide (e.state = 2)
  | .lend => decide (e.state = 1)
  | .recall => decide (e.state = 3)
  | .ret => decide (e.state = 3 ∨ e.state = 4)

/-- The entry after a successful transaction, without its SEQ. -/
def Tx.effect (t : Tx) (p ns : Nat) (a : Word) (e : Frame) : Frame :=
  match t with
  | .offer => { e with state := 2, rvk := p + 1 }
  | .withdraw => { e with state := 1 }
  | .accept => { e with owner := p, state := 1, tenant := wbits a 7 0, watch := false, exported := false }
  | .lend => { e with state := 3, borrower := 2 - p, lro := a.getLsbD 8, bten := wbits a 7 0 }
  | .recall => { e with state := 4, deadline := (ns + a.toNat) % 2 ^ 40 }
  | .ret => { e with state := 1, borrower := 0, bten := 0, rvk := p + 1 }

/-- The status of a transaction by party `p`, in the order of R82. -/
def State.txStatus (s : State) (t : Tx) (p : Nat) (req a : Word) : Nat :=
  let f := wbits req 31 0
  let e := s.frame f
  if frecCount ≤ f then 1
  else if t.badArg p a then 2
  else if e.owner = 2 then 3
  else if e.state = 6 then 4
  else if e.state = 5 then 5
  else if wbits req 63 32 ≠ 0 ∧ wbits req 63 32 ≠ e.seq then 6
  else if ¬ t.issuer p e then 7
  else if ¬ t.state e then 8
  else if (t = .offer ∨ t = .lend) ∧ e.prot = true then 9
  else 0

/-! ### Revocation (R83) -/

/-- An invalidation of frame `f` goes to every abutment and to the host port; `notes` are the events that follow its
acknowledgements. -/
def State.revoke (s : State) (f party : Nat) (after : AfterRevoke) (notes : List (Nat × EvRec) := []) : State :=
  let (s1, id) := s.newId
  { s1 with
    revokes := s1.revokes ++ [{ id := id, frame := f, party := party, left := List.range 65, after := after, notes := notes }]
    out := s1.out ++ [.bisnp f] }

/-- A revocation of the frame has acknowledgements outstanding. -/
def State.revoking (s : State) (f : Nat) : Bool := s.revokes.any fun r => decide (r.frame = f)

/-- A completion record of an accepted command, once (R75). -/
def State.completed (s : State) (hseq : Nat) (status : Nat) (vals : List Word) : State :=
  ({ s with cmds := s.cmds.map fun c : Cmd => if c.hseq = hseq then { c with done := true, status := status, recorded := true } else c }).completion
    hseq status vals

/-- What the last acknowledgement releases (R75, R81, R83, R86). -/
def State.revoked (s : State) (r : Revoke) : State :=
  let s1 := r.notes.foldl (fun s n => s.eventTo n.1 n.2) s
  match r.after with
  | .command hseq vals => s1.completed hseq 0 vals
  | _ => s1

/-- An acknowledgement may be given: every access forwarded to the frame has been performed, a request that waits there for a full
word too, and the host's modified lines are written back. One that is held at its abutment translates again before it goes
(R171, R182; log 12). -/
def State.ackReady (s : State) (f who : Nat) : Bool :=
  if who = 64 then !(s.hostDirty.any fun l => decide (l / 1024 = f))
  else s.accs.all fun a => decide (abutOf a.h ≠ who ∨ a.loc / 65536 ≠ f) ||
    (match a.st with | .performed _ => true | .held => true | _ => false)

/-- REVOCATION_ACK [id, who]: cached translations of the frame are dropped; the acknowledgement follows once it may. -/
def State.revokeAck (s : State) (id who : Nat) : State :=
  match s.revokes.find? fun r => decide (r.id = id) with
  | none => s
  | some r =>
    if ¬ r.left.contains who then s
    else
      let s1 : State := if who = 64 then { s with hostChk := s.hostChk.filter fun c => decide (c.1 ≠ r.frame) }
        else { s with xls := s.xls.filter fun x => !(decide (x.abut = who ∧ x.pa / 65536 = r.frame)) }
      if ¬ s1.ackReady r.frame who then s1
      else if r.left = [who] then
        ({ s1 with revokes := s1.revokes.filter fun x => decide (x.id ≠ id) }).revoked r
      else { s1 with revokes := s1.revokes.map fun x => if x.id = id then { x with left := x.left.erase who } else x }

def execRevocationAck (s : State) : Out1 := .next (s.revokeAck (s.param 0) (s.param 1))

/-! ### Transactions (R81) -/

/-- The event of a transaction whose revocation has been acknowledged: OFFERED to the peer, RETURNED to the owner (R81;
that they follow the acknowledgements is DEDUCED from R85 and the example of R86, log 75). -/
def Tx.notes (t : Tx) (p f : Nat) (e : Frame) (res : Word) : List (Nat × EvRec) :=
  let vals := [BitVec.ofNat 64 f, res]
  match t with
  | .offer => [(1 - p, { kind := 1, vals := vals })]
  | .ret => [(e.owner, { kind := 3, vals := vals })]
  | _ => []

/-- A FACCEPT waits while the frame's earlier holder is still being revoked: its issuer sees that holder's writes (R85;
DEDUCED, log 75). -/
def State.txWaits (s : State) (t : Tx) (req : Word) : Bool := decide (t = .accept) && s.revoking (wbits req 31 0)

/-- A transaction of party `p`: the state after its commit and its result; `after` is told when its revocation ends. -/
def State.transact (s : State) (t : Tx) (p : Nat) (req a : Word) (after : Word → AfterRevoke) : State × Word × Bool :=
  let f := wbits req 31 0
  let st := s.txStatus t p req a
  let e := s.frame f
  if st ≠ 0 then (s, txResult (if st = 1 then 0 else e.seq) st, false)
  else
    let e1 := (t.effect p (s.ns 8) a e).bump
    let res := txResult e1.seq 0
    let s1 := s.setFrame f e1
    if t = .offer ∨ t = .ret then (s1.revoke f p (after res) (t.notes p f e res), res, true)
    else ((if t = .recall then s1.eventTo (1 - p) { kind := 2, vals := [BitVec.ofNat 64 f, res] } else s1), res, false)

/-- FQUERY: its result and the entry's two doublewords (R82). -/
def State.query (s : State) (req a : Word) : Word × Word × Word :=
  let f := wbits req 31 0
  let e := s.frame f
  if frecCount ≤ f then (txResult 0 1, 0, 0)
  else if a ≠ 0 then (txResult e.seq 2, 0, 0)
  else if wbits req 63 32 ≠ 0 ∧ wbits req 63 32 ≠ e.seq then (txResult e.seq 6, 0, 0)
  else (txResult e.seq 0, BitVec.ofNat 64 e.image, BitVec.ofNat 64 (e.image / 2 ^ 64))

/-- RECALL_DEADLINE_EXPIRY [frame] (R86). The owner's record has STATUS 19; the borrower's, for which R86 gives none, has STATUS 0
and the 19 in its result only (DESIGN CHOICE, log 75). -/
def State.recallExpire (s : State) (f : Nat) : State :=
  let e := s.frame f
  if f < frecCount ∧ e.state = 4 ∧ reached 40 (s.ns 8) e.deadline = true then
    let b := e.borrower
    let e1 := ({ e with state := 1, borrower := 0, bten := 0, rvk := b }).bump
    let res := txResult e1.seq 19
    let vals := [BitVec.ofNat 64 f, res]
    let s1 := (s.setFrame f e1).revoke f (b - 1) .nothing [(e.owner, { kind := 3, status := 19, vals := vals })]
    let s2 := if b = 1 then s1.setHc hOVR (s1.hc hOVR + 1)
              else (s1.setSr 0x72 0 (s1.srv 0x72 0 + 1)).interrupt (s1.srf 0x77 0 4 0) 4
    s2.eventTo (b - 1) { kind := 4, vals := vals }
  else s

def execRecallDeadlineExpiry (s : State) : Out1 := .next (s.recallExpire (s.param 0))

/-! ### The host port (R84) -/

/-- The fault code of a refusal at the host port. -/
def refusedCode (c : Nat) : Nat := if c = fREVOKED then 10 else if c = fPERM then 11 else 12

/-- A refused access: poison for a read, the REFUSED event (R84). -/
def State.hostRefuse (s : State) (hpa : Nat) (wr : Bool) (f code : Nat) : State :=
  let (s1, n) := s.freshN
  let s2 : State := if wr then s else { s1 with out := s1.out ++ [.hostRead hpa (Config.freeNat n % 2 ^ 512) true] }
  s2.eventTo 0 { kind := 5, status := refusedCode code, vals := [BitVec.ofNat 64 f] }

/-- The lines of a line write that a mask selects. -/
def maskBytes (old new mask : Nat) : Nat :=
  ofBytes ((List.range 64).map fun i => if mask.testBit i then new / 256 ^ i % 256 else old / 256 ^ i % 256)

/-- A CXL.mem access of one line that the frame check passes. -/
def State.hostPerform (s : State) (hpa a op data mask : Nat) : State :=
  let l := a / 64
  if op = 1 then
    let s1 := (s.wrP (64 * l) 64 (maskBytes (s.rdP (64 * l) 64) data mask)).repack (64 * l) false
    { s1 with hostDirty := s1.hostDirty.erase l }
  else
    let s := s.checkRead (64 * l) 64
    let s1 : State := { s with out := s.out ++ [.hostRead hpa (s.rdMem (64 * l) 64) (s.poisoned (64 * l))] }
    if op = 2 then { s1 with hostDirty := l :: s1.hostDirty.erase l } else s1

/-- HOST_CXL_MEM_ACCESS [hpa, op, data, mask]: op 0 a read, 1 a write, 2 a read after which the host may hold the line
modified. The access names a line of the committed decoder's range (R70). A line that the host holds modified is written
back whatever the entry says by now, since the port acknowledges a revocation only after that (R83). Nothing passes while
X0 or the home's stack relocks (R21), or while a migration holds the range (R182). -/
def State.hostAccess (s : State) (hpa op data mask : Nat) : State :=
  match s.hdmBase with
  | none => s
  | some b =>
    if hpa < b ∨ b + 2 ^ 39 ≤ hpa ∨ s.moving (hpa - b) = true ∨ s.relocking = some 16 ∨ s.homeRuns (hpa - b) = false then s
    else if op = 1 ∧ s.hostDirty.contains ((hpa - b) / 64) = true then s.hostPerform hpa (hpa - b) op data mask
    else
      let a := hpa - b
      let f := a / 65536
      let wr := decide (op ≠ 0)
      match s.hostChk.find? fun c => decide (c.1 = f) with
      | some c => if wr && !c.2 then s.hostRefuse hpa (op = 1) f fPERM else s.hostPerform hpa a op data mask
      | none =>
        match s.frameCheck f 0 0 wr with
        | .refuse c => s.hostRefuse hpa (op = 1) f c
        | .grant ro =>
          let e := s.frame f
          let s1 := if e.rvk = 1 then s.setFrame f { e with rvk := 0 } else s
          let s2 : State := { s1 with hostChk := ((f, !ro) :: s1.hostChk).take 4096 }
          if wr && ro then s2.hostRefuse hpa (op = 1) f fPERM else s2.hostPerform hpa a op data mask

def execHostCxlMemAccess (s : State) : Out1 :=
  .next (s.hostAccess (s.param 0) (s.param 1) (s.param 2) (s.param 3))

/-! ### The command window (R72–R75) -/

/-- HCW_ENABLE [v]: a write of `HCW.CTL` with EN set. -/
def execHcwEnable (s : State) : Out1 :=
  let v : Word := BitVec.ofNat 64 (s.param 0)
  let keep : Word := v &&& 0x7FF0002
  let crs := wbits (s.hc hCRS) 4 0
  let ers := wbits (s.hc hERS) 4 0
  .next (
    if ¬ v.getLsbD 0 then s
    else if (s.hc hCTL).getLsbD 0 then s.setHc hCTL (keep ||| 1)
    else if crs < 4 ∨ 16 < crs ∨ ers < 4 ∨ 16 < ers ∨ wbits (s.hc hCRB) 11 0 ≠ 0 ∨ wbits (s.hc hERB) 11 0 ≠ 0 then
      (s.setHc hCTL keep).setHc hSTAT 4
    else ((((s.setHc hCTL (keep ||| 1)).setHc hCPI 0).setHc hCCI 0).setHc hSTAT 0).flush)

/-- HCW_DISABLE [v]: a write of `HCW.CTL` with EN clear. -/
def execHcwDisable (s : State) : Out1 :=
  let v : Word := BitVec.ofNat 64 (s.param 0)
  .next (if v.getLsbD 0 then s else s.setHc hCTL (v &&& 0x7FF0002))

/-- HCW_ECI_WRITE [v]. -/
def execHcwEciWrite (s : State) : Out1 := .next ((s.setHc hECI (BitVec.ofNat 64 (s.param 0))).flush)

/-- What a host read of the command window returns (R72): `HCW.STAT` holds RUNNING, HELD and BADCFG; an offset that is
not listed reads 0. -/
def State.hcRead (s : State) (off : Nat) : Word :=
  if off = hSTAT then
    let run := (s.hc hCTL).getLsbD 0 || s.cmds.any fun (c : Cmd) => !c.recorded
    (s.hc hSTAT &&& 4) ||| BitVec.ofNat 64 (b2n run + 2 * b2n (!s.evHost.waiting.isEmpty))
  else if off = 0x48 then BitVec.ofNat 64 s.evHost.issued
  else if off = 0x60 then BitVec.ofNat 64 s.evHost.lost
  else s.hc off

/-- The commands that complete before the next accepted command starts (R75). -/
def blocking (op : Nat) : Bool := decide (op ≤ 7 ∨ op = 0x20 ∨ op = 0x21 ∨ op = 0x30)

/-- The known operation codes (R74). -/
def knownOp (op : Nat) : Bool := decide (op ≤ 7 ∨ (0x10 ≤ op ∧ op ≤ 0x13) ∨ op = 0x20 ∨ op = 0x21 ∨ op = 0x30)

/-- The operation of a 64-B command; 0xFFFF for one that completes as BADOP. -/
def cmdOp (r : Nat) : Nat :=
  let op := recField r 8 2
  if recField r 10 6 = 0 ∧ knownOp op then op else 0xFFFF

/-- An accepted command that must end before the next starts. -/
def State.cmdBusy (s : State) : Bool := s.cmds.any fun c => c.started && !c.recorded && blocking c.op

/-- An accepted command starts. -/
def State.startCmd (s : State) (c : Cmd) (run : State → Cmd → State) : State :=
  run { s with cmds := s.cmds.map fun x : Cmd => if x.hseq = c.hseq then { x with started := true } else x } c

/-- The journal with an accepted command (R75, R77). -/
def State.accept1 (s : State) (c : Cmd) : State :=
  let j := s.cmds ++ [c]
  { s with cmds := j.drop (j.length - 4096) }.setHc hACC (BitVec.ofNat 64 c.hseq)

/-- A command whose operation `op` is: one accepted before a warm reset and not started since, else the one at the head
of the ring (R73, R75). -/
def State.command (s : State) (op : Nat) (run : State → Cmd → State) : State :=
  if s.cmdBusy then s
  else match s.cmds.find? fun c => !c.started && !c.done with
  | some c => if c.op = op then s.startCmd c run else s
  | none =>
    let cci := (s.hc hCCI).toNat
    if ¬ (s.hc hCTL).getLsbD 0 ∨ (s.hc hCPI).toNat ≤ cci ∨ 256 ≤ s.evHost.waiting.length then s
    else
      let r := s.rdN (hostLoc ((s.hc hCRB).toNat + 64 * (cci % 2 ^ wbits (s.hc hCRS) 4 0))) 64
      if cmdOp r ≠ op then s
      else
        let s1 := s.setHc hCCI (BitVec.ofNat 64 (cci + 1))
        let q := recField r 0 8
        let acc := (s.hc hACC).toNat
        if q = acc + 1 then
          let c : Cmd := { hseq := q, op := op, args := (List.range 6).map fun i => BitVec.ofNat 64 (recField r (16 + 8 * i) 8) }
          (s1.accept1 c).startCmd c run
        else s1.completion q (if q ≤ acc then 16 else 17) []

def Cmd.arg (c : Cmd) (i : Nat) : Word := c.args.getD i 0

/-- HCW_NOP. -/
def execHcwNop (s : State) : Out1 := .next (s.command 0 fun s c => s.completed c.hseq 0 [0])

/-- HCW_BADOP. -/
def execHcwBadop (s : State) : Out1 := .next (s.command 0xFFFF fun s c => s.completed c.hseq 18 [])

/-- A frame transaction of the host: DONE at its commit, its record after the acknowledgements (R75); a waiting FACCEPT
starts again. -/
def State.hostTx (s : State) (op : Nat) (t : Tx) : State :=
  s.command op fun s c =>
    if s.txWaits t (c.arg 0) then
      { s with cmds := s.cmds.map fun x : Cmd => if x.hseq = c.hseq then { x with started := false } else x }
    else match s.transact t 0 (c.arg 0) (c.arg 1) fun res => .command c.hseq [res] with
    | (s1, res, true) =>
      { s1 with cmds := s1.cmds.map fun x => if x.hseq = c.hseq then { x with done := true, status := wbits res 7 0 } else x }
    | (s1, res, false) => s1.completed c.hseq (wbits res 7 0) [res]

/-- HCW_FOFFER. -/
def execHcwFoffer (s : State) : Out1 := .next (s.hostTx 1 .offer)
/-- HCW_FWITHDRAW. -/
def execHcwFwithdraw (s : State) : Out1 := .next (s.hostTx 2 .withdraw)
/-- HCW_FACCEPT. -/
def execHcwFaccept (s : State) : Out1 := .next (s.hostTx 3 .accept)
/-- HCW_FLEND. -/
def execHcwFlend (s : State) : Out1 := .next (s.hostTx 4 .lend)
/-- HCW_FRECALL. -/
def execHcwFrecall (s : State) : Out1 := .next (s.hostTx 5 .recall)
/-- HCW_FRETURN. -/
def execHcwFreturn (s : State) : Out1 := .next (s.hostTx 6 .ret)

/-- HCW_FQUERY: VAL2 and VAL3 hold the entry (R80). -/
def execHcwFquery (s : State) : Out1 :=
  .next (s.command 7 fun s c =>
    let (r, lo, hi) := s.query (c.arg 0) (c.arg 1)
    s.completed c.hseq (wbits r 7 0) [r, 0, lo, hi])

/-- HCW_EVREPLAY (R77). -/
def execHcwEvreplay (s : State) : Out1 :=
  .next (s.command 0x20 fun s c =>
    let q := (c.arg 0).toNat
    let g := s.evHost
    let low := match g.journal with | r :: _ => r.dseq | [] => g.issued + 1
    let rs := g.journal.filter fun r => decide (q < r.dseq)
    let s1 := if q + 1 < low ∧ q < g.issued then
        ({ s with evHost := g.issue { kind := 8, vals := [BitVec.ofNat 64 low] } }).flushHost 8200 else s
    let s2 : State := { s1 with evHost := rs.foldl (fun g r => g.wait { r with flags := 1 }) s1.evHost }
    s2.completed c.hseq 0 [BitVec.ofNat 64 rs.length])

/-- HCW_CMDSTAT (R77). -/
def execHcwCmdstat (s : State) : Out1 :=
  .next (s.command 0x21 fun s c =>
    let v := match s.cmds.find? fun x => decide (x.hseq = (c.arg 0).toNat) with
      | some x => if x.done then 2 + 256 * x.status else 1
      | none => 0
    s.completed c.hseq 0 [BitVec.ofNat 64 v])

/-- HCW_AMSG (R87). -/
def execHcwAmsg (s : State) : Out1 :=
  .next (s.command 0x30 fun s c =>
    if 3840 ≤ s.evAcc.waiting.length then s.completed c.hseq 5 [0]
    else
      (({ s with evAcc := s.evAcc.issue { kind := 7, hseq := c.arg 0, vals := (c.args.drop 1) } }).flushAcc 8200).completed c.hseq 0 [0])

/-! ### The accelerator kernel's ring (R87) -/

/-- FREC_AEVCON_WRITE [v]. -/
def State.aevconWrite (s : State) (v : Word) : State := (s.setSr 0x76 0 v).flush

def execFrecAevconWrite (s : State) : Out1 := .next (s.aevconWrite (BitVec.ofNat 64 (s.param 0)))

/-- FREC_AEV_CONFIG_WRITE [base, size]. -/
def State.aevConfig (s : State) (base size : Word) : State :=
  ((s.setSr 0x73 0 (base &&& 0xFFFFFFFF0000)).setSr 0x74 0 (size &&& 0x1F)).flush

def execFrecAevConfigWrite (s : State) : Out1 :=
  .next (s.aevConfig (BitVec.ofNat 64 (s.param 0)) (BitVec.ofNat 64 (s.param 1)))

end Sys2Proof.Machine
end

