-- ==== Sys2Proof/Machine/Cores.lean ====
section
/-! DEFINITION. Threads starting and halting (R119, R134, R145–R147), gangs (R141–R144), the fault rings (R157), the
system cores' starts and interrupts (R158, R159), WAIT (R399), and the repair of parked threads (R160). -/

namespace Sys2Proof.Machine

/-! ### Starting a thread -/

/-- A slot with a new thread on it: every register 0, its channels kept (R119, R145, R158, R319). -/
def Thread.started (t : Thread) (pc : Word) (role : Role) : Thread :=
  { st := .active, pc := pc, role := role, chans := t.chans, offers := t.offers }

/-- A slot freed: the thread's table and registers are discarded, its channels stay (R146, R319). -/
def Thread.freed (t : Thread) (role : Role) : Thread := { chans := t.chans, offers := t.offers, role := role }

/-- The slot may take a new thread: it is FREE and not between two routines of a group. -/
def Thread.idle (t : Thread) : Bool := decide (t.st = .free ∧ t.role = .none)

/-- The lowest FREE slot of a core. -/
def Core.freeSlot (c : Core) : Option Nat := firstBelow 4 fun k => (c.thr k).idle

/-- Groups of core k's share (R118). -/
def Share.count (x : Share) : Nat := x.g / x.l + b2n (decide (x.k < x.g % x.l))
def Share.first (x : Share) : Nat := x.k * (x.g / x.l) + min x.k (x.g % x.l)

/-- `TASK.LIMIT` at the start of a routine: the entry's TLIM, or `SCHED.TLIM` where that is 0 (R119, R123). -/
def Share.limit (x : Share) (dflt : Nat) : Word := BitVec.ofNat 64 (if x.tlim = 0 then dflt else x.tlim)

/-- `SCHED.TLIM` (R123). -/
def State.schedTlim (s : State) : Nat := s.srf 0xA5 0 31 0

/-- The backing stack of a slot (R119). -/
def Share.stack (x : Share) (slot : Nat) : Word := x.stk + BitVec.ofNat 64 (16384 * (4 * x.k + slot))

/-! ### Halting (R120, R146, R206) -/

/-- Slots with a live thread, or one waiting to start its group's next routine. -/
def Core.busySlots (c : Core) : List Nat := (List.range 4).filter fun k => decide ((c.thr k).role ≠ .none)

/-- The role that a slot keeps when its thread halts: the group's next routine, if there is one. -/
def nextRole (x : Share) (r : Role) : Role :=
  match r with
  | .group g n => if n + 1 < x.nr then .group g (n + 1) else .none
  | _ => .none

/-- What the halt of slot `k` ends: 0 nothing, 1 the routine phase, 2 the share (R120). -/
def Core.haltEnds (c : Core) (k : Nat) : Nat :=
  match c.share with
  | none => 0
  | some x =>
    let others := c.busySlots.filter fun j => decide (j ≠ k)
    let last := decide (nextRole x (c.thr k).role = .none) && others.isEmpty
    let ends := match (c.thr k).role with | .group _ _ => 1 | _ => 0
    if ¬ last then 0
    else if x.phase = 1 ∧ x.done + ends = x.count then 1
    else if x.phase = 3 then 2 else 0

/-- The core after the halt of slot `k`; its clock rises where the halt ends a phase, as `up` does it (R206). -/
def Core.halted (c : Core) (k : Nat) (keep : Option (Nat × Nat)) (up : Core → Core) : Core :=
  let e := c.haltEnds k
  let c1 := { (if e = 0 then c else up c) with haltK := keep }
  let c2 := match c1.gang with | some g => if g.slot = k then c1.leaveGang else c1 | none => c1
  match c2.share with
  | none => c2.setThr k ((c2.thr k).freed .none)
  | some x =>
    let r := nextRole x (c2.thr k).role
    let d := match (c2.thr k).role with | .group _ _ => b2n (decide (r = .none)) | _ => 0
    let c3 := c2.setThr k ((c2.thr k).freed r)
    { c3 with share := some { x with
        done := x.done + d
        phase := if e = 1 then 2 else if e = 2 then 4 else x.phase
        arrClk := if e = 1 then c3.sclk else x.arrClk } }

/-- A core that has arrived at its launch barrier notes which accesses its die had issued by then: `n` is the next
identity (R315, R421). -/
def Core.mark (c : Core) (n : Nat) : Core :=
  match c.share with
  | some x => if x.phase = 2 ∧ x.arrMark = 0 then { c with share := some { x with arrMark := n } } else c
  | none => c

/-- The gang that a halting or splitting leader leads ends: each follower is independent after what is relayed to it
(R144). -/
def State.gangOver (s : State) (h k : Nat) : State :=
  match (s.core h).gang with
  | none => s
  | some g =>
    if g.slot ≠ k ∨ g.leader ≠ h then s
    else ((s.gangMembers h).filter fun m => decide (m ≠ h)).foldl (fun s m => s.onCoreAt m Core.endGang) s

/-- A thread halted (R146). -/
def State.haltAt (s : State) (h k : Nat) (keep : Option (Nat × Nat)) (up : Core → Core) : State :=
  (s.gangOver h k).onCoreAt h fun c => (c.halted k keep up).mark s.nextId

/-- The halt of slot `k` also stands for the increment at the end of the share: nothing runs after the barrier (R206). -/
def Core.haltTwice (c : Core) (k : Nat) : Bool :=
  decide (c.haltEnds k = 1) && (match c.share with | some x => decide (x.move = 0) | none => false)

/-- The halt of slot `k` would raise the clock past its end, by one increment or by the two it stands for (R206). -/
def Core.haltEx (c : Core) (k : Nat) : Bool :=
  decide (c.haltEnds k ≠ 0) && (c.clockEx || (c.haltTwice k && decide (c.sclk + 2 = 0xFFFFFF)))

/-! ### Gangs (R141) -/

/-- The interval of GANG. -/
def gangRange (h n : Nat) : Nat × Nat := (n * (h / n), n)

/-- Live cores of an interval. -/
def State.liveIn (s : State) (r : Nat × Nat) : List Nat := ((List.range r.2).map (r.1 + ·)).filter s.live

/-- The slot of a core whose thread waits in GANG, and its size. -/
def Core.gangWait (c : Core) : Option (Nat × Nat) :=
  (List.range 4).findSome? fun k => match (c.thr k).wait with | .gang n => some (k, n) | _ => none

/-- An arrival elsewhere names an overlapping, different interval. -/
def State.gangClash (s : State) (h n : Nat) : Bool :=
  let r := gangRange h n
  s.cores.any fun p => decide (p.1 ≠ h) && (match p.2.gangWait with
    | some (_, m) => decide (gangRange p.1 m ≠ r) && rangeHits r.1 r.2 (gangRange p.1 m)
    | none => false)

/-- GANG_FORM [h]: every member of the interval waits in GANG; the lowest leads (R141). The GANG counts as issued by each
(R135). -/
def State.gangForm (s : State) (h : Nat) : State :=
  match (s.core h).gangWait with
  | none => s
  | some (_, n) =>
    let ms := s.liveIn (gangRange h n)
    let lead := ms.headD h
    if ms.any fun m => (s.core m).gangWait.map Prod.snd != some n then s
    else ms.foldl (fun s m => match (s.core m).gangWait with
      | some (k, _) =>
        let s1 := s.onThr m k fun t => { t.retire 4 with inGang := true }
        s1.onCoreAt m fun c => { c with gang := some { leader := lead, size := n, slot := k }, relay := [], lastSlot := k }
      | none => s) s

def execGangForm (s : State) : Out1 := .next (s.gangForm (s.param 0))

/-! ### Fault rings (R157) -/

/-- Valid entries of `SVC.CORE`, in index order. -/
def State.svcValid (s : State) : List Nat := (List.range 32).filter fun i => (s.srv 0xB0 i).getLsbD 63

/-- Ring of an address space. -/
def State.faultRing (s : State) (a : Nat) : Nat := s.svcValid.getD ((a ^^^ (a / 256)) % s.svcValid.length) 0

/-- A fault record's 64 bytes (R156). -/
def FRec.image (r : FRec) (h seq : Nat) : Nat :=
  mkRec [(0, 8, r.pc.toNat), (8, 8, r.addr), (16, 2, r.code), (18, 2, r.asid), (20, 1, r.tenant), (21, 1, r.slot), (22, 2, h),
    (24, 8, r.lpc.toNat), (32, 1, r.pent), (40, 8, seq), (48, 8, r.info)]

/-- FAULT_RECORD_DELIVER [h]: the oldest record of a core reaches its ring when the ring is configured and has room. -/
def State.deliverFault (s : State) (h : Nat) : State :=
  match (s.core h).frecs with
  | [] => s
  | r :: rest =>
    let i := s.faultRing r.asid
    let lg := s.srf 0xB2 i 3 0
    let base := s.srf 0xB1 i 47 16 * 65536
    let rpi := (s.srv 0xB3 i).toNat
    if lg < 4 ∨ 12 < lg ∨ base = 0 ∨ 2 ^ lg ≤ rpi - (s.srv 0xB4 i).toNat then s
    else
      let s1 := s.engPut (base + 64 * (rpi % 2 ^ lg)) 64 (r.image h (rpi + 1))
      ((s1.setSr 0xB3 i (BitVec.ofNat 64 (rpi + 1))).onCoreAt h fun c => { c with frecs := rest }).setPend (s.svcCore i) 0

def execFaultRecordDeliver (s : State) : Out1 := .next (s.deliverFault (s.param 0))

/-! ### System cores (R157–R159) -/

/-- SVC_CORE_WRITE [i, v]. -/
def State.svcWrite (s : State) (i : Nat) (v : Word) : State :=
  let h := wbits v 12 0
  let more := (List.range 24).filter fun j => (s.srv 0xB0 (8 + j)).getLsbD 63 && decide (8 + j ≠ i ∧ dieOf (s.srf 0xB0 (8 + j) 12 0) = dieOf h)
  if i < 8 ∨ 32 ≤ i ∨ s.partSeen then s
  else if ¬ v.getLsbD 63 then s.setSr 0xB0 i (BitVec.ofNat 64 h)
  else if ¬ s.live h ∨ s.isSys h ∨ 3 ≤ more.length then s
  else s.setSr 0xB0 i (BitVec.ofNat 64 (2 ^ 63 + h))

def execSvcCoreWrite (s : State) : Out1 := .next (s.svcWrite (s.param 0) (BitVec.ofNat 64 (s.param 1)))

/-- The start address of R155 and R158. -/
def startAddr (v : Word) : Word := canon (wbits v 56 2 * 4)

/-- SYS_START_WRITE [i, v]: the new thread takes the writer's address space. -/
def State.sysStart (s : State) (i : Nat) (v : Word) : State :=
  let h := s.svcCore i
  if ¬ (s.srv 0xB0 i).getLsbD 63 ∨ (s.thr h 0).st ≠ .free then s
  else s.onThr h 0 fun t => { (t.started (startAddr v) .none).writeG 1 (BitVec.ofNat 64 i) with asid := s.cur.asid }

def execSysStartWrite (s : State) : Out1 := .next (s.sysStart (s.param 0) (BitVec.ofNat 64 (s.param 1)))

/-- SYS_IPI_WRITE [i]. -/
def State.sysIpi (s : State) (i : Nat) : State := if (s.srv 0xB0 i).getLsbD 63 then s.setPend (s.svcCore i) 5 else s

def execSysIpiWrite (s : State) : Out1 := .next (s.sysIpi (s.param 0))

/-- The boot thread started at `SYS.BOOT` in ASID 0 with g1 and g2 (R158). -/
def State.bootStart (s : State) (g1 g2 : Word) : State :=
  s.onThr (s.svcCore 0) 0 fun t => ((t.started (startAddr (s.srv 0xE1 0)) .none).writeG 1 g1).writeG 2 g2

/-- BOOT_THREAD_START: the start due after a warm reset (R158). -/
def execBootThreadStart (s : State) : Out1 :=
  .next (if s.bootDue ∧ s.scrubHeld = false ∧ s.srv 0xE1 0 ≠ 0 ∧ (s.thr (s.svcCore 0) 0).st = .free then
      { s with bootDue := false }.bootStart 0 1 else s)

/-- An enabled interrupt is due at core `h` and its slot's thread may take it (R159). -/
def State.intrDue (s : State) (h : Nat) : Bool :=
  let c := s.core h
  let t := c.thr c.ictlSlot
  s.isSys h && c.ictlEn && decide (c.ipend &&& c.imask ≠ 0) && decide (t.st = .active) && !t.trap.act &&
    decide (wbits t.utvec 56 2 ≠ 0)

/-- INTR taken by the interrupt slot's thread before its next instruction (R159). -/
def State.intr (s : State) (h : Nat) : State :=
  let c := s.core h
  s.utrapAt h c.ictlSlot 13 (BitVec.ofNat 64 (c.ipend &&& c.imask)) 0 (c.thr c.ictlSlot).pc 0

/-- INTERRUPT_DELIVERY [h] (R159). -/
def execInterruptDelivery (s : State) : Out1 := .next (if s.intrDue (s.param 0) then s.intr (s.param 0) else s)

/-! ### WAIT (R399) -/

/-- The conditions of WAIT that hold: time, which has passed once it is `over`, message, copy, interrupt. -/
def State.waitBits (s : State) (h k t : Nat) (ctag x : Word) (past : Bool) : Nat :=
  let c := s.core h
  let now := s.dt (dieOf h)
  b2n (past || decide (x ≠ 0 ∧ x.toNat * 65536 ≤ (now + 2 ^ 64 - t) % 2 ^ 64)) +
    2 * b2n ((List.range 8).any fun i => decide ((c.thr k).chans.val i [] ≠ [])) +
    4 * b2n (decide (c.ctag &&& ~~~ctag ≠ 0)) +
    8 * b2n (s.isSys h && decide (c.ipend &&& c.imask ≠ 0))

/-- WAIT_TIMEOUT [h, slot]: the interval of a WAIT has passed, which the thread finds in its own turn (R135, R399). -/
def execWaitTimeout (s : State) : Out1 :=
  let h := s.param 0
  let k := s.param 1
  .next (match (s.thr h k).wait with
    | .waitSince t ctag d x past =>
      if s.waitBits h k t ctag x past % 2 = 1 then s.onThr h k fun th => { th with wait := .waitSince t ctag d x true } else s
    | _ => s)

/-! ### Repair of a parked thread (R160, R365, R310) -/

/-- RESUME: ACTIVE again; the deferred access is issued again; a WATCHDOG's count restarts (R123, R153). -/
def State.resume (s : State) (h k : Nat) : State :=
  let t := s.thr h k
  let (s1, p) := s.reissueAt h false t.pend t.pent
  s1.onThr h k fun t => { t with st := .active, pend := p, cyc := if t.st = SlotSt.parked fWATCHDOG then 0 else t.cyc }

/-- The entry whose fault parked the thread (R153). -/
def Thread.deferred (t : Thread) : Option Pend := if t.pent = 0 then none else t.pend[t.pent - 1]?

/-- RESUMEAT: ACTIVE at an address, without the deferred entry (R160). -/
def State.resumeAt (s : State) (h k : Nat) (pc : Word) : State :=
  (match (s.thr h k).deferred with
   | some e => (s.onCoreAt h fun c => c.discardFaulted k fun d => decide (d.ent = e.id)).onThr h k fun t => t.dropPend e.id
   | none => s).onThr h k fun (t : Thread) =>
    { t with st := .active, pc := pc, cyc := if t.st = SlotSt.parked fWATCHDOG then 0 else t.cyc }

/-- What a halted thread leaves in flight: its waiting and held requests are withdrawn, the values on their way back are
discarded, and those of the others as they are performed (R137, R310). -/
def State.disown (s : State) (h k : Nat) : State :=
  let own := fun (a : Acc) => decide (a.h = h ∧ a.slot = k) && a.kind.returns
  { s with
    accs := (s.accs.filter fun a => !(own a && (match a.st with | .waiting | .held | .performed _ => true | _ => false))).map fun a =>
      if own a then { a with ent := 0 } else a
    quads := s.quads.map fun p => (p.1, { p.2 with sfq := p.2.sfq.filter fun r => !decide (r.h = h ∧ r.slot = k) }) }

/-- What a halting thread leaves: its requests are disowned, its faulted tile instructions discarded, those that fault later
too, and the results of the others (R160, R310, R345, R365). -/
def State.abandon (s : State) (h k : Nat) : State :=
  (s.disown h k).onCoreAt h fun c =>
    let c1 := c.discardFaulted k fun _ => true
    { c1 with dq := c1.dq.map fun d => if d.slot = k then { d with orphan := true } else d }

/-- The halt of a parked thread (R160). -/
def State.haltParked (s : State) (h k : Nat) : State := (s.abandon h k).haltAt h k none Core.tickFree

end Sys2Proof.Machine
end

