-- ==== Sys2Proof/Machine/Replay.lean ====
section
/-! DEFINITION. The replay area of a save record (R127): what quiescence has not let land, as slots of 64 B, and the same read
back. The table gives a slot's content and its first byte; the other places are the model's, and so is what the content leaves
out, which a restore takes from the model's own entry (log 13). -/

namespace Sys2Proof.Machine

/-- What an entry of the replay area stands for: accesses of one line or one request, the rest of a copy, an arrival, whether it
is split-phase, or a dispatched span instruction (R127). -/
inductive Replay where
  | accs (e : SlogEntry)
  | copy (c : Copy)
  | arr (slot : Nat) (split : Bool) (a : Arrival)
  | span (d : DqEntry)
  deriving DecidableEq, Repr

/-- Slots of an entry. -/
def Replay.size : Replay → Nat
  | .span _ => 2
  | _ => 1

/-- The kind of an access's entry: 1 STORE, 2 RED, 3 ATOMIC, 7 WAITF. -/
def Acc.replayKind (a : Acc) : Nat :=
  match a.kind with
  | .store | .stf => 1
  | .amo _ ret => if ret then 3 else 2
  | .ldf | .ldfE => 7
  | .load => 0

/-- An access that quiescence withdraws and saves: an unforwarded atomic, or a full/empty request that waits (R126). -/
def Acc.replays (a : Acc) : Bool :=
  match a.kind, a.st with
  | .amo _ _, .issued => true
  | .amo _ _, .held => true
  | .ldf, .entered _ => false
  | .ldfE, .entered _ => false
  | .ldf, .performed _ => false
  | .ldfE, .performed _ => false
  | .ldf, _ => true
  | .ldfE, _ => true
  | _, _ => false

/-- An access as an entry of its own. -/
def oneAcc (a : Acc) : SlogEntry := { slot := a.slot, asid := a.asid, tenant := a.tenant, line := a.va / 64, accs := [a] }

/-- The stores of a line by halves of 32 B, each of which one STORE slot holds; any other access alone. -/
def SlogEntry.halves (e : SlogEntry) : List SlogEntry :=
  if e.accs.all fun a => decide (a.kind = .store) then
    ([0, 1].map fun b => { e with accs := e.accs.filter fun x => decide (x.va / 32 % 2 = b) }).filter fun x => !x.accs.isEmpty
  else e.accs.map fun a => { e with accs := [a] }

/-- The arrivals of a thread that are withdrawn; the last one is its BAR's where it waits in one. -/
def Thread.withdrawn (t : Thread) (k : Nat) : List Replay :=
  let bar := fun (a : Arrival) => decide (t.wait = .arrived) && (t.arrivals.getLast?.map Arrival.level == some a.level)
  (t.arrivals.filter fun a => a.done.isNone).map fun a => .arr k (!bar a) a

/-- The entries of a core in the order of R126 step 3; `out` are the withdrawn accesses of its threads. -/
def Core.replays (c : Core) (out : List Acc) : List Replay :=
  let own := (c.slog ++ c.slogHeld.map oneAcc ++ c.replay).flatMap SlogEntry.halves
  let all := own ++ out.map oneAcc
  let sel := fun (p : Nat → Bool) => (all.filter fun e => e.accs.any fun a => p a.replayKind).map Replay.accs
  sel (fun k => decide (k = 1 ∨ k = 2)) ++ sel (fun k => decide (k = 3)) ++ c.copies.map Replay.copy ++
    (c.threads.flatMap fun p => p.2.withdrawn p.1) ++ sel (fun k => decide (k = 7)) ++ c.dq.map Replay.span

/-- The entries that `n` slots hold, and the others, which the model keeps beside the record (log 13). -/
def fitSlots : List Replay → Nat → List Replay × List Replay
  | [], _ => ([], [])
  | r :: t, n => if r.size ≤ n then (let (a, b) := fitSlots t (n - r.size); (r :: a, b)) else ([], r :: t)

/-! ### Slots written -/

/-- The place of pending entry `id`: 0 to 3 in the live table, from 4 on in the one that a trap has saved, 8 for none. -/
def Thread.entIx (t : Thread) (id : Nat) : Nat :=
  match t.pend.findIdx? fun e => decide (e.id = id) with
  | some i => i
  | none => match t.trap.pend.findIdx? fun e => decide (e.id = id) with
    | some i => 4 + i
    | none => 8

/-- The operation byte of a slot: an atomic's operation, 1 for LDF.E and for STF. -/
def AccKind.opByte : AccKind → Nat
  | .amo op _ => op
  | .ldfE => 1
  | .stf => 1
  | _ => 0

/-- A STORE slot: address of its 32 B, mask and data. -/
def storeSlot (a : Acc) (l : List Acc) : Nat :=
  mkRec [(0, 1, 1), (1, 1, a.slot), (2, 1, a.kind.opByte),
    (4, 4, l.foldl (fun m x => m ||| (2 ^ x.size - 1) * 2 ^ (x.va % 32)) 0), (8, 8, a.va / 32 * 32),
    (32, 32, l.foldl (fun v x => setField v (8 * (x.va % 32)) (8 * x.size) x.data) 0)]

/-- A RED, ATOMIC or WAITF slot: operation, ordering, scope, size, pending-table entry, address and operands. -/
def requestSlot (c : Core) (a : Acc) : Nat :=
  mkRec [(0, 1, a.replayKind), (1, 1, a.slot), (2, 1, a.kind.opByte), (3, 1, a.ord), (4, 1, a.sc), (5, 1, a.size),
    (6, 1, (c.thr a.slot).entIx a.ent), (8, 8, a.va), (16, 8, a.data), (24, 8, a.data2)]

/-- The slots of an entry as one number. -/
def Replay.image (c : Core) : Replay → Nat
  | .accs e => (match e.accs with
    | [] => 0
    | a :: t => if a.replayKind = 1 then storeSlot a (a :: t) else requestSlot c a)
  | .copy x => mkRec [(0, 1, 4), (1, 1, x.tag), (2, 1, x.slot), (4, 4, x.row), (8, 8, x.src), (16, 8, x.dst), (24, 4, x.rows),
      (28, 4, x.rbytes), (32, 4, x.spitch), (36, 4, x.dpitch), (40, 1, x.tag), (42, 2, x.mcn), (44, 2, x.mck)]
  | .arr k split a => mkRec [(0, 1, 5), (1, 1, k), (2, 1, a.level), (3, 1, b2n split + 2 * b2n a.gen)]
  | .span d => mkRec [(0, 1, 6), (1, 1, d.slot), (2, 1, (c.thr d.slot).entIx d.ent),
      (3, 1, b2n d.nxm + 2 * b2n d.recorded + 4 * b2n d.filler), (4, 4, match encode d.i with | some p => p.1 | none => 0),
      (8, 8, d.arg 4), (16, 4, d.arg 5), (20, 4, d.arg 10), (24, 8, d.arg 2), (32, 34, d.arg 0), (66, 34, d.arg 1)]

/-- The replay area of a list of entries. -/
def areaImage (c : Core) : List Replay → Nat
  | [] => 0
  | r :: t => r.image c % 256 ^ (64 * r.size) + 256 ^ (64 * r.size) * areaImage c t

/-- Slots of a list of entries. -/
def areaSlots (l : List Replay) : Nat := (l.map Replay.size).sum

/-! ### Slots read -/

/-- The identity of the pending entry at a place. -/
def Thread.entOf (t : Thread) (i : Nat) : Nat :=
  match (if i < 4 then t.pend[i]? else t.trap.pend[i - 4]?) with
  | some e => e.id
  | none => 0

/-- The runs of set bits among the low `n` of a mask: first bit and length. -/
def maskRuns (m n : Nat) : List (Nat × Nat) :=
  ((List.range n).foldl (fun l i =>
    if m.testBit i then (match l with
      | (o, k) :: t => if o + k = i then (o, k + 1) :: t else (i, 1) :: l
      | [] => [(i, 1)])
    else l) []).reverse

/-- The ranges of a dispatched tile instruction by what it holds (R364, R383). -/
def DqEntry.ranged (e : DqEntry) : DqEntry :=
  match tileOpc e.i with
  | none => e
  | some opc =>
    let log := if e.recorded then [(e.arg 4, 32 + e.arg 10)] else []
    let ra := if usesA opc then idRanges (e.arg 0) else []
    let rb := if usesB opc then idRanges (e.arg 1) else []
    if e.filler then { e with reads := [], writes := [(e.arg 4 + e.arg 10, 32)] }
    else if opc = 17 then { e with reads := [], writes := ra ++ log }
    else { e with reads := ra ++ rb, writes := log }

/-- A dispatched instruction with what its slots hold: its word, and the captured values of one that has identifiers, a
microprogram or a mark. -/
def DqEntry.reload (d : DqEntry) (t : Thread) (r : Nat) : DqEntry :=
  let i := match decodeFetched (recField r 4 4) with | .ok i => i | .error _ => d.i
  let fl := recField r 3 1
  let mark := match i with | .tmark _ => true | _ => false
  let args :=
    if (tileOpc i).isSome || mark then
      [recField r 32 34, recField r 66 34, recField r 24 8, b2n (bit fl 1), recField r 8 8, recField r 16 4, d.arg 6, d.arg 7,
        d.arg 8, d.arg 9, recField r 20 4]
    else match i with | .tuprog _ _ => [recField r 32 8] | _ => d.args
  let e := { d with ent := t.entOf (recField r 2 1), i := i, args := args, nxm := bit fl 0, filler := bit fl 2,
                    started := false, faulted := false }
  if mark then { e with writes := [(e.arg 4, 32)] } else e.ranged

/-- The entry that a slot, or a pair of them, holds; `d` gives what the slot leaves out where the model has no entry of its own
for it, and `c` the pending tables. -/
def loadSlot (c : Core) (d : Acc) (own : Option Replay) (r : Nat) : List Replay :=
  let slot := recField r 1 1 % 4
  let t := c.thr slot
  let a0 : Acc := match own with | some (.accs e) => e.accs.headD d | _ => d
  let a := { a0 with h := d.h, slot := slot, loc := 0, gone := false, st := .issued }
  let entry := fun (l : List Acc) => [Replay.accs { slot := slot, asid := a.asid, tenant := a.tenant, line := recField r 8 8 / 64, accs := l }]
  let ord := recField r 3 1 % 4
  let req := { a with
    va := recField r 8 8, size := recField r 5 1, strong := true, sc := recField r 4 1, ord := ord
    data := recField r 16 8, data2 := recField r 24 8 }
  let op := recField r 2 1
  match recField r 0 1 with
  | 1 => entry ((maskRuns (recField r 4 4) 32).map fun p =>
      { a with va := recField r 8 8 / 32 * 32 + p.1, size := p.2, kind := if op = 1 then .stf else .store, data := recField r (32 + p.1) p.2 })
  | 2 => entry [{ req with kind := .amo op false, acq := decide (ord % 2 = 1), rel := decide (2 ≤ ord), ent := 0 }]
  | 3 => entry [{ req with kind := .amo op true, acq := decide (ord % 2 = 1), rel := decide (2 ≤ ord), ent := t.entOf (recField r 6 1) }]
  | 7 => entry [{ req with kind := if op = 1 then .ldfE else .ldf, acq := true, ent := t.entOf (recField r 6 1) }]
  | 4 =>
    let x : Copy := match own with | some (.copy x) => x | _ => { id := d.id, asid := d.asid, tenant := d.tenant }
    [.copy { x with slot := op % 4, row := recField r 4 4, src := recField r 8 8, dst := recField r 16 8, rows := recField r 24 4,
                    rbytes := recField r 28 4, spitch := recField r 32 4, dpitch := recField r 36 4, tag := recField r 1 1 % 64
                    mcn := recField r 42 2, mck := recField r 44 2 }]
  | 5 =>
    let x : Arrival := match own with | some (.arr _ _ x) => x | _ => { clk := c.sclk }
    [.arr slot (bit (recField r 3 1) 0) { x with level := op, gen := bit (recField r 3 1) 1 }]
  | 6 => (match own with
    | some (.span x) => [.span ({ x with slot := slot }.reload t r)]
    | _ => match decodeFetched (recField r 4 4) with
      | .ok i => [.span ({ id := d.id, slot := slot, i := i, asid := d.asid, tenant := d.tenant : DqEntry }.reload t r)]
      | .error _ => [])
  | _ => []

/-- The entries of a replay area of `n` slots, each beside the model's own entry in its place; `skip` is the second slot of a
pair. An entry that the model has none for takes a fresh identity from `d` on. -/
def loadArea (c : Core) (d : Acc) (own : List Replay) (v : Nat) (skip : Bool) : Nat → List Replay
  | 0 => []
  | n + 1 =>
    if skip then loadArea c d own (v / 256 ^ 64) false n
    else loadSlot c { d with id := d.id + n } own.head? (v % 256 ^ 128) ++
      loadArea c d own.tail (v / 256 ^ 64) (decide (v % 256 = 6)) n

/-- An entry of the model's own on the core that restores it. -/
def Replay.moved (h : Nat) : Replay → Replay
  | .accs e => .accs { e with accs := e.accs.map fun a => { a with h := h, loc := 0, gone := false, st := .issued } }
  | .span d => .span { d with started := false, faulted := false }
  | r => r

/-- A thread with its arrivals made again (R127). -/
def Thread.rearrive (t : Thread) (l : List (Bool × Arrival)) : Thread :=
  let past := (t.arrivals.getLast?.map fun a => a.done.isSome) == some true
  { t with
    arrivals := (t.arrivals.filter fun a => a.done.isSome) ++ l.map Prod.snd
    wait := if l.any fun p => !p.1 then .arrived else if t.wait = .arrived ∧ past = false then .none else t.wait }

/-- A dispatched instruction that had faulted is saved as unstarted: its entry waits for it again (R365). -/
def Core.unstart (c : Core) : Core :=
  (c.dq.filter fun d => d.faulted).foldl (fun c d =>
    c.setThr d.slot ((c.thr d.slot).onPend d.ent fun p => { p with fault := none, missing := p.missing + 1 })) c

/-- A core with the entries of a replay area: its accesses are still to be replayed, its copies, arrivals and span instructions
stand again (R127, R130). -/
def Core.withReplay (c : Core) (l : List Replay) : Core :=
  let arrs := fun (k : Nat) => l.filterMap fun r => match r with | .arr j sp a => if j = k then some (sp, a) else none | _ => none
  { c.unstart with
    slog := [], slogHeld := []
    replay := l.filterMap fun r => match r with | .accs e => some e | _ => none
    copies := l.filterMap fun r => match r with | .copy x => some x | _ => none
    dq := l.filterMap fun r => match r with | .span d => some d | _ => none
    threads := c.unstart.threads.map fun p => (p.1, p.2.rearrive (arrs p.1)) }

end Sys2Proof.Machine
end

