-- ==== Sys2Proof/Machine/Share.lean ====
section
/-! DEFINITION. Shares on a core: start, routines, the launch barrier, end and retention (R117–R121, R147), and their
quiescence, save and restore (R126–R131). -/

namespace Sys2Proof.Machine

/-! ### Clearing a core -/

/-- The local store of a core and its deck share cleared, words empty (R147). -/
def State.clearStores (s : State) (h : Nat) : State :=
  (s.clearRange (lsLoc h 0) 65536).clearRange (deckLoc (h / 4) (h % 4 * 0x20000)) 0x20000

/-- The registers that a share's start, or LSCLR, sets to 0 unless the local store is retained (R147, R355, R377). -/
def Core.clearRegs (c : Core) : Core :=
  { c with adjBase := 0, adjLimit := 0, adjPtr := 0, adjCtl := 0, adjStat := 0, acc := [], uprog := 0 }

/-- The core with no share: what outlives a share is kept. -/
def Core.bare (c : Core) : Core :=
  { sclk := c.sclk, clkEx := c.clkEx, msgDisc := c.msgDisc, slogDrop := c.slogDrop, frecs := c.frecs, lastSlot := c.lastSlot,
    lastK := c.lastK }

/-! ### A share's start (R117–R119, R147) -/

/-- Fields of a queue entry (R108). -/
def enDesc (e : Nat) : Nat := recField e 0 8
def enWfc (e : Nat) : Nat := recField e 8 2
def enDfc (e : Nat) : Nat := recField e 10 2
def enPart (e : Nat) : Nat := recField e 12 1
def enFlags (e : Nat) : Nat := recField e 13 1
def enVec (e : Nat) : Nat := recField e 14 1
def enLvl (e : Nat) : Nat := recField e 15 1
def enWval (e : Nat) : Nat := recField e 16 8
def enDinc (e : Nat) : Nat := recField e 24 8
def enG (e : Nat) : Nat := recField e 32 4
def enLog (e i : Nat) : Nat := recField e (36 + i) 1
def enArg (e : Nat) : Nat := recField e 40 8
def enTlim (e : Nat) : Nat := recField e 48 4

/-- Share k of a launch, as the core starts it. -/
def Launch.share (l : Launch) (k : Nat) : Share :=
  { q := l.q, lhead := l.lhead, part := l.part, tenant := l.tenant, asid := l.asid, k := k, l := l.members.length,
    g := enG l.entry, phase := 1, lvl := enLvl l.entry, nr := recField l.desc 16 1,
    pcs := (List.range 5).map fun i => BitVec.ofNat 64 (recField l.desc (24 + 8 * i) 8),
    move := BitVec.ofNat 64 (recField l.desc 0 8), stk := BitVec.ofNat 64 (recField l.desc 8 8),
    desc := BitVec.ofNat 64 (enDesc l.entry), arg := BitVec.ofNat 64 (enArg l.entry),
    tlim := enTlim l.entry, nxm := bit (enFlags l.entry) 1 }

/-- Domain `j` (1–3) of the core at `h`, within the partition's interval (R119, R139). -/
def domWord (h log base len : Nat) : Word :=
  let lo := max (2 ^ log * (h / 2 ^ log)) base
  let hi := min (2 ^ log * (h / 2 ^ log + 1)) (base + len)
  BitVec.ofNat 64 (2 ^ 63 + (hi - lo) * 2 ^ 32 + lo)

/-- The contents kept for a successor's share (R147). -/
def Core.retains (c : Core) (l : Launch) : Bool :=
  match c.retain with
  | some r => decide (r.tenant = l.tenant ∧ r.q = l.q ∧ r.entry = l.lhead)
  | none => false

/-- A core with no groups to run arrives at the launch barrier at once (R120). -/
def Core.emptyShare (c : Core) : Core :=
  match c.share with
  | some x =>
    if x.count = 0 ∧ x.phase = 1 then
      (let c1 := c.tickFree
       { c1 with share := some { x with phase := 2, arrClk := c1.sclk } })
    else c
  | none => c

/-- What reached a share before it began reaches its core: the offers to its channels and the multicast copies that wait
for its permits (R318, R327). -/
def State.deliverEarly (s : State) (h : Nat) (l : Launch) (k : Nat) : State :=
  let s1 := (l.early.filter fun e => decide (e.k = k)).foldl (fun s e => s.offerTo (.at h) k e.slot e.chan e.m) s
  (s1.onCoreAt h fun c =>
      { c with mcWait := c.mcWait ++ (l.earlyMc.filter fun e => decide (e.1 = k)).map fun e => e.2 }).onLaunch l.q l.lhead
    fun l => { l with early := l.early.filter fun e => decide (e.k ≠ k), earlyMc := l.earlyMc.filter fun e => decide (e.1 ≠ k) }

/-- The share of a launch begins on its core. Its domains are those of the logical core it is, at its place and in the
partition's interval at the commit, whichever core runs it (R119, R120, R131; DEDUCED, log 57). -/
def State.beginShare (s : State) (h : Nat) (l : Launch) (k : Nat) : State :=
  let c := s.core h
  let kept := c.retains l
  let c1 := if kept then { c with retain := none } else c.bare.clearRegs
  let dom := fun (i : Nat) => domWord (l.members.getD k h) (enLog l.entry i) l.base l.len
  (s.setCore h ((({ c1 with
    threads := [], share := some { l.share k with started := s.ns (dieOf h) }, nxm := bit (enFlags l.entry) 1, ctag := 0, ctagErr := 0
    permit := none, pcount := 0, ret := kept, haltK := none, lastK := k
    dom := [(1, dom 0), (2, dom 1), (3, dom 2)] }.acquire l.wclk).emptyShare).mark s.nextId)).deliverEarly h l k

/-- Share k of a launch has begun: a core runs it, or it is saved. -/
def State.begun (s : State) (l : Launch) (k : Nat) : Bool :=
  (s.saved.any fun v => decide (v.q = l.q ∧ v.lhead = l.lhead ∧ v.k = k)) ||
    (s.cores.any fun p => match p.2.share with
      | some x => decide (x.q = l.q ∧ x.lhead = l.lhead ∧ x.k = k)
      | none => false)

/-- The first share of a launch that core `h` holds and that has neither begun nor ended. -/
def State.unbegun (s : State) (h : Nat) (l : Launch) : Option Nat :=
  (List.range l.members.length).find? fun k => decide (l.where_.getD k 0 = h) && !l.ended.contains k && !s.begun l k

/-- The launch whose share core `h` may begin: resident, and accepted by the die of the core that was dealt it. -/
def State.toBegin (s : State) (h : Nat) : Option (Launch × Nat) :=
  s.launches.findSome? fun l =>
    if l.saved ∨ l.stopping ≠ 0 then none
    else match s.unbegun h l with
      | some k => if l.acked.testBit (dieOf (l.members.getD k 0)) then some (l, k) else none
      | none => none

/-- A thread with the registers of R119; `dflt` is `SCHED.TLIM`. -/
def Thread.routine (t : Thread) (x : Share) (dflt slot : Nat) (pc g1 : Word) (role : Role) : Thread :=
  let t1 := t.started pc role
  let w := fun (t : Thread) (n : Nat) (v : Word) => t.writeG n v
  { w (w (w (w (w (w t1 1 g1) 2 x.arg) 3 (BitVec.ofNat 64 x.k)) 4 (BitVec.ofNat 64 x.l)) 5 x.desc) 6 (BitVec.ofNat 64 x.lhead) with
    wbsp := x.stack slot, asid := x.asid, limit := x.limit dflt }

/-- The next routine of a core's share: the next of a group whose slot waits for it, else the first of the next group on
the lowest free slot (R119). -/
def Core.dispatch (c : Core) (dflt : Nat) : Core :=
  match c.share with
  | none => c
  | some x =>
    let waiting := (List.range 4).findSome? fun k => match (c.thr k).st, (c.thr k).role with
      | .free, .group g n => some (k, g, n)
      | _, _ => none
    match waiting with
    | some (k, g, n) => c.setThr k ((c.thr k).routine x dflt k (x.pcs.getD n 0) (BitVec.ofNat 64 g) (.group g n))
    | none =>
      match c.freeSlot with
      | some k =>
        if x.phase = 1 ∧ x.next < x.count then
          (let g := x.first + x.next
           { c.setThr k ((c.thr k).routine x dflt k (x.pcs.getD 0 0) (BitVec.ofNat 64 g) (.group g 0)) with
             share := some { x with next := x.next + 1 } })
        else c
      | none => c

/-- A core that leaves its partition takes no share (R95, R96). -/
def State.leavingCore (s : State) (h : Nat) : Bool :=
  s.exclBusy.contains h || s.parts.any fun p => p.2.leaving.contains h

/-- SHARE_DISPATCH [h]: a core without a share begins the one dealt to it, once any other retention has ended; a core
with one starts its next routine. -/
def State.shareDispatch (s : State) (h : Nat) : State :=
  let c := s.core h
  if c.quiesce ∨ c.replay ≠ [] then s
  else match c.share with
  | some _ => s.onCoreAt h fun c => c.dispatch s.schedTlim
  | none =>
    match s.toBegin h with
    | some (l, k) =>
      if (c.retain.isSome ∧ ¬ c.retains l) ∨ s.leavingCore h = true then s else s.beginShare h l k
    | none => s

def execShareDispatch (s : State) : Out1 := .next (s.shareDispatch (s.param 0))

/-! ### The launch barrier (R120, R421) -/

/-- What core `h` released by its arrival at a launch barrier of a scope has reached the scope's point, side log included:
at `.pkg` with every access that its die had issued by then (R30, R194, R315, R421). -/
def State.coreReleased (s : State) (h sc mark : Nat) : Bool :=
  let c := s.core h
  c.slog.isEmpty && c.slogHeld.isEmpty && c.replay.isEmpty && c.dq.isEmpty &&
    if sc ≤ 2 then s.accs.all fun a => decide (a.h ≠ h) || a.reached sc
    else (s.accs.all fun a => decide (a.h ≠ h) || (match a.st with | .waiting | .performed _ => true | _ => false)) &&
      (tokenSet sc).all fun d => s.tokenReady (dieOf h) mark d

/-- The share of logical core k has arrived at its launch barrier, with its release done, where it runs, where it is saved,
or by its end. -/
def State.launchArrived (s : State) (l : Launch) (sc k : Nat) : Bool :=
  l.ended.contains k ||
    (s.cores.any fun p => match p.2.share with
      | some x => decide (x.q = l.q ∧ x.lhead = l.lhead ∧ x.k = k ∧ 2 ≤ x.phase) &&
          (decide (x.phase ≠ 2) || s.coreReleased p.1 sc x.arrMark)
      | none => false) ||
    (s.saved.any fun v => decide (v.q = l.q ∧ v.lhead = l.lhead ∧ v.k = k) && v.core.slogCount == 0 && v.replayed.isEmpty &&
      v.core.dq.isEmpty &&
      (match v.core.share with | some x => decide (2 ≤ x.phase) | none => false))

/-- The largest arrival clock among the members of a launch barrier. -/
def State.arrivalClk (s : State) (l : Launch) (ks : List Nat) : Nat :=
  let of := fun (c : Core) => match c.share with
    | some x => if x.q = l.q ∧ x.lhead = l.lhead ∧ ks.contains x.k = true then x.arrClk else 0
    | none => 0
  (s.saved.map fun v => of v.core).foldl max ((s.cores.map fun p => of p.2).foldl max 0)

/-- A member core passes the barrier, which flips its domain's phase (R139): its data-movement routine starts on slot 0, or
the phase is empty and the share is over (R120). -/
def Core.pastBarrier (c : Core) (clk dflt : Nat) : Core :=
  match c.share with
  | none => c
  | some x =>
    let c1 := c.completed x.lvl clk false
    if x.move = 0 then { c1.tickFree with share := some { x with phase := 4 } }
    else
      { c1.setThr 0 ((c1.thr 0).routine x dflt 0 x.move (BitVec.ofNat 64 x.count) .move) with share := some { x with phase := 3 } }

/-- LAUNCH_BARRIER_COMPLETE [h]. A saved share passes once it is restored, with the clock of those that it waited for. -/
def State.launchBarrier (s : State) (h : Nat) : State :=
  match (s.core h).share with
  | none => s
  | some x =>
    match s.launchOf x with
    | none => s
    | some l =>
      let ks := (s.barMembers h x x.lvl).map Prod.fst
      let sc := s.scopeAt h x.lvl
      if x.phase ≠ 2 ∨ ¬ ks.all (s.launchArrived l sc) then s
      else
        let clk := s.arrivalClk l ks
        let hit : Core → Bool := fun c => match c.share with
          | some y => decide (y.q = l.q ∧ y.lhead = l.lhead ∧ y.phase = 2) && ks.contains y.k
          | none => false
        let raised := fun (c : Core) => { c with share := c.share.map fun y => { y with arrClk := max y.arrClk clk } }
        { s with cores := s.cores.map fun p => 
                   (p.1, if hit p.2 then (if p.2.quiesce then raised p.2 else p.2.pastBarrier clk s.schedTlim) else p.2)
                 saved := s.saved.map fun v => if hit v.core then { v with core := raised v.core } else v }

def execLaunchBarrierComplete (s : State) : Out1 := .next (s.launchBarrier (s.param 0))

/-! ### The end of a share (R120 step 4, R147, R319) -/

/-- Nothing of the core is still on its way: accesses, side log, span, copies (R111). -/
def State.coreDrained (s : State) (h : Nat) : Bool :=
  let c := s.core h
  s.accs.all (fun a => decide (a.h ≠ h)) && c.slog.isEmpty && c.slogHeld.isEmpty && c.replay.isEmpty && c.dq.isEmpty && c.copies.isEmpty

/-- Messages and offers left at a core's channels: their number and the offers' identities. -/
def Core.leftMessages (c : Core) : Nat × List Nat :=
  let ms := c.threads.flatMap fun p => p.2.chans.flatMap fun q => q.2
  let os := c.threads.flatMap fun p => p.2.offers.flatMap fun q => q.2
  (ms.length + os.length, os.map fun m => m.id)

/-- The messages at a core's channels discarded: counted, and their senders may go on (R319). -/
def State.dropMessages (s : State) (h : Nat) : State :=
  let (n, ids) := (s.core h).leftMessages
  ids.foldl (fun s i => s.accepted (some { id := i }))
    (s.onCoreAt h fun c => { c.discard n with threads := c.threads.map fun p => (p.1, { p.2 with chans := [], offers := [] }) })

/-- `SCHED.RETW` in nanoseconds (R147). -/
def State.retWindow (s : State) : Nat :=
  let v := s.srf 0xA7 0 31 0
  1000 * (if v = 0 then 100 else min v 10000)

/-- Whether the end of a share may begin a retention: not while the core is quiesced, its launch ends or its tenant is reset,
which end every retention there (R97, R147). -/
def State.mayRetain (s : State) (h : Nat) (x : Share) : Bool :=
  !(s.core h).quiesce && (match s.launchOf x with | some l => decide (l.stopping = 0) | none => true) && decide (s.tenState x.tenant ≠ 2)

/-- SHARE_END [h]. -/
def State.shareEnd (s : State) (h : Nat) : State :=
  let c := s.core h
  match c.share with
  | none => s
  | some x =>
    if x.phase ≠ 4 ∨ ¬ s.coreDrained h ∨ c.busySlots ≠ [] then s
    else
      let s1 := s.dropMessages h
      let keep := match c.haltK with
        | some (i, n) => if i < s.tenQn x.tenant ∧ s.mayRetain h x then some (s.tenQbase x.tenant + i, n) else none
        | none => none
      let s2 := match keep with
        | some (q, n) => s1.onCoreAt h fun c =>
            let b := c.bare
            { b with adjBase := c.adjBase, adjLimit := c.adjLimit, adjPtr := c.adjPtr, adjCtl := c.adjCtl, adjStat := c.adjStat
                     acc := c.acc, uprog := c.uprog
                     retain := some { tenant := x.tenant, q := q, entry := n, deadline := s1.ns (dieOf h) + s1.retWindow } }
        | none => (s1.onCoreAt h Core.bare).clearStores h
      { s2 with launches := s2.launches.map fun (l : Launch) =>
          if l.q = x.q ∧ l.lhead = x.lhead then { l with ended := l.ended ++ [x.k], clk := max l.clk c.sclk } else l }

def execShareEnd (s : State) : Out1 := .next (s.shareEnd (s.param 0))

/-- Retained contents cleared (R147). -/
def State.endRetention (s : State) (h : Nat) : State :=
  if (s.core h).retain.isSome then (s.onCoreAt h Core.bare).clearStores h else s

/-- RETENTION_EXPIRY [h]. -/
def execRetentionExpiry (s : State) : Out1 :=
  let h := s.param 0
  .next (match (s.core h).retain with
    | some r => if reached 48 (s.ns (dieOf h)) r.deadline then s.endRetention h else s
    | none => s)

/-! ### The save record (R128, R129) -/

/-- Full/empty bits of `n` words from a location, bit i for word i. -/
def State.fullBits (s : State) (loc n : Nat) : Nat :=
  (List.range n).foldl (fun v i => if s.full (loc + 4 * i) then v + 2 ^ i else v) 0

/-- Elements of an array of `n` elements of `sz` bytes as one number. -/
def packArr (n sz : Nat) (f : Nat → Nat) : Nat := (List.range n).foldr (fun i v => f i % 256 ^ sz + 256 ^ sz * v) 0

/-- Numbers as consecutive doublewords. -/
def dwords (l : List Nat) : Nat := l.foldr (fun x v => x % 2 ^ 64 + 2 ^ 64 * v) 0

/-- A slot state and its parked fault code as two numbers (places: log 13). -/
def SlotSt.nums : SlotSt → List Nat
  | .free => [0, 0]
  | .active => [1, 0]
  | .parked c => [2, c]

def SlotSt.ofNums (n c : Nat) : SlotSt := if n = 0 then .free else if n = 1 then .active else .parked (c % 256)

/-- The vector or identifier value of a landed entry, in its slot of 1 KiB (R129); that of a taken message holds its tag and
its clock (R322; places: log 13). -/
def Pend.areaVal (e : Pend) : Nat :=
  match e.dest with
  | .vector _ => if e.landed then e.value % 2 ^ 2048 else 0
  | .ident _ => if e.landed then e.value % 2 ^ 512 else 0
  | .scalar _ => if e.landed ∧ e.chan.isSome then dwords [b2n e.msgTag, e.clk] else 0
  | .none => if e.landed ∧ e.chan.isSome then dwords [b2n e.msgTag, e.clk] else 0
  | .tile => 0

/-- The value slots of a pending table (R129). -/
def areaVals (l : List Pend) : Nat := packArr 4 1024 fun i => match l[i]? with | some e => e.areaVal | none => 0

/-- A channel's messages: four of 32 B, each a payload, a tag, a clock and whether it is valid (R129). -/
def chanImage (l : List Msg) : Nat :=
  packArr 4 32 fun i => match l[i]? with
    | some m => dwords [m.payload.toNat, b2n m.nxm, m.clk, 1]
    | none => 0

/-- The thread's outstanding offer, wherever it waits: destination, payload, tag and clock (R129, R320). -/
def State.offerImage (s : State) (id : Nat) : Nat :=
  let waiting := fun (c : Core) => c.threads.flatMap fun (p : Nat × Thread) => p.2.offers.flatMap fun (q : Nat × List Msg) =>
    (q.2.filter fun m => decide (m.id = id)).map fun m =>
      dwords [(match c.share with | some x => x.k | none => 0) + p.1 * 2 ^ 16 + q.1 * 2 ^ 20, m.payload.toNat, b2n m.nxm, m.clk]
  let early := s.launches.flatMap fun (l : Launch) => (l.early.filter fun e => decide (e.m.id = id)).map fun e =>
    dwords [e.k + e.slot * 2 ^ 16 + e.chan * 2 ^ 20, e.m.payload.toNat, b2n e.m.nxm, e.m.clk]
  if id = 0 then 0
  else ((s.cores.flatMap fun (p : Nat × Core) => waiting p.2) ++ (s.saved.flatMap fun (v : Saved) => waiting v.core) ++ early).headD 0

/-- A thread block: offset, size and value of its parts, the zeros between them first (R129). The places of the thread
registers among each other are the model's (log 13). -/
def State.blockImage (s : State) (t : Thread) : List (Nat × Nat × Nat) :=
  (0, 0xC000, 0) :: (0x1800, 0x400, packArr 8 128 fun c => chanImage (t.chans.val c [])) ::
  if t.st = .free then []
  else
    [(0, 0x80, dwords ([t.trapStat, t.trap.pc.toNat, t.trap.info.toNat, t.trap.lpc.toNat, t.trap.rep.toNat] ++
        (List.range 4).map t.trapPend ++ (List.range 4).map fun i => (t.trapVal i).toNat)),
     (0x80, 0x80, dwords (t.st.nums ++ [t.pc.toNat, t.asid, t.low * 65536 + t.base, t.wbsp.toNat, t.wprog, t.rep.toNat,
        t.utvec.toNat, t.limit.toNat, t.cyc])),
     (0x100, 0x100, packArr 4 64 fun i => dwords [pendWord t.pend i, (pendVal t.pend i).toNat]),
     (0x200, 0x40, packArr 8 8 fun i => (t.g.val i 0).toNat), (0x240, 0xC0, s.offerImage t.offer),
     (0x400, 0x400, packArr 128 8 fun i => (t.stk.val i 0).toNat), (0x800, 0x1000, packArr 64 64 fun i => (t.d.val i 0).toNat),
     (0x1C00, 0x400, packArr 8 128 fun i => (t.p.val i 0).toNat), (0x2000, 0x1000, areaVals t.trap.pend),
     (0x3000, 0x1000, areaVals t.pend), (0x4000, 0x8000, packArr 32 1024 fun i => (t.v.val i 0).toNat)]

/-- The core state of a record (R128, R355); the places but for the type tags and the inner-loop buffer are the model's
(log 13). -/
def State.coreImage (s : State) (h : Nat) : List (Nat × Nat × Nat) :=
  let c := s.core h
  let d := fun (i : Nat) => (c.dom.val i 0).toNat
  let (off, len) := c.permit.getD (0, 0)
  [(0xF800, 0x80, dwords [c.sclk, c.ctag.toNat, c.ctagErr.toNat, b2n c.nxm, d 1, d 2, d 3, c.adjBase.toNat, c.adjLimit.toNat,
      c.adjPtr.toNat, c.adjCtl.toNat, c.adjStat.toNat, off, len, c.pcount, (s.quad (h / 4)).shareClk.val (h % 4) 0]),
   (0xFF00, 8, (List.range 4).foldl (fun v i => v + b2n (c.acc.val i {}).int * 2 ^ i) 0), (0xFF08, 8, c.uprog.toNat)]

/-- The parts of a save record (R128, R129, R355), the header's fields in the model's places (log 13). -/
def State.saveImage (s : State) (h : Nat) (x : Share) : List (Nat × Nat × Nat) :=
  let c := s.core h
  let deck := deckLoc (h / 4) (h % 4 * 0x20000)
  let slots := (fitSlots (c.replays (s.accs.filter fun a => decide (a.h = h) && a.replays)) 252).1
  [(0x100, 64 * areaSlots slots, areaImage c slots),
   (0xE000, 0x800, s.fullBits (lsLoc h 0) 16384), (0xE800, 0x1000, s.fullBits deck 32768),
   (0x20000, 65536, s.rdN (lsLoc h 0) 65536), (0x30000, 131072, s.rdN deck 131072)] ++ s.coreImage h ++
  ((List.range 4).map fun t => (0x10000 + 0x4000 * t, 0x4000, packArr 4096 4 fun i => (c.acc.val t {}).el.val i 0)) ++
  ((List.range 4).flatMap fun k => (s.blockImage (c.thr k)).map fun p => (0x50000 + 0xC000 * k + p.1, p.2.1, p.2.2)) ++
  [(0, 0x100, mkRec [(0, 4, 0x53563031), (4, 1, x.tenant), (6, 2, x.q), (8, 4, x.lhead), (12, 2, x.k), (14, 1, x.phase),
      (16, 4, x.next), (20, 4, x.done), (24, 2, areaSlots slots)])]

/-- A 64-KiB page of a save record: where it lies, what its leaf asks for, and whether what is written there is dropped. -/
structure RecPage where
  loc : Nat := 0
  pack : Bool := false
  fail : Bool := false
  drop : Bool := false
  deriving DecidableEq, Repr

/-- A page cannot be reached for its data: an EMPTY key slot (R100) or a failed pool page (R69). -/
def State.pageGone (s : State) (loc : Nat) : Bool :=
  s.keyGone loc || (isPool loc && s.poolFailed.contains ((loc - 2 ^ 46) / 65536))

/-- The physical pages of a save record, in device memory or the pool; none where one is refused (R126, R128). -/
def State.savePages (s : State) (ten part k : Nat) (wr : Bool) : Nat → State × Option (List RecPage)
  | 0 => (s, some [])
  | n + 1 =>
    match s.savePages ten part k wr n with
    | (s1, none) => (s1, none)
    | (s1, some l) =>
      match s1.stage2 ten (s1.srf 0x84 ten 63 16 * 65536 + 2 ^ 32 * part + 2 ^ 19 * k + 65536 * n) with
      | (s2, .ok (p, lf)) =>
        let loc := p.pa / 65536 * 65536
        if ¬ isRemote loc ∧ (if wr then lf.w else lf.rd) = true then
          (s2, some (l ++ [{ loc := loc, pack := lf.pack, fail := lf.fail, drop := s2.pageGone loc }]))
        else (s2, none)
      | (s2, .error _) => (s2, none)

/-- A page of a record read or written whole at the pool controller: its 1,024 lines are counted (R68), and a failed page
marked FATAL stops the package's contexts (R69). -/
def State.poolPage (s : State) (p : RecPage) (wr : Bool) : State :=
  if ¬ isPool p.loc then s
  else
    let s1 := (List.range 1024).foldl (fun s _ => s.poolCount p.loc wr) s
    if s1.pageGone p.loc ∧ p.fail then s1.poolStop p.loc else s1

/-- A record's page before its bytes are written, in plain. -/
def State.recOpen (s : State) (p : RecPage) : State :=
  if s.enciphered p.loc ∧ ¬ p.drop then s.decipherPage (s.slotAt p.loc) p.loc else s

/-- The page after them: enciphered, in its stored form, its poison gone; a page that cannot be written is counted
(R98, R100, R183, R184). -/
def State.recClose (s : State) (p : RecPage) : State :=
  if p.drop then (if isPool p.loc then (s.poolPage p true).poolDrop p.loc else s.countDrop 0x94 0x95 p.loc)
  else
    let s1 := if s.enciphered p.loc then s.encipherPage (s.slotAt p.loc) p.loc else s
    if isPool p.loc then s1.poolPage p true else (s1.repackAll p.loc 65536 p.pack).cover p.loc 65536

/-- Bytes written at an offset of a record, page by page. -/
def State.recWrite (s : State) (pages : List RecPage) (off v : Nat) : Nat → State
  | 0 => s
  | n + 1 =>
    let p := pages.getD (off / 65536) {}
    (if p.drop then s else s.wr8 (p.loc + off % 65536) (v % 256)).recWrite pages (off + 1) (v / 256) n

/-- A record written whole. -/
def State.writeRecord (s : State) (pages : List RecPage) (parts : List (Nat × Nat × Nat)) : State :=
  pages.foldl State.recClose (parts.foldl (fun s p => s.recWrite pages p.1 p.2.2 p.2.1) (pages.foldl State.recOpen s))

def State.recRead (s : State) (pages : List RecPage) (off : Nat) : Nat → Nat
  | 0 => 0
  | n + 1 => s.rd8 ((pages.getD (off / 65536) {}).loc + off % 65536) + 256 * s.recRead pages (off + 1) n

/-- A page of a record is read: the check of its granules (R183) and the pool's count (R68). -/
def State.readPage (s : State) (p : RecPage) : State :=
  if isHbm p.loc then s.checkRead p.loc 65536 else s.poolPage p false

/-- A page of a record reads as poison (R69, R100, R183). -/
def State.pagePoison (s : State) (p : RecPage) : Bool :=
  s.pageGone p.loc || (isHbm p.loc && s.poison.any fun g => decide (p.loc / 256 ≤ g ∧ g < p.loc / 256 + 256))

/-- An array read back. -/
def unpackArr (n sz v : Nat) : List (Nat × Nat) :=
  (List.range n).filterMap fun i => let x := v / 256 ^ (sz * i) % 256 ^ sz; if x = 0 then none else some (i, x)

/-- An entry of a pending table as its record has it: count, destination and landed value; what the record has no place
for, the accesses still to be made among it, is the entry's own (R129; log 13). -/
def Pend.loaded (t : Thread) (e : Pend) (w val area : Nat) : Pend :=
  let e1 : Pend :=
    if bits w 55 52 = e.kind ∧ bits w 5 0 = e.destNum then e
    else match bits w 55 52 with
      | 0 => { e with kind := 0, field := bits w 4 0, dest := .scalar (t.phys (bits w 4 0)) }
      | 1 => { e with kind := 1, dest := .vector (bits w 4 0) }
      | 2 => { e with kind := 2, dest := .ident (bits w 5 0) }
      | _ => e
  let e2 := { e1 with cnt := bits w 59 56 }
  if e.landed = true ∧ bit w 62 = true then
    (match e2.dest with
      | .vector _ => { e2 with value := area % 2 ^ 2048 }
      | .ident _ => { e2 with value := area % 2 ^ 512 }
      | .tile => e2
      | _ => if e.chan.isSome then { e2 with value := val, sx := 0, msgTag := bit area 0, clk := bits area 87 64 }
             else { e2 with value := val, sx := 0 })
  else e2

/-- A pending table from its record: the entries it holds as valid. -/
def loadPend (t : Thread) (l : List Pend) (w val area : Nat → Nat) : List Pend :=
  (l.zipIdx.filter fun p => bit (w p.2) 63).map fun p => p.1.loaded t (w p.2) (val p.2) (area p.2)

/-- The messages that a channel's record holds as valid. -/
def loadChan (v : Nat) : List Msg :=
  (List.range 4).filterMap fun i =>
    let m := v / 256 ^ (32 * i)
    if bit m 192 then some { payload := BitVec.ofNat 64 m, nxm := bit m 64, clk := bits m 151 128 } else none

/-- A thread with what its block holds (R129), `n` messages of each channel having been saved; the address space is never
taken from the record (R130), and reserved bits read 0 (R8). What was fetched before the save is fetched again (R172). -/
def Thread.loaded (t : Thread) (rd : Nat → Nat → Nat) (n : Nat → Nat) : Thread :=
  let arr := fun (off n sz : Nat) => unpackArr n sz (rd off (n * sz))
  let dw := fun (off : Nat) => rd off 8
  let w := fun (off : Nat) => BitVec.ofNat 64 (rd off 8)
  let t1 := { t with
    st := SlotSt.ofNums (dw 0x80) (dw 0x88), pc := w 0x90, low := bits (dw 0xA0) 31 16, base := bits (dw 0xA0) 15 0
    wbsp := w 0xA8, wprog := bits (dw 0xB0) 4 0, rep := w 0xB8 &&& 0x7FFFC0, utvec := w 0xC0 &&& 0x01FFFFFFFFFFFFFC, fetched := [], limit := w 0xC8, cyc := dw 0xD0
    g := (arr 0x200 8 8).map fun (p : Nat × Nat) => (p.1, BitVec.ofNat 64 p.2)
    stk := (arr 0x400 128 8).map fun (p : Nat × Nat) => (p.1, BitVec.ofNat 64 p.2)
    d := (arr 0x800 64 64).map fun (p : Nat × Nat) => (p.1, BitVec.ofNat 512 p.2)
    p := (arr 0x1C00 8 128).map fun (p : Nat × Nat) => (p.1, BitVec.ofNat 256 p.2)
    v := (arr 0x4000 32 1024).map fun (p : Nat × Nat) => (p.1, BitVec.ofNat 2048 p.2)
    chans := (List.range 8).foldl (fun m c =>
      m.put c (loadChan (rd (0x1800 + 128 * c) 128) ++ (t.chans.val c []).drop (n c))) t.chans
    supp := bit (dw 0) 62 }
  { t1 with
    trap := { t.trap with
      act := bit (dw 0) 63, cause := bits (dw 0) 7 0, pc := w 8, info := w 0x10, lpc := w 0x18, rep := w 0x20 &&& 0x7FFFC0
      pend := loadPend t1 t.trap.pend (fun i => dw (0x28 + 8 * i)) (fun i => dw (0x48 + 8 * i)) fun i => rd (0x2000 + 1024 * i) 1024 }
    pend := loadPend t1 t.pend (fun i => dw (0x100 + 64 * i)) (fun i => dw (0x108 + 64 * i)) fun i => rd (0x3000 + 1024 * i) 1024 }

/-- A core with the core state of a record (R128, R355), whose reserved bits read 0 (R8, R139, R377); phase, counts and k are
those of its header (R130). -/
def Core.loaded (c : Core) (rd : Nat → Nat → Nat) : Core :=
  let dw := fun (i : Nat) => rd (0xF800 + 8 * i) 8
  let w := fun (i : Nat) => BitVec.ofNat 64 (dw i)
  let dom := fun (i : Nat) => w i &&& 0xC0003FFF00001FFF
  let line := fun (i : Nat) => w i &&& 0xFFFFFFFFFFFFFFE0
  { c with
    sclk := dw 0 % 2 ^ 24, ctag := w 1, ctagErr := w 2, nxm := bit (dw 3) 0, dom := [(1, dom 4), (2, dom 5), (3, dom 6)]
    adjBase := line 7, adjLimit := line 8, adjPtr := line 9, adjCtl := w 10 &&& 0xFFFFFFFF00000003
    adjStat := w 11 &&& 0xFFFFFFFFFFFF030F
    permit := if dw 13 = 0 then none else some (dw 12, dw 13)
    pcount := dw 14 % 256, uprog := BitVec.ofNat 64 (rd 0xFF08 8)
    acc := (List.range 4).map fun t =>
      (t, { int := (rd 0xFF00 8).testBit t, el := unpackArr 4096 4 (rd (0x10000 + 0x4000 * t) 0x4000) })
    share := c.share.map fun x =>
      { x with k := rd 12 2, phase := rd 14 1, next := rd 16 4, done := rd 20 4 } }

/-- The outstanding offer of a restored thread has what its record holds of it, where it waits (R129, R130). -/
def State.loadOffer (s : State) (id v : Nat) : State :=
  if id = 0 ∨ v = 0 then s
  else
    let f := fun (m : Msg) =>
      if m.id = id then { m with payload := BitVec.ofNat 64 (bits v 127 64), nxm := bit v 128, clk := bits v 215 192 } else m
    let g := fun (c : Core) => { c with threads := c.threads.map fun p =>
      (p.1, { p.2 with offers := p.2.offers.map fun q => (q.1, q.2.map f) }) }
    { s with
      cores := s.cores.map fun p => (p.1, g p.2)
      saved := s.saved.map fun w => { w with core := g w.core }
      launches := s.launches.map fun l => { l with early := l.early.map fun e => { e with m := f e.m } } }

/-- A core and its memories with the contents of a record, which `rd` reads, and the barriers completed meanwhile (R130,
R315). -/
def State.loadImage (s : State) (h : Nat) (v : Saved) (c : Core) (rd : Nat → Nat → Nat) : State :=
  let deck := deckLoc (h / 4) (h % 4 * 0x20000)
  let c2 := (List.range 4).foldl (fun (c : Core) k =>
    c.setThr k ((c.thr k).loaded (fun off n => rd (0x50000 + 0xC000 * k + off) n) fun ch => v.sent.val (8 * k + ch) 0)) (c.loaded rd)
  let c3 := (List.range 32).foldl (fun (c : Core) i => c.serveChan (i / 8) (i % 8) 8) c2
  let c4 := v.missed.foldl (fun (c : Core) m => c.completed m.1 m.2.1 m.2.2) c3
  let s1 := (((s.clearStores h).wrN (lsLoc h 0) 65536 (rd 0x20000 65536)).wrN deck 131072 (rd 0x30000 131072)).setCore h c4
  let clk := if v.missed.any fun m => m.2.2 then 0 else rd (0xF800 + 8 * 15) 8 % 2 ^ 24
  let s2 := s1.onQuad (h / 4) fun q => { q with shareClk := q.shareClk.put (h % 4) clk }
  let setBits := fun (s : State) (loc n v : Nat) =>
    (List.range n).foldl (fun s i => if v.testBit i then s.setFull (loc + 4 * i) true else s) s
  let s3 := setBits (setBits s2 (lsLoc h 0) 16384 (rd 0xE000 0x800)) deck 32768 (rd 0xE800 0x1000)
  (List.range 4).foldl (fun s k => s.loadOffer (c.thr k).offer (rd (0x50000 + 0xC000 * k + 0x240) 0xC0)) s3

/-! ### Quiescence (R126, R131) -/

/-- What must land first has landed (R126 step 2). -/
def State.quiet (s : State) (h : Nat) : Bool :=
  (s.accs.all fun a => decide (a.h ≠ h) || a.replays) && !((s.quad (h / 4)).sfq.any fun r => decide (r.h = h))

/-- A thread as it is saved: what a stalled instruction has fetched or begun is fetched and begun again, but for an arrival that
is made. -/
def Thread.toSave (t : Thread) : Thread :=
  { t with saved := true, stopped := false, fetched := [], wait := match t.wait with | .arrived => .arrived | _ => .none }

/-- The contexts of a core's threads are all stopped with a failed pool page: its share is quiesced (R69). A core without a share
has nothing to save and only stops. -/
def State.poolHalts (s : State) (h : Nat) : Bool :=
  let c := s.core h
  s.poolFatal && c.share.isSome && !c.liveSlots.isEmpty && c.liveSlots.all (s.poolStopped h)

/-- Why a core is being quiesced: 1 to 4 as its launch says, 5 a leaving or excluded core, 6 a displaced share's turn or a
stopped context's (R69). -/
def State.quiesceReason (s : State) (h : Nat) (x : Share) : Nat :=
  match s.launchOf x with
  | none => 2
  | some l =>
    if l.stopping ≠ 0 then l.stopping
    else if s.leavingCore h then 5 else 6

/-- A launch as the state has it now. -/
def State.launchNow (s : State) (l : Launch) : Launch :=
  (s.launches.find? fun (x : Launch) => decide (x.q = l.q ∧ x.lhead = l.lhead)).getD l

/-- Shares of a launch that core `h` holds and that have not ended: running, saved to be restored there, or dealt to it. -/
def State.sharesAt (s : State) (l : Launch) (h : Nat) : Nat :=
  let x := s.launchNow l
  (x.where_.zipIdx.filter fun p => decide (p.1 = h) && !x.ended.contains p.2).length

/-- A member core that may hold shares of a launch: one that was a member at its commit and never left (R95, R96). -/
def State.mayHold (s : State) (l : Launch) (m : Nat) : Bool :=
  let x := s.launchNow l
  (s.members l.part).contains m && x.members.contains m && !x.left.contains m

/-- The core that takes a displaced share: of the members that may hold one and do not leave, that with the fewest shares
of the launch, then the lowest h (R131). Where none is left, of all members that do not leave. -/
def State.hostFor (s : State) (l : Launch) (h : Nat) : Nat :=
  let ms := (s.members l.part).filter fun m =>
    !((s.parts.val l.part {}).leaving.contains m) && !(s.exclBusy.contains m) && decide (m ≠ h)
  let own := ms.filter (s.mayHold l)
  match (if own.isEmpty then ms else own) with
  | [] => h
  | m :: t => t.foldl (fun b x => if s.sharesAt l x < s.sharesAt l b then x else b) m

/-- Saved shares discarded, their side-log entries counted (R97, R124, R175): those of a share that has no core now, in the core
that it waits for (DESIGN CHOICE, log 57). -/
def State.dropSaves (s : State) (p : Saved → Bool) : State :=
  let s1 := (s.saved.filter p).foldl (fun s v => s.onCoreAt v.host fun c => c.dropCount v.core.slogCount) s
  { s1 with saved := s1.saved.filter fun v => !p v }

/-- A launch ended with SAVEFAIL: its cores are quiesced and its saves discarded (R126, R130). -/
def State.saveFail (s : State) (q lhead : Nat) : State :=
  let s1 := (s.dropSaves fun v => decide (v.q = q ∧ v.lhead = lhead)).onLaunch q lhead fun l => { l with stopping := 4 }
  { s1 with
    cores := s1.cores.map fun (p : Nat × Core) => (p.1, match p.2.share with
      | some x => if x.q = q ∧ x.lhead = lhead then { p.2 with quiesce := true } else p.2
      | none => p.2) }

/-- The share of core `h` saved: its record written where its pages are granted (R126 steps 3 and 4). A gang that the core is in
ends: a leader's dissolves, a follower detaches (DESIGN CHOICE, log 86). -/
def State.saveShare (s : State) (h : Nat) (x : Share) (displaced : Bool) (host : Nat) : State :=
  match s.savePages x.tenant x.part x.k true 8 with
  | (s1, none) => s1.saveFail x.q x.lhead
  | (s1, some pages) =>
    if pages.any fun p => s1.moving p.loc then s1 else
    let c := s1.core h
    let s2 := s1.writeRecord pages (s1.saveImage h x)
    let v : Saved :=
      { q := x.q, lhead := x.lhead, tenant := x.tenant, part := x.part, k := x.k, displaced := displaced, host := host
        core := { c.leaveGang with threads := c.threads.map (fun p => (p.1, p.2.toSave)), frecs := [], quiesce := false }
        sent := (List.range 32).map fun i => (i, (((c.thr (i / 8)).chans.val (i % 8) []).length))
        replayed := s1.accs.filter fun a => decide (a.h = h) && a.replays }
    let s3 := { s2 with
      saved := s2.saved ++ [v]
      accs := s2.accs.filter fun (a : Acc) => decide (a.h ≠ h)
      launches := s2.launches.map fun (l : Launch) =>
        if l.q = x.q ∧ l.lhead = x.lhead then { l with where_ := l.where_.set x.k host } else l }
    ((if c.gang.isSome then s3.dissolve h else s3).onCoreAt h Core.bare).clearStores h

/-- The share of core `h` discarded, its side-log entries counted (R97, R124). -/
def State.discardShare (s : State) (h : Nat) : State :=
  let s1 := (s.dissolve h).dropMessages h
  let s2 := s1.onCoreAt h fun c => c.slogDiscard.bare
  { s2 with accs := s2.accs.filter fun (a : Acc) => decide (a.h ≠ h) }.clearStores h

/-- QUIESCE_COMPLETE [h]. -/
def State.quiesced (s : State) (h : Nat) : State :=
  let c := s.core h
  if (c.quiesce = false ∧ s.poolHalts h = false) ∨ ¬ s.quiet h then s
  else match c.share with
  | none => s.onCoreAt h fun c => { c with quiesce := false }
  | some x =>
    match s.quiesceReason h x with
    | 1 => s.saveShare h x false h
    | 5 => match s.launchOf x with
      | some l => s.saveShare h x true (s.hostFor l h)
      | none => s.discardShare h
    | 6 => s.saveShare h x true h
    | _ => s.discardShare h

def execQuiesceComplete (s : State) : Out1 := .next (s.quiesced (s.param 0))

/-! ### Restore (R130, R131) -/

/-- The saved share that core `h` restores next: a displaced one in ascending k after the share that ran last, or its
own. A stopped context's stays saved (R69). -/
def State.toRestore (s : State) (h : Nat) : Option Saved :=
  let ok := fun (v : Saved) => decide (v.host = h) && (s.launches.any fun l =>
    decide (l.q = v.q ∧ l.lhead = v.lhead) && !l.saved && decide (l.stopping = 0)) &&
    !s.ctxStopped ((v.core.share.map Share.asid).getD 0) v.tenant
  let vs := s.saved.filter ok
  let least := fun (l : List Saved) => match l with
    | [] => none
    | v :: t => some (t.foldl (fun b x => if x.k < b.k then x else b) v)
  match least (vs.filter fun v => decide ((s.core h).lastK < v.k)) with
  | some v => some v
  | none => least vs

/-- The header of a record agrees with the scheduler's own (R130; places of the fields: log 13). -/
def headerOk (v : Saved) (r : Nat) : Bool :=
  decide (recField r 0 4 = 0x53563031 ∧ recField r 4 1 = v.tenant ∧ recField r 6 2 = v.q ∧ recField r 8 4 = v.lhead)

/-- The threads of a restored share: one parked on a fault executes its instruction again (R126). -/
def State.resumeSaved (s : State) (h : Nat) : State :=
  (List.range 4).foldl (fun s k =>
    let s1 := s.onThr h k fun t => { t with saved := false }
    match (s1.thr h k).st with
    | .parked _ => s1.resume h k
    | _ => s1) s

/-- A tenant's slice in nanoseconds (R125). -/
def State.sliceNs (s : State) (t : Nat) : Nat :=
  let v := s.srf 0x83 t 31 0
  1000 * (if v = 0 then 1000 else max 10 (min v 1000000))

def State.part (s : State) (j : Nat) : PartSt := s.parts.val j {}
def State.onPart (s : State) (j : Nat) (f : PartSt → PartSt) : State := { s with parts := s.parts.put j (f (s.part j)) }

/-- The slice of a resumed launch starts once every core that is to restore a share of it has one, its replay entries included:
the time before is charged to no tenant (R125). Its time is that of X0 (DESIGN CHOICE, log 7). -/
def State.sliceStart (s : State) (q lhead : Nat) : State :=
  match s.launches.find? fun l => decide (l.q = q ∧ l.lhead = lhead) with
  | none => s
  | some l =>
    let kept := s.saved.any fun v => decide (v.q = q ∧ v.lhead = lhead) && (s.core v.host).share.isNone &&
      !s.ctxStopped ((v.core.share.map Share.asid).getD 0) v.tenant
    let busy := s.cores.any fun p => (match p.2.share with | some x => decide (x.q = q ∧ x.lhead = lhead) | none => false) &&
      (!p.2.replay.isEmpty || p.2.threads.any fun t => t.2.saved)
    if l.saved ∨ kept ∨ busy ∨ (s.part l.part).sliceEnd.isSome then s
    else s.onPart l.part fun p => { p with sliceEnd := some (s.ns 8 + s.sliceNs l.tenant) }

/-- A restored share goes on: its next replay entry, or, after the last, its threads (R126, R127, R130). -/
def State.replayStep (s : State) (h : Nat) : State :=
  let c := s.core h
  if c.replay ≠ [] then s.replayHead h
  else if c.threads.any fun p => p.2.saved then
    (let s1 := s.resumeSaved h
     match c.share with | some x => s1.sliceStart x.q x.lhead | none => s1)
  else s

/-- SHARE_RESTORE [h]: the next save of core `h` is restored, or a restored share's replay goes on. -/
def State.restore (s : State) (h : Nat) : State :=
  let live := s.core h
  if live.quiesce then s
  else if live.share.isSome then s.replayStep h
  else if s.leavingCore h then s
  else match s.toRestore h with
  | none => s
  | some v =>
    match s.savePages v.tenant v.part v.k false 8 with
    | (s1, none) => s1.saveFail v.q v.lhead
    | (s1, some pages) =>
      if pages.any fun p => s1.moving p.loc then s1 else
      let s2 := pages.foldl State.readPage s1
      let rd := (pages.foldl State.recOpen s2).recRead pages
      if (pages.any s2.pagePoison) ∨ ¬ headerOk v (rd 0 0x100) then s2.saveFail v.q v.lhead
      else
        let (own, rest) := fitSlots (v.core.replays v.replayed) 252
        let n := min (rd 24 2) 252
        let d : Acc := { id := s2.nextId, h := h, asid := (v.core.share.map Share.asid).getD 0, tenant := v.tenant }
        let l := loadArea v.core d own (rd 0x100 (64 * n)) false n ++ rest
        let c := { v.core.withReplay (l.map (Replay.moved h)) with
          frecs := live.frecs, msgDisc := live.msgDisc, slogDrop := live.slogDrop, lastK := v.k
          share := v.core.share.map fun (x : Share) =>
            { x with started := s2.ns (dieOf h), arrMark := if x.arrMark = 0 then 0 else s2.nextId + n } }
        let s3 := ({ s2 with nextId := s2.nextId + n }.loadImage h v c rd).onCoreAt h Core.tickFree
        let s4 := { s3 with saved := s3.saved.filter fun (w : Saved) => !(decide (w.q = v.q ∧ w.lhead = v.lhead ∧ w.k = v.k)) }
        if (s4.core h).replay.isEmpty then s4.replayStep h else s4

def execShareRestore (s : State) : Out1 := .next (s.restore (s.param 0))

/-- Every thread of a core waits at a barrier. -/
def Core.allWait (c : Core) : Bool := c.liveSlots.all fun k => decide ((c.thr k).wait = .arrived)

/-- DISPLACED_SHARE_SWITCH [h]: the running share gives way to the next that its core holds (R131). -/
def State.switchShare (s : State) (h : Nat) : State :=
  let c := s.core h
  match c.share with
  | none => s
  | some x =>
    let others := (s.saved.any fun v => decide (v.host = h ∧ v.q = x.q ∧ v.lhead = x.lhead)) ||
      (match s.launchOf x with | some l => (s.unbegun h l).isSome | none => false)
    if others ∧ ¬ c.quiesce ∧ (c.liveSlots = [] ∨ x.phase = 2 ∨ reached 48 (s.ns (dieOf h)) (x.started + 100000) = true) then
      s.onCoreAt h fun c => { c with quiesce := true }
    else s

def execDisplacedShareSwitch (s : State) : Out1 := .next (s.switchShare (s.param 0))

end Sys2Proof.Machine
end

