-- ==== Sys2Proof/Machine/Sched.lean ====
section
/-! DEFINITION. The hardware scheduler (R106–R116, R121–R125): queues, doorbells, fence counters, leaders, dequeue and
deals, the completion of launches, and slices. -/

namespace Sys2Proof.Machine

/-! ### An engine's own accesses -/

/-- What an engine's access comes to: done with a value, refused, or held: by a moving page, a socket that relocks, or a
link without room. -/
inductive EngR where
  | ok (s : State) (v : Nat)
  | fail (s : State)
  | hold

/-- An engine's access at an abutment of a die, within a line, once that die runs (R21). One outside the global space, which an
engine has no core to give another, is refused (R161; log 44). A read that finds poison, a failed page, no route or a refusal
at another package fails; a write is dropped there and counted (R40, R45, R69, R100, R183). -/
def State.engAcc (s : State) (die : Nat) (a : Acc) : EngR :=
  if spaceOf a.va ≠ .global then .fail s
  else if s.relocking = some die then .hold
  else match s.translateAt (8 * die) a.asid a.tenant a.va with
  | (s1, .error _) => .fail s1
  | (s1, .ok x) =>
    let b := a.placed x
    if ¬ (if a.kind.returns then x.rd else x.w) then .fail s1
    else if s1.moving b.loc ∨ ¬ s1.homeRuns b.loc ∨ (isRemote b.loc = true ∧ ¬ s1.mayLeave) then .hold
    else
      let c := if b.kind = .stf ∧ ¬ isHbm b.loc then { b with kind := .store } else b
      match s1.perform c with
      | (s2, .value v) => .ok s2 v
      | (s2, .done) => .ok s2 0
      | (s2, _) => .fail s2

/-- A read by an engine of `n` bytes within a line. -/
def State.engRead (s : State) (die asid ten va n : Nat) : EngR :=
  s.engAcc die { tenant := ten, asid := asid, va := va, size := n, free := true }

/-- A write by an engine of `n` bytes within a line; `full` sets the full bits of its words. -/
def State.engWrite (s : State) (die asid ten va n v : Nat) (full : Bool) (whole : Bool := false) : EngR :=
  s.engAcc die { tenant := ten, asid := asid, va := va, size := n, free := true, strong := true, data := v, whole := whole
                 kind := if full then .stf else .store }

/-- The same over any range, 64-B line by line; what was read so far, least significant first. -/
def State.engReadN (s : State) (die asid ten va n acc sh : Nat) : Nat → EngR
  | 0 => .ok s acc
  | f + 1 =>
    if n = 0 then .ok s acc
    else
      let k := min n (64 - va % 64)
      match s.engRead die asid ten va k with
      | .ok s1 v => s1.engReadN die asid ten (va + k) (n - k) (acc + v * 256 ^ sh) (sh + k) f
      | r => r

/-- The part of a write of `[lo, hi)` from `va` on; what was written before a refusal stays. -/
def State.engWriteFrom (s : State) (die asid ten lo hi va v : Nat) (full : Bool) : Nat → EngR
  | 0 => .ok s 0
  | f + 1 =>
    if hi ≤ va then .ok s 0
    else
      let k := min (hi - va) (64 - va % 64)
      match s.engWrite die asid ten va k (v % 256 ^ k) full (decide (lo ≤ va / 256 * 256 ∧ va / 256 * 256 + 256 ≤ hi)) with
      | .ok s1 _ => s1.engWriteFrom die asid ten lo hi (va + k) (v / 256 ^ k) full f
      | r => r

/-- A write by an engine of any range. -/
def State.engWriteN (s : State) (die asid ten va n v : Nat) (full : Bool) (f : Nat) : EngR :=
  s.engWriteFrom die asid ten va (va + n) va v full f

/-- The host's memory can be reached for `n` bytes (R19, R107, R121). -/
def State.hostOk (s : State) (hpa n : Nat) : Bool := s.hostBad.all fun l => decide (l * 64 + 64 ≤ hpa ∨ hpa + n ≤ l * 64)

/-! ### Fence counters (R110, R206) -/

/-- A counter raised by an increment, with its clock. -/
def State.fcAdd (s : State) (i : Nat) (v : Word) (clk : Nat) : State :=
  let s1 := s.setSr 0xA8 i (s.srv 0xA8 i + v)
  { s1 with fcClk := s1.fcClk.put i (max (s1.fcClk.val i 0) clk) }

/-- FC_VAL_WRITE [i, v]: the counter takes the value; its clock stays. -/
def execFcValWrite (s : State) : Out1 :=
  .next (if s.param 0 < 65536 then s.setSr 0xA8 (s.param 0) (BitVec.ofNat 64 (s.param 1)) else s)

/-! ### Queues (R106, R107, R114) -/

def State.qEn (s : State) (q : Nat) : Bool := (s.srv 0xA0 q).getLsbD 63
def State.qState (s : State) (q : Nat) : Nat := s.srf 0xA0 q 62 61
def State.qPrio (s : State) (q : Nat) : Nat := s.srf 0xA0 q 60 53
def State.qLogn (s : State) (q : Nat) : Nat := s.srf 0xA0 q 52 48
def State.qAsid (s : State) (q : Nat) : Nat := s.srf 0xA0 q 47 32
def State.qTen (s : State) (q : Nat) : Nat := s.srf 0xA0 q 31 24
def State.qLoc (s : State) (q : Nat) : Bool := (s.srv 0xA0 q).getLsbD 15

/-- The queue's state block (R114). -/
def State.qsb (s : State) (q : Nat) : Nat := s.srf 0xA2 0 47 0 + 128 * q
def State.qWord (s : State) (q : Nat) : Nat := s.rdP (s.qsb q) 8
def State.qHead (s : State) (q : Nat) : Nat := s.qWord q % 2 ^ 32
def State.qTail (s : State) (q : Nat) : Nat := s.rdP (s.qsb q + 8) 8 % 2 ^ 32
def State.qRecord (s : State) (q : Nat) : Nat := s.rdP (s.qsb q + 16) 8

/-- The state block of a queue is read at its pier, which checks it (R183). -/
def State.qRead (s : State) (q : Nat) : State := s.checkRead (s.qsb q) 128

/-- The state block is poisoned. -/
def State.qBad (s : State) (q : Nat) : Bool := s.poisoned (s.qsb q)

def qSeq (w : Nat) : Nat := bits w 47 32
def qLdie (w : Nat) : Nat := bits w 63 61
def qWordOf (ldie seq head : Nat) : Nat := ldie * 2 ^ 61 + seq % 65536 * 2 ^ 32 + head % 2 ^ 32

/-- A queue in ERROR (R107). -/
def State.qError (s : State) (q err : Nat) : State := (s.setSrf 0xA0 q 62 61 2).setSrf 0xA0 q 23 16 err

/-- RINGFAULT, with its interrupt (R107, R159). -/
def State.ringFault (s : State) (q : Nat) : State := (s.qError q 2).interrupt (s.srf 0xA3 0 4 0) 3

/-- Bits of `SCHED.QCFG` that software writes, EN apart. -/
def qcfgMask : Word := 0x1FFFFFFFFF008000

/-- SCHED_QUEUE_ENABLE [q, v] (R106). -/
def State.queueEnable (s : State) (q : Nat) (v : Word) : State :=
  let t := wbits v 31 24
  let base := s.tenQbase t
  let ok := (s.srv 0x80 t).getLsbD 63 && decide (t ≠ 0 ∧ base ≤ q ∧ q < base + s.tenQn t ∧ 4 ≤ wbits v 52 48 ∧ wbits v 52 48 ≤ 16)
  if 4096 ≤ q ∨ ¬ v.getLsbD 63 ∨ s.qEn q then s
  else s.setSr 0xA0 q ((v &&& qcfgMask) ||| (if ok then 0xA000000000000000 else 0x10000))

def execSchedQueueEnable (s : State) : Out1 := .next (s.queueEnable (s.param 0) (BitVec.ofNat 64 (s.param 1)))

/-- SCHED_QUEUE_DISABLE [q]: EN clears and STATE reads OFF; HEAD and TAIL stay (R106, R107). -/
def State.queueDisable (s : State) (q : Nat) : State := if s.qEn q then s.setSrf 0xA0 q 63 61 0 else s

def execSchedQueueDisable (s : State) : Out1 := .next (s.queueDisable (s.param 0))

/-- A doorbell write of TAIL (R107, R97, R405): the state and 0 taken, 1 OVERRUN, 2 ignored. A poisoned state block ends as a ring
that cannot be read does (DESIGN CHOICE, log 43). -/
def State.doorbell (s : State) (q tail : Nat) : State × Nat :=
  let s := s.qRead q
  let t := tail % 2 ^ 32
  let back := (s.qTail q + 2 ^ 32 - t) % 2 ^ 32
  if ¬ s.qEn q ∨ s.tenState (s.qTen q) = 2 then (s, 2)
  else if s.qBad q then (s.ringFault q, 2)
  else if 0 < back ∧ back < 2 ^ 31 then (s, 2)
  else if 2 ^ s.qLogn q < (t + 2 ^ 32 - s.qHead q) % 2 ^ 32 then (s.qError q 3, 1)
  else (s.engPut (s.qsb q + 8) 8 t, 0)

/-- VF_DOORBELL [t, i, tail]: a host write to BAR0 of a virtual function (R107). -/
def execVfDoorbell (s : State) : Out1 :=
  let t := s.param 0
  .next (if 0 < t ∧ t < 256 ∧ (s.srv 0x80 t).getLsbD 63 ∧ s.param 1 < s.tenQn t then
      (s.doorbell (s.tenQbase t + s.param 1) (s.param 2)).1 else s)

/-! ### Heads (R107–R110) -/

/-- Address of slot n of a ring. -/
def State.slotAddr (s : State) (q n : Nat) : Nat := (s.srf 0xA1 q 56 16) * 65536 + 64 * (n % 2 ^ s.qLogn q)

/-- A ring slot read by the scheduler of a die. -/
def State.ringRead (s : State) (die q n : Nat) : EngR :=
  if s.qLoc q then (if s.hostOk (s.slotAddr q n) 64 then .ok s (s.rdN (hostLoc (s.slotAddr q n)) 64) else .fail s)
  else s.engRead die (s.qAsid q) (s.qTen q) (canon (s.slotAddr q n)).toNat 64

/-- The share descriptor of an entry. -/
def State.descRead (s : State) (die q e : Nat) : EngR := s.engRead die (s.qAsid q) (s.qTen q) (enDesc e) 64

/-- A head entry with what its checks found: 0 for an entry that may be dispatched. -/
structure Head where
  q : Nat
  n : Nat
  e : Nat
  desc : Nat
  st : Nat
  due : Bool

/-- BADENTRY's causes that lie in the entry (R108, R109). -/
def badEntry (e : Nat) : Bool :=
  decide (recField e 39 1 ≠ 0 ∨ recField e 52 4 ≠ 0 ∨ enFlags e / 4 ≠ 0 ∨ enG e = 0 ∨ 2 ^ 24 < enG e ∨ enLvl e < 2 ∨ 5 < enLvl e ∨
    enLog e 0 < 2 ∨ enLog e 1 < enLog e 0 ∨ enLog e 2 < enLog e 1 ∨ 13 < enLog e 2 ∨ 63 < enVec e ∨ enDesc e % 64 ≠ 0)

/-- The status of the checks of R109 that read nothing more; 0 when they pass. -/
def State.entryStatus (s : State) (t e : Nat) : Nat :=
  let bad := fun i => decide (i ≠ 0xFFFF) && (s.fcOf t i).isNone
  let j := enPart e
  if badEntry e then 2
  else if bad (enWfc e) ∨ bad (enDfc e) then 3
  else if 63 < j ∨ ¬ (s.srv 0x88 j).getLsbD 63 ∨ ¬ (s.srv 0x82 t).getLsbD j ∨ s.members j = [] then 4
  else 0

/-- The wait condition of an entry holds now (R110). -/
def State.waitMet (s : State) (t e : Nat) : Bool :=
  match s.fcOf t (enWfc e) with
  | some i => decide (enWfc e = 0xFFFF) || decide (enWval e ≤ (s.srv 0xA8 i).toNat)
  | none => decide (enWfc e = 0xFFFF)

/-- Queues that run: enabled, RUN, of an ACTIVE tenant. -/
def State.running (s : State) : List Nat :=
  (s.sr.filterMap fun p => if 0xA0 * 65536 ≤ p.1 ∧ p.1 < 0xA0 * 65536 + 4096 then some (p.1 - 0xA0 * 65536) else none).filter fun q =>
    s.qEn q && decide (s.qState q = 1 ∧ s.tenState (s.qTen q) = 1)

/-- Queues that are served: those that run, with an entry announced or a state block that cannot be read. -/
def State.served (s : State) : List Nat := s.running.filter fun q => decide (s.qHead q ≠ s.qTail q) || s.qBad q

/-- The head entry of queue `q`, read and checked by the scheduler of a die; a poisoned state block is a ring fault
(DESIGN CHOICE, log 43). -/
def State.headOf (s : State) (die q : Nat) : State × Option Head :=
  let n := s.qHead q
  if s.qBad q then (s.ringFault q, none)
  else match s.ringRead die q n with
  | .hold => (s, none)
  | .fail s1 => (s1.ringFault q, none)
  | .ok s1 e =>
    let t := s1.qTen q
    let st := s1.entryStatus t e
    if st ≠ 0 then (s1, some ⟨q, n, e, 0, st, true⟩)
    else match s1.descRead die q e with
      | .hold => (s1, none)
      | .fail s2 => (s2, some ⟨q, n, e, 0, 5, true⟩)
      | .ok s2 d =>
        let nr := recField d 16 1
        (s2, some ⟨q, n, e, d, if nr = 0 ∨ 5 < nr ∨ recField d 17 7 ≠ 0 then 2 else 0, s2.waitMet t e⟩)

/-- The heads of the served queues that name partition `pj`. -/
def State.heads (s : State) (die pj : Nat) : State × List Head :=
  let s := s.running.foldl State.qRead s
  s.served.foldl (fun r q => match r.1.headOf die q with
    | (s1, some h) => (s1, if enPart h.e = pj then r.2 ++ [h] else r.2)
    | (s1, none) => (s1, r.2)) (s, [])

/-! ### Leaders (R112, R113, R115) -/

/-- A die may lead partition `j` (R112). -/
def State.mayLead (s : State) (j die : Nat) : Bool :=
  ((s.members j).any fun h => decide (dieOf h = die)) && !s.gated.contains die && !(s.srv 0xA4 0).getLsbD die

/-- The eligible die of lowest socket. -/
def State.leaderDie (s : State) (j : Nat) : Option Nat := firstBelow 8 (s.mayLead j)

/-- The die that leads partition `j` and may go on leading it. -/
def State.leads (s : State) (j : Nat) : Option Nat :=
  match (s.part j).leader with
  | some d => if s.mayLead j d then some d else none
  | none => none

/-- One queue's leadership moves to a die by compare-and-swap; a launch that is committed and not acknowledged is dealt
again (R115). The deal of a launch stands until its die accepts it, so a repeat changes nothing. -/
def State.takeQueue (s : State) (d q : Nat) : State :=
  let s := s.qRead q
  let w := s.qWord q
  if s.qBad q then s.ringFault q else if qLdie w = d then s else s.engPut (s.qsb q) 8 (qWordOf d (qSeq w + 1) (w % 2 ^ 32))

/-- SCHED_LEADERSHIP_MOVE [pj]: the new leader takes over every queue whose head names the partition, and those of the
launches there (R112, R115). -/
def State.leaderMove (s : State) (j : Nat) : State :=
  let d := s.leaderDie j
  if 64 ≤ j ∨ ¬ (s.srv 0x88 j).getLsbD 63 ∨ (s.part j).leader = d then s
  else
    let s1 := s.onPart j fun p => { p with leader := d }
    match d with
    | none => s1
    | some d =>
      let (s2, hs) := s1.heads d j
      (hs.map (fun h => h.q) ++ (s2.launches.filter fun l => decide (l.part = j)).map fun l => l.q).foldl
        (fun s q => s.takeQueue d q) s2

def execSchedLeadershipMove (s : State) : Out1 := .next (s.leaderMove (s.param 0))

/-- SCHED_DRAIN_WRITE [v]. -/
def execSchedDrainWrite (s : State) : Out1 := .next (s.setSr 0xA4 0 (BitVec.ofNat 64 (s.param 0 % 256)))

/-! ### Completion of an entry (R121) -/

/-- Where an entry's slot lies: its tenant, address space, whether in host memory, and the slot's address. -/
structure SlotAt where
  ten : Nat
  asid : Nat
  loc : Bool
  addr : Nat

/-- The slot of a head entry, by its queue's registers. -/
def State.headSlot (s : State) (q n : Nat) : SlotAt := ⟨s.qTen q, s.qAsid q, s.qLoc q, s.slotAddr q n⟩

/-- The slot of a launch's entry, as it was at the commit. -/
def Launch.slotAt (l : Launch) : SlotAt := ⟨l.tenant, l.asid, l.loc, l.slot⟩

/-- The STATUS, the increment and the interrupt of an entry of queue `q`. -/
def State.finishEntry (s : State) (die q e st clk : Nat) (p : SlotAt) : State × Bool :=
  let w := if p.loc then (if s.hostOk (p.addr + 56) 8 then EngR.ok (s.wrN (hostLoc (p.addr + 56)) 8 st) 0 else EngR.fail s)
           else s.engWrite die p.asid p.ten (canon (p.addr + 56)).toNat 8 st false
  let rest := fun (s : State) =>
    let s1 := if st = 3 ∨ enDfc e = 0xFFFF then s else match s.fcOf p.ten (enDfc e) with
      | some i => s.fcAdd i (BitVec.ofNat 64 (enDinc e)) clk
      | none => s
    if bit (enFlags e) 0 ∧ enVec e ≤ 63 then { s1 with out := s1.out ++ [.msix p.ten (enVec e)] } else s1
  match w with
  | .hold => (s, false)
  | .fail s1 => (rest (s1.ringFault q), true)
  | .ok s1 _ => (rest s1, true)

/-! ### Dequeue (R114, R116, R125) -/

/-- The next of a list of tenants after `t`, ascending and cyclically. -/
def nextTenant (t : Nat) (l : List Nat) : Option Nat :=
  (List.range 256).findSome? fun i => let x := (t + 1 + i) % 256; if l.contains x then some x else none

/-- The tenant whose turn it is on a partition, among those with work there. -/
def State.owner (s : State) (j : Nat) (work : List Nat) : Option Nat :=
  let p := s.part j
  let ended := match p.sliceEnd with | some d => reached 48 (s.ns 8) d | none => false
  if work.contains p.owner ∧ ¬ (ended = true ∧ (work.any fun t => decide (t ≠ p.owner)) = true) then some p.owner
  else nextTenant p.owner work

/-- Retention ends on every core of a partition (R147). -/
def State.endRetentions (s : State) (j : Nat) : State := (s.members j).foldl State.endRetention s

/-- The partition goes to a tenant; where it changes hands, retention on it ends (R125, R147). -/
def State.ownedBy (s : State) (j t : Nat) : State :=
  (if (s.part j).owner = t then s else s.endRetentions j).onPart j fun p => { p with owner := t }

/-- The slice of a tenant that owns a partition goes on (R125). -/
def State.sliceRuns (s : State) (j t : Nat) : Bool :=
  decide ((s.part j).owner = t) && (match (s.part j).sliceEnd with | some d => !reached 48 (s.ns 8) d | none => false)

/-- The owner's slice starts when it is given the partition idle (R125). It is measured by the device time of X0, whichever
die leads (DESIGN CHOICE, log 7). -/
def State.giveTo (s : State) (j t : Nat) : State :=
  if s.sliceRuns j t then s
  else (s.ownedBy j t).onPart j fun p => { p with sliceEnd := some (s.ns 8 + s.sliceNs t) }

/-- Number of a tenant's queues of one PRIO (R116). -/
def State.turnOf (s : State) (q : Nat) : Nat := s.qPrio q * 256 + s.qTen q

/-- The head that is served: the highest PRIO, then, among a tenant's queues of that PRIO, the first after the one served
last (R116). -/
def State.bestHead (s : State) (j : Nat) (l : List Head) : Option Head :=
  let key := fun (h : Head) => (255 - s.qPrio h.q) * 4096 + (h.q + 4095 - (s.part j).lastQ.val (s.turnOf h.q) 4095) % 4096
  match l with
  | [] => none
  | h :: t => some (t.foldl (fun b x => if key x < key b then x else b) h)

/-- Share k of a launch now waits on core `host`. -/
def State.moveShare (s : State) (l : Launch) (k host : Nat) : State :=
  { s with launches := s.launches.map fun (x : Launch) =>
      if x.q = l.q ∧ x.lhead = l.lhead then { x with where_ := x.where_.set k host } else x }

/-- Shares dealt to a leaving core and not begun go, one after the other, to the member that a displaced share would go
to (R95 step 2). -/
def State.redeal (s : State) (h : Nat) : State :=
  s.launches.foldl (fun s l => (List.range l.where_.length).foldl (fun s k =>
    if l.where_.getD k 0 = h ∧ l.ended.contains k = false ∧ s.begun l k = false then s.moveShare l k (s.hostFor l h)
    else s) s) s

/-- An entry committed: its copy and the launch record written, HEAD advanced (R114). -/
def State.commit (s : State) (die j : Nat) (h : Head) : State :=
  let ms := s.members j
  let dies := (ms.map dieOf).eraseDups.foldl (fun b d => b + 2 ^ d) 0
  let t := s.qTen h.q
  let s1 := s.takeQueue die h.q
  let a := s1.qsb h.q
  let s2 := ((s1.engPut (a + 64) 64 h.e).engPut (a + 16) 8 (dies * 2 ^ 48 + h.n)).engPut a 8 (qWordOf die (qSeq (s1.qWord h.q)) (h.n + 1))
  let wclk := if enWfc h.e = 0xFFFF then 0 else match s.fcOf t (enWfc h.e) with | some i => s.fcClk.val i 0 | none => 0
  let l : Launch :=
    { q := h.q, lhead := h.n, part := j, tenant := t, asid := s.qAsid h.q, loc := s.qLoc h.q
      slot := s.slotAddr h.q h.n, entry := h.e, desc := h.desc, members := ms
      where_ := ms, dies := dies, wclk := wclk, base := s.srf 0x89 j 12 0, len := s.srf 0x8A j 13 0 }
  (s.part j).leaving.foldl State.redeal
    (({ s2 with launches := s2.launches ++ [l] }.giveTo j t).onPart j fun p => { p with lastQ := p.lastQ.put (s.turnOf h.q) h.q })

/-- A saved launch resumed: a share whose core is no longer a member waits on another (R116, R131). -/
def State.resumeLaunch (s : State) (l : Launch) : State :=
  let s1 : State := { s with launches := s.launches.map fun (x : Launch) =>
    if x.q = l.q ∧ x.lhead = l.lhead then { x with saved := false, late := false } else x }
  (List.range l.members.length).foldl (fun s k =>
    if l.ended.contains k ∨ s.mayHold l (l.where_.getD k 0) then s
    else
      let host := s.hostFor l (l.where_.getD k 0)
      { s.moveShare l k host with
        saved := s.saved.map fun (v : Saved) =>
          if v.q = l.q ∧ v.lhead = l.lhead ∧ v.k = k then { v with displaced := true, host := host } else v }) s1

/-- A saved launch of a tenant resumed on its partition: within a slice of the tenant that still runs, or in one that starts
once the launch is restored (R125). -/
def State.resumeFor (s : State) (l : Launch) : State :=
  (((s.ownedBy l.part l.tenant).onPart l.part fun p =>
    { p with sliceEnd := if s.sliceRuns l.part l.tenant then p.sliceEnd else none }).resumeLaunch l).sliceStart l.q l.lhead

/-- The launch resident on a partition. -/
def State.resident (s : State) (j : Nat) : Option Launch := s.launches.find? fun l => decide (l.part = j) && !l.saved

/-- SCHED_DEQUEUE [pj]: a head entry that fails its check completes at once; otherwise, with the partition free, the
slice owner's saved launch is resumed or its best entry is committed. Where no die may lead the partition, since it is not
enabled or has no member, a bad head is completed at die 0's abutment, and LDIE and SEQ stay (DESIGN CHOICE, log 87). -/
def State.dequeue (s : State) (j : Nat) : State :=
  let die := (s.leads j).getD 0
  let (s1, hs) := s.heads die j
  match hs.find? fun h => decide (h.st ≠ 0) with
  | some h =>
    if (s.leads j).isNone ∧ (s.srv 0x88 j).getLsbD 63 ∧ s.members j ≠ [] then s1
    else
      let s2 := if (s.leads j).isSome then s1.takeQueue die h.q else s1
      let w := s2.qWord h.q
      match s2.finishEntry die h.q h.e h.st 0 (s2.headSlot h.q h.n) with
      | (s3, true) => s3.engPut (s3.qsb h.q) 8 (qWordOf (qLdie w) (qSeq w) (h.n + 1))
      | (_, false) => s
  | none =>
    if (s.leads j).isNone ∨ (s1.resident j).isSome then s1
    else
      let due := hs.filter fun h => h.due
      let saved := s1.launches.filter fun l => decide (l.part = j) && l.saved && decide (s1.tenState l.tenant = 1)
      match s1.owner j (due.map (fun h => s1.qTen h.q) ++ saved.map (fun l => l.tenant)) with
      | none => s1
      | some t =>
        let best := s1.bestHead j (due.filter fun h => decide (s1.qTen h.q = t))
        match saved.find? (fun l => decide (l.tenant = t)), best with
        | some l, some h => if l.late ∧ s1.qPrio l.q < s1.qPrio h.q then s1.commit die j h else s1.resumeFor l
        | some l, none => s1.resumeFor l
        | none, some h => s1.commit die j h
        | none, none => s1

def execSchedDequeue (s : State) : Out1 := .next (s.dequeue (s.param 0))

/-- SCHED_DEAL_ACCEPT [pj, die]: the deal of the resident launch is accepted once (R114). -/
def State.dealAccept (s : State) (j d : Nat) : State :=
  match s.resident j with
  | none => s
  | some l =>
    if ¬ l.dies.testBit d ∨ l.acked.testBit d then s
    else
      let s1 : State := { s with launches := s.launches.map fun (x : Launch) =>
        if x.q = l.q ∧ x.lhead = l.lhead then { x with acked := x.acked + 2 ^ d } else x }
      let s1 := s1.qRead l.q
      let r := s1.qRecord l.q
      if s1.qBad l.q = false ∧ r % 2 ^ 32 = l.lhead then s1.engPut (s1.qsb l.q + 16) 8 (r ||| 2 ^ (56 + d)) else s1

def execSchedDealAccept (s : State) : Out1 := .next (s.dealAccept (s.param 0) (s.param 1))

/-! ### The end of launches (R121, R124–R126) -/

/-- No core holds a share of the launch. -/
def State.noShares (s : State) (l : Launch) : Bool :=
  s.cores.all fun p => match p.2.share with
    | some x => decide (x.q ≠ l.q ∨ x.lhead ≠ l.lhead)
    | none => true

/-- Every core that runs a share of the launch is to be quiesced, for a reason (R126). -/
def State.stopLaunch (s : State) (l : Launch) (why : Nat) : State :=
  { s with
    launches := s.launches.map fun (x : Launch) => if x.q = l.q ∧ x.lhead = l.lhead then { x with stopping := why } else x
    cores := s.cores.map fun (p : Nat × Core) => (p.1, match p.2.share with
      | some x => if x.q = l.q ∧ x.lhead = l.lhead then { p.2 with quiesce := true } else p.2
      | none => p.2) }

/-- A launch and its saves are gone; the saved side-log entries are counted (R97, R124, R175). -/
def State.dropLaunch (s : State) (l : Launch) : State :=
  let s1 := s.dropSaves fun v => decide (v.q = l.q ∧ v.lhead = l.lhead)
  { s1 with launches := s1.launches.filter fun (x : Launch) => !(decide (x.q = l.q ∧ x.lhead = l.lhead)) }

/-- The leader's choice once a thread of core `h` is parked by WATCHDOG: the launch is saved for an eligible entry of
higher PRIO (R123). -/
def State.giveWay (s : State) (h : Nat) : State :=
  match (s.core h).share.bind s.launchOf with
  | none => s
  | some l =>
    match s.leads l.part with
    | none => s
    | some die =>
      let (s1, hs) := s.heads die l.part
      if l.stopping = 0 ∧ hs.any (fun g => g.due && decide (g.st = 0 ∧ s1.qTen g.q = (s.part l.part).owner ∧ s1.qPrio l.q < s1.qPrio g.q)) = true then
        let s2 := s1.stopLaunch l 1
        { s2 with launches := s2.launches.map fun (x : Launch) => if x.q = l.q ∧ x.lhead = l.lhead then { x with late := true } else x }
      else s

/-- WATCHDOG_EXPIRY [h, slot] (R123): the thread's routine cycle count has reached its limit; named again while the thread
is parked by it, the leader takes its choice. A core that is being quiesced holds it until it runs again (R126), and the thread
parks once its results of majors 0x24 to 0x26 are written (R345). -/
def execWatchdogExpiry (s : State) : Out1 :=
  let h := s.param 0
  let k := s.param 1
  .next (if (s.core h).quiesce then s
    else if (s.thr h k).st = .active ∧ (s.thr h k).limit ≠ 0 then if s.fpOwed h k then s else s.kfaultAt h k fWATCHDOG 0 0 0 0
    else if (s.thr h k).st = .parked fWATCHDOG then s.giveWay h else s)

/-- LAUNCH_COMPLETE [pj]: the resident launch has ended, or every core of one that is stopped has finished. -/
def State.launchComplete (s : State) (j : Nat) : State :=
  match s.resident j, s.leads j with
  | some l, some die =>
    let fin := fun st =>
      match s.finishEntry die l.q l.entry st l.clk l.slotAt with
      | (s1, true) => s1.dropLaunch l
      | (_, false) => s
    if l.stopping ≤ 1 ∧ l.ended.length = l.members.length then fin 1
    else if l.stopping = 0 ∨ ¬ s.noShares l then s
    else if l.stopping = 1 then
      { s with launches := s.launches.map fun (x : Launch) =>
          if x.q = l.q ∧ x.lhead = l.lhead then { x with saved := true, stopping := 0 } else x }
    else if l.stopping = 2 then fin 6
    else if l.stopping = 4 then fin 7
    else s
  | _, _ => s

def execLaunchComplete (s : State) : Out1 := .next (s.launchComplete (s.param 0))

/-- SCHED_END [pj] (R124). A launch that a reset or a failed save ends already goes on to its end. -/
def State.schedEnd (s : State) (j : Nat) : State :=
  match s.resident j with
  | none => s
  | some l => if 2 < l.stopping then s else (s.stopLaunch l 2).endRetentions j

def execSchedEnd (s : State) : Out1 := .next (s.schedEnd (s.param 0))

/-- SLICE_END [pj] (R125). -/
def State.endSlice (s : State) (j : Nat) : State :=
  let p := s.part j
  match s.resident j, p.sliceEnd, s.leads j with
  | some l, some d, some die =>
    if l.stopping ≠ 0 ∨ ¬ reached 48 (s.ns 8) d then s
    else
      let (s1, hs) := s.heads die j
      let work := ((hs.filter fun h => h.due && decide (h.st = 0)).map fun h => s1.qTen h.q) ++
        ((s1.launches.filter fun l => decide (l.part = j) && l.saved).map fun l => l.tenant)
      match nextTenant p.owner (work.filter fun t => decide (t ≠ p.owner)) with
      | none => s1.onPart j fun p => { p with sliceEnd := some (s.ns 8 + s.sliceNs p.owner) }
      | some t => ((s1.stopLaunch l 1).onPart j fun p => { p with owner := t, sliceEnd := none }).endRetentions j
  | _, _, _ => s

def execSliceEnd (s : State) : Out1 := .next (s.endSlice (s.param 0))

end Sys2Proof.Machine
end

