-- ==== Sys2Proof/Machine/Links.lean ====
section
/-! DEFINITION. The scale-up ports (R38–R43), inbound remote accesses (R45), the collective engine (R46–R54), Ethernet
ingest (R56–R66) and the memory pool (R68, R69). -/

namespace Sys2Proof.Machine

/-! ### Ports and flits (R39) -/

def State.port (s : State) (p : Nat) : Port := s.ports.val p {}
def State.setPort (s : State) (p : Nat) (x : Port) : State := { s with ports := s.ports.put p x }

/-- Fields of a flit's header (R39): the sequence number and the acknowledged one. -/
def flitSeq (f : Nat) : Nat := bits f 11 0
def flitAck (f : Nat) : Nat := bits f 23 12

/-- The flit passes its CRC check: its last 8 bytes are the CRC of the others (R39). -/
def flitOk (f : Nat) : Bool := decide (bits f 2047 1984 = Config.crc64 (f % 2 ^ 1984) % 2 ^ 64)

/-- Unacknowledged flits up to the acknowledged sequence number leave the replay buffer. -/
def Port.acked (x : Port) (a : Nat) : Port :=
  let r := x.replay.filter fun p => decide (2048 ≤ (a + 4096 - p.seq) % 4096)
  { x with replay := r, nak := if r.length < x.replay.length then none else x.nak, failed := if r.length < x.replay.length then 0 else x.failed }

/-- LINK_FLIT_RECEIVE [port, flit]: in order it is handed to the upper layer, once; otherwise it is negatively acknowledged.
What the upper layer makes of it arrives by that layer's own steps. What it acknowledges makes room for flits that wait. A port
whose die relocks takes nothing (R21). -/
def State.flitReceive (s : State) (p f : Nat) : State :=
  let x := s.port p
  if x.state ≠ 2 ∨ s.relocking = some (portSocket p) then s
  else if ¬ flitOk f ∨ flitSeq f ≠ x.rxSeq then { s with out := s.out ++ [.nak p x.rxSeq] }
  else { s.setPort p { (x.acked (flitAck f)) with rxSeq := (x.rxSeq + 1) % 4096 } with delivered := s.delivered ++ [(p, f)] }.sendFlits []

def execLinkFlitReceive (s : State) : Out1 := .next (s.flitReceive (s.param 0) (s.param 1 % 2 ^ 2048))

/-! ### Inbound remote accesses (R45) -/

/-- The access that an inbound request makes: 0 a load, 1 a store, 16 + o an atomic, 32 + o a reduction. -/
def inboundKind (op : Nat) : AccKind :=
  if op = 0 then .load else if op = 1 then .store else if op < 32 then .amo (op - 16) true else .amo (op - 32) false

/-- The answer: 0 and the value, 1 done, 2 refused, 4 poison. It neither checks nor changes a race record (R203). It arrives by a
port whose die runs (R21). -/
def State.inbound (s : State) (t pa op n data port : Nat) : State :=
  let e := s.frame (pa / 65536)
  let k := inboundKind op
  let say := fun (s : State) (l : List Nat) => { s with out := s.out ++ [.remote l] }
  if s.moving pa ∨ ¬ s.homeRuns pa ∨ s.relocking = some (portSocket port) then s
  else if ¬ isHbm pa ∨ e.owner ≠ 1 ∨ ¬ (e.state = 1 ∨ e.state = 3) ∨ e.exported = false ∨ e.tenant ≠ t then say s [2]
  else
    let a : Acc := { tenant := t, loc := pa, size := n, kind := k, free := true, strong := true, data := data % 256 ^ n, data2 := data / 256 ^ n }
    match s.perform a with
    | (s1, .value v) => say s1 [0, v]
    | (s1, .fault _) => say s1 [4]
    | (s1, _) => say s1 [1]

/-- REMOTE_ACCESS_INBOUND [tenant, pa, op, size, data, port]. -/
def execRemoteAccessInbound (s : State) : Out1 :=
  .next (s.inbound (s.param 0) (s.param 1) (s.param 2) (s.param 3) (s.param 4) (s.param 5))

/-! ### The collective queues (R46–R48) -/

/-- Compute die whose abutment the model uses for an engine of I/O die `x`. -/
def engDie (x : Nat) : Nat := 2 * (x % 4)

/-- The I/O die whose engine serves a tenant relocks: the engine stands still (R21). -/
def State.engStill (s : State) (t : Nat) : Bool := decide (s.relocking = some (16 + t % 4))

def State.collEn (s : State) (t : Nat) : Bool := (s.srv 0x58 t).getLsbD 63
def State.collVa (s : State) (t : Nat) : Nat := (canon (s.srf 0x58 t 56 12 * 4096)).toNat
def State.collAsid (s : State) (t : Nat) : Nat := s.srf 0x59 t 47 32
def State.collLog (s : State) (t : Nat) : Nat := s.srf 0x59 t 4 0
def State.collOff (s : State) (t : Nat) : State := s.setSrf 0x58 t 63 63 0

/-- COLL_QB_WRITE [t, v]. -/
def State.collQb (s : State) (t : Nat) (v : Word) : State :=
  if t = 0 ∨ 256 ≤ t then s
  else if s.collEn t then (if v.getLsbD 63 then s else s.collOff t)
  else
    let ok := v.getLsbD 63 && (s.srv 0x80 t).getLsbD 63 && decide (6 ≤ s.collLog t ∧ s.collLog t ≤ 16)
    let s1 := s.setSr 0x58 t ((v &&& 0x01FFFFFFFFFFF000) ||| (if ok then 0x8000000000000000 else 0))
    if ok then { s1 with collIdx := s1.collIdx.put t 0 } else s1

def execCollQbWrite (s : State) : Out1 := .next (s.collQb (s.param 0) (BitVec.ofNat 64 (s.param 1)))

/-- Fields of a descriptor (R48). -/
def cdOp (d : Nat) : Nat := recField d 0 4
def cdType (d : Nat) : Nat := recField d 4 1
def cdRed (d : Nat) : Nat := recField d 5 1
def cdGroup (d : Nat) : Nat := recField d 6 2
def cdSrc (d : Nat) : Nat := recField d 8 8
def cdDst (d : Nat) : Nat := recField d 16 8
def cdLen (d : Nat) : Nat := recField d 24 4
def cdNode (d : Nat) : Nat := recField d 28 4
def cdKey (d : Nat) : Nat := recField d 32 4
def cdFc (d : Nat) : Nat := recField d 36 2
def cdInc (d : Nat) : Nat := recField d 40 8
def elemSize (ty : Nat) : Nat := if ty = 1 then 2 else if ty = 3 then 8 else 4

/-- A field of the descriptor is out of range, or a reserved byte is set (R48). -/
def State.badDesc (s : State) (t d : Nat) : Bool :=
  let z := elemSize (cdType d)
  decide (1 < cdOp d ∨ 3 < cdType d ∨ 2 < cdRed d ∨ 4095 < cdGroup d ∨ cdSrc d % z ≠ 0 ∨ cdLen d < 4 ∨
    2 ^ 24 < cdLen d ∨ cdLen d % z ≠ 0 ∨ 2 ^ 19 ≤ cdNode d ∨ recField d 38 2 ≠ 0 ∨ recField d 56 8 ≠ 0) ||
    (s.fcOf t (cdFc d)).isNone

/-- A descriptor that was read in address space `asid` completes: STATUS, then FCINC (R46); nothing while the write is held.
A fault on the ring region clears EN (R47). -/
def State.collFinish (s : State) (t asid va d st : Nat) : Option State :=
  let inc := fun (s : State) => match s.fcOf t (cdFc d) with
    | some i => s.fcAdd i (BitVec.ofNat 64 (cdInc d)) 0
    | none => s
  if s.engStill t then none
  else match s.engWrite (engDie t) asid t (va + 48) 8 st false with
  | .ok s1 _ => some (inc s1)
  | .fail s1 => some (inc (s1.collOff t))
  | .hold => none

/-- What the engine finds at the head of a tenant's queue. -/
inductive CollGot where
  | none (s : State)
  | desc (s : State) (va d : Nat)

/-- The next descriptor of a tenant's queue (R46, R47). A poisoned ring clears EN, as a fault on it does (DESIGN CHOICE,
log 43). -/
def State.collHead (s : State) (t : Nat) : CollGot :=
  let die := engDie t
  let a := s.collAsid t
  let n := s.collIdx.val t 0
  let va := s.collVa t + 64 + 64 * (n % 2 ^ s.collLog t)
  if ¬ s.collEn t ∨ s.engStill t = true then .none s
  else match s.engRead die a t (s.collVa t) 8 with
  | .hold => .none s
  | .fail s1 => .none (s1.collOff t)
  | .ok s1 prod =>
    if prod = n then .none s1
    else if 2 ^ s1.collLog t < (prod + 2 ^ 64 - n) % 2 ^ 64 then .none (s1.collOff t)
    else match s1.engRead die a t va 64 with
      | .hold => .none s
      | .fail s2 => .none (s2.collOff t)
      | .ok s2 d => .desc s2 va d

/-- The engine has consumed a descriptor. -/
def State.collTaken (s : State) (t : Nat) : State := { s with collIdx := s.collIdx.put t ((s.collIdx.val t 0 + 1) % 2 ^ 64) }

/-- The bytes of SRC. -/
def State.collSrc (s : State) (t d : Nat) : EngR :=
  s.engReadN (engDie t) (s.collAsid t) t (cdSrc d) (cdLen d) 0 0 (cdLen d / 64 + 2)

/-! ### ALLREDUCE (R49–R52) -/

/-- A physical record in frames that ACCEL owns, without poison (log 43). -/
def State.ownRec (s : State) (pa n : Nat) : Option Nat :=
  if (List.range ((pa + n - 1) / 256 - pa / 256 + 1)).all fun i =>
      let a := (pa / 256 + i) * 256
      isHbm a && decide ((s.frame (a / 65536)).owner = 1) && !s.poisoned a
  then some (s.rdP pa n) else none

/-- Address of a group's descriptor. -/
def State.groupAt (s : State) (g : Nat) : Nat := s.srf 0x5A g 47 6 * 64

/-- A group as its descriptor defines it for a tenant: its member nodes, the rank and the timeout in ns (R52). -/
def State.group (s : State) (t g : Nat) : Option (List Nat × Nat × Nat) :=
  let a := s.groupAt g
  match s.ownRec a 64 with
  | none => none
  | some r =>
    let n := recField r 0 2
    let rank := recField r 2 2
    let tmo := recField r 4 4
    if ¬ (s.srv 0x5A g).getLsbD 63 ∨ n = 0 ∨ 1024 < n ∨ n ≤ rank ∨ tmo < 10 ∨ 1000000 < tmo ∨ recField r 8 1 ≠ t ∨ recField r 9 55 ≠ 0 then none
    else match s.ownRec (a + 64) (4 * n) with
    | none => none
    | some v =>
      let ms := (List.range n).map fun i => recField v (4 * i) 4
      if ms.getD rank 0 ≠ s.srf 0x50 0 18 0 ∨ ¬ ms.Nodup ∨ ms.any (fun m => decide (2 ^ 19 ≤ m) || !s.inDomain m) = true then none
      else some (ms, rank, 1000 * tmo)

/-- Time unit of the I/O die whose engine serves a tenant; a collective's timeout runs on its `DTIME`, where R51 names none
(DESIGN CHOICE, log 43). -/
def collUnit (t : Nat) : Nat := 8 + t % 4

/-- An ALLREDUCE begins: its bytes leave for every other member (R51, R52). -/
def State.contribute (s : State) (c : Coll) : State :=
  if c.members.length ≤ 1 ∨ ¬ s.routed then s
  else
    let s1 := s.sendRemote {}
    { s1 with out := s1.out ++ (c.members.eraseIdx c.rank).map fun m => Out.contribution m c.tenant c.group c.seq c.contrib }

/-- COLL_ALLREDUCE [t]: the next descriptor, when it is no PUT. A poisoned or unreachable SRC gives BADDESC, as a fault of
its translation does (DESIGN CHOICE, log 43). -/
def State.allreduce (s : State) (t : Nat) : State :=
  match s.collHead t with
  | .none s1 => s1
  | .desc s1 va d =>
    if cdOp d = 1 then s
    else
      let a := s.collAsid t
      let g := cdGroup d
      let s2 := (s1.collTaken t).checkRead (s1.groupAt g) 4160
      match (if s2.badDesc t d then none else s2.group t g) with
      | none => (s2.collFinish t a va d 4).getD s
      | some (ms, rank, tmo) =>
        match s2.collSrc t d with
        | .hold => s
        | .fail s3 => (s3.collFinish t a va d 4).getD s
        | .ok s3 v =>
          if ¬ s3.mayLeave then s
          else
            let (s4, id) := s3.newId
            let n := s4.collSeq.val (4096 * t + g) 0
            let c : Coll := { id := id, tenant := t, desc := d, slotVa := va, asid := a, group := g, members := ms, rank := rank
                              seq := n, deadline := s4.ns (collUnit t) + tmo, contrib := toBytes v (cdLen d) }
            { s4 with colls := s4.colls ++ [c], collSeq := s4.collSeq.put (4096 * t + g) (n + 1) }.contribute c

def execCollAllreduce (s : State) : Out1 := .next (s.allreduce (s.param 0))

/-- The sum, minimum or maximum of two elements; BF16 sums stand in FP32 (R49). -/
def reduce2 (ty red x y : Nat) : Nat :=
  if ty = 0 ∨ ty = 1 then
    let f := if ty = 1 ∧ red ≠ 0 then bf16 else fp32
    (if red = 0 then ffAdd fp32 x y 0 else ffMinMax (decide (red = 2)) f x y 0)
  else
    let w := 8 * elemSize ty
    if red = 0 then (x + y) % 2 ^ w
    else if (sgn w x ≤ sgn w y) = (red = 1) then x else y

/-- An element as it enters and leaves the reduction. -/
def reduceIn (ty red x : Nat) : Nat := if ty = 1 ∧ red = 0 then fp32.round .rne false (bf16.read x) else x
def reduceOut (ty red x : Nat) : Nat := if ty = 1 ∧ red = 0 then bf16.round .rne false (fp32.read x) else x

/-- Element i of a reduction of contributions, combined in the order of the list. -/
def reduceAt (ty red i : Nat) (cs : List Nat) : Nat :=
  let z := elemSize ty
  let at_ := fun c => reduceIn ty red (c / 256 ^ (z * i) % 256 ^ z)
  match cs with
  | [] => 0
  | c :: rest => reduceOut ty red (rest.foldl (fun a x => reduce2 ty red a (at_ x)) (at_ c))

/-- ALLREDUCE_COMPLETE [id, pos, others ...]: the other members' LEN bytes each, in the order they arrive; this member's
own contribution is combined at place `pos`. -/
def State.allreduceDone (s : State) (id pos : Nat) (others : List Nat) : State :=
  match s.colls.find? fun c => decide (c.id = id) && !c.put with
  | none => s
  | some c =>
    if others.length + 1 ≠ c.members.length then s
    else
      let d := c.desc
      let n := cdLen d
      let z := elemSize (cdType d)
      let cs := others.take pos ++ [ofBytes c.contrib] ++ others.drop pos
      let v := (List.range (n / z)).foldr (fun i v => reduceAt (cdType d) (cdRed d) i cs % 256 ^ z + 256 ^ z * v) 0
      let s1 : State := { s with colls := s.colls.filter fun (x : Coll) => decide (x.id ≠ id) }
      match s1.engWriteN (engDie c.tenant) c.asid c.tenant (cdDst d) n v false (n / 64 + 2) with
      | .ok s2 _ => (s2.collFinish c.tenant c.asid c.slotVa d 1).getD s
      | .fail s2 => (s2.collFinish c.tenant c.asid c.slotVa d 4).getD s
      | .hold => s

def execAllreduceComplete (s : State) : Out1 :=
  .next (s.allreduceDone (s.param 0) (s.param 1) (s.params.drop 2))

/-- DST holds no defined value (R51). -/
def State.loseDst (s : State) (c : Coll) : Option State :=
  let (s1, k) := s.freshN
  let n := cdLen c.desc
  match s1.engWriteN (engDie c.tenant) c.asid c.tenant (cdDst c.desc) n (Config.freeNat k % 256 ^ n) false (n / 64 + 2) with
  | .ok s2 _ => some s2
  | .fail s2 => some s2
  | .hold => none

/-- An open ALLREDUCE ends without its result. -/
def State.collLost (s : State) (id st : Nat) (ok : Coll → Bool) : State :=
  match s.colls.find? fun c => decide (c.id = id) && !c.put && ok c with
  | none => s
  | some c =>
    (({ s with colls := s.colls.filter fun (x : Coll) => decide (x.id ≠ id) }.loseDst c).bind fun s1 =>
      s1.collFinish c.tenant c.asid c.slotVa c.desc st).getD s

/-- COLL_TIMEOUT [id]. -/
def execCollTimeout (s : State) : Out1 :=
  .next (s.collLost (s.param 0) 3 fun c => reached 48 (s.ns (collUnit c.tenant)) c.deadline)

/-- COLL_MEMBER_LOST [id]: another member abandoned its part. -/
def execCollMemberLost (s : State) : Out1 := .next (s.collLost (s.param 0) 2 fun _ => true)

/-- A tenant's part of every collective is abandoned, of which the other members are told, and its unstarted descriptors are
discarded (R51, R97 step 5). -/
def State.collAbandon (s : State) (t : Nat) : State :=
  let told := (s.colls.filter fun (c : Coll) => decide (c.tenant = t) && !c.put).flatMap fun c =>
    (c.members.eraseIdx c.rank).map fun m => Out.abandon m t c.group c.seq
  { s.collOff t with colls := s.colls.filter fun (c : Coll) => decide (c.tenant ≠ t), out := s.out ++ told }

/-! ### PUT (R53, R54) -/

/-- COLL_PUT [t]: the next descriptor, when it is a PUT; its bytes leave for the target's keyed buffer. -/
def State.collPut (s : State) (t : Nat) : State :=
  match s.collHead t with
  | .none s1 => s1
  | .desc s1 va d =>
    if cdOp d ≠ 1 then s
    else
      let a := s.collAsid t
      let s2 := s1.collTaken t
      if s2.badDesc t d then (s2.collFinish t a va d 4).getD s
      else match s2.collSrc t d with
        | .hold => s
        | .fail s3 => (s3.collFinish t a va d 4).getD s
        | .ok s3 v =>
          if ¬ s3.routed then (s3.collFinish t a va d 5).getD s
          else if ¬ s3.mayLeave then s
          else
            let (s4, id) := s3.newId
            let s5 := s4.sendRemote { coll := id }
            let bs := toBytes v (cdLen d)
            { s5 with
              colls := s5.colls ++ [{ id := id, tenant := t, put := true, desc := d, slotVa := va, asid := a, contrib := bs }]
              out := s5.out ++ [.put (cdNode d) t (cdKey d) (cdDst d) bs] }

def execCollPut (s : State) : Out1 := .next (s.collPut (s.param 0))

/-- PUT_COMPLETE [id, status]: OK, UNREACHABLE or FABPERM; UNREACHABLE where its flit had no route (R40). -/
def State.putDone (s : State) (id st : Nat) : State :=
  match s.colls.find? fun c => decide (c.id = id) && c.put with
  | none => s
  | some c =>
    let st := if c.lost then 5 else st
    if st = 1 ∨ st = 5 ∨ st = 6 then
      ({ s with colls := s.colls.filter fun (x : Coll) => decide (x.id ≠ id) }.collFinish c.tenant c.asid c.slotVa c.desc st).getD s
    else s

def execPutComplete (s : State) : Out1 := .next (s.putDone (s.param 0) (s.param 1))

/-- The registration of a key for a PUT of `n` bytes at `off` by a tenant: its record where the PUT is admitted (R54). -/
def State.keyRec (s : State) (t key off n : Nat) : Option Nat :=
  let e := s.srv 0x5B key
  match (if key < 4096 ∧ e.getLsbD 63 then s.ownRec (wbits e 47 6 * 64) 64 else none) with
  | none => none
  | some r =>
    let len := recField r 8 8
    let ten := recField r 18 1
    let fc := recField r 20 2
    let lo := 256 * s.tenFcb ten
    if len = 0 ∨ 2 ^ 40 < len ∨ ten = 0 ∨ recField r 19 1 ≠ 0 ∨ recField r 22 2 ≠ 0 ∨ recField r 32 32 ≠ 0 ∨ fc < lo ∨
        lo + 256 * s.tenFcn ten ≤ fc ∨ t ≠ ten ∨ len < off + n then none
    else some r

/-- PUT_RECEIVE [tenant, key, off, len, data]: the answer is STATUS 1 or 6. -/
def State.putReceive (s0 : State) (t key off n data : Nat) : State :=
  let s := s0.checkRead (s0.srf 0x5B key 47 6 * 64) 64
  let say := fun (s : State) (st : Nat) => { s with out := s.out ++ [.remote [st]] }
  if s0.engStill t then s0
  else match s.keyRec t key off n with
  | none => say s 6
  | some r =>
    match s.engWriteN (engDie t) (recField r 16 2) t (recField r 0 8 + off) n data false (n / 64 + 2) with
    | .hold => s0
    | .fail s1 => say s1 6
    | .ok s1 _ =>
      let inc := recField r 24 8
      say (if inc = 0 then s1 else s1.fcAdd (recField r 20 2) (BitVec.ofNat 64 inc) 0) 1

def execPutReceive (s : State) : Out1 :=
  .next (s.putReceive (s.param 0) (s.param 1) (s.param 2) (s.param 3) (s.param 4))

/-! ### Scale-up ports (R40–R43) -/

/-- Another UP port to the same peer. -/
def State.otherPort (s : State) (p : Nat) : Option Nat :=
  firstBelow 64 fun q => decide (q ≠ p ∧ (s.port q).state = 2 ∧ (s.port q).peer = (s.port p).peer)

/-- A unit's locked state becomes another: that of a new role, or HOLDOVER (R26, R28). -/
def State.relabel (s : State) (st u : Nat) : State :=
  let w := s.tstat.val u 0
  if wbits w 1 0 = 1 ∨ wbits w 1 0 = 2 then { s with tstat := s.tstat.put u (putBits w 1 0 st) } else s

/-- A follower whose port leaves UP loses its master: its units read HOLDOVER (R26). -/
def State.timeLost (s : State) (p : Nat) : State :=
  if s.srf 0x44 0 1 0 = 2 ∧ s.srf 0x44 0 13 8 = p then (List.range 13).foldl (fun s u => s.relabel 3 u) s else s

/-- What was to leave over a port with no other route (R40): an access that waits for its answer takes POISON, a store is counted,
and a PUT ends UNREACHABLE. -/
def State.unrouted (s : State) (f : Sent) : State :=
  let s1 := match f.addr with | some a => s.countDrop 0x54 0x55 a | none => s
  let s2 := match (if f.acc = 0 then none else s1.acc? f.acc) with
    | some a => if a.gone then s1.landFault a (.kernel fPOISON a.va) else s1
    | none => s1
  if f.coll = 0 then s2
  else { s2 with colls := s2.colls.map fun (c : Coll) => if c.id = f.coll then { c with lost := true } else c }.putDone f.coll 5

/-- Unacknowledged flits go over a port as its replay buffer has room; the rest wait ahead of what waits (R39, R40). -/
def State.resendOver (s : State) (q : Nat) : List Sent → State
  | [] => s
  | f :: t => if (s.port q).replay.length < 256 ∧ s.relocking ≠ some (portSocket q) then (s.sendFlit q f).resendOver q t
              else { s with flitWait := f :: t ++ s.flitWait }

/-- A port leaves UP for `st`: its unacknowledged flits go over another port to the same peer, or their transactions end
UNREACHABLE (R40, R42), as those of waiting flits do once no port routes them. -/
def State.portDown (s : State) (p st : Nat) : State :=
  let x := s.port p
  let s1 := (s.timeLost p).setPort p { x with state := st, replay := [], nak := none, failed := 0, txSeq := 0, rxSeq := 0 }
  match s.otherPort p with
  | some q => s1.resendOver q x.replay
  | none => if s1.routed then x.replay.foldl State.unrouted s1
            else (x.replay ++ s1.flitWait).foldl State.unrouted { s1 with flitWait := [] }

/-- FLIT_REPLAY [port, seq]: a negative acknowledgement; after 8 consecutive failed replays of one flit the port goes
DOWN (R39, R40). -/
def State.flitReplay (s : State) (p q : Nat) : State :=
  let x := s.port p
  let fs := x.replay.filter fun r => decide ((r.seq + 4096 - q) % 4096 < 2048)
  if x.state ≠ 2 ∨ ¬ (x.replay.any fun r => decide (r.seq = q)) then s
  else if x.nak = some q ∧ 8 ≤ x.failed then s.portDown p 0
  else
    { s.setPort p { x with
        retries := (x.retries + fs.length) % 2 ^ 32, nak := some q, failed := if x.nak = some q then x.failed + 1 else 1 } with
      out := s.out ++ fs.map fun r => .flit p r.flit }

def execFlitReplay (s : State) : Out1 := .next (s.flitReplay (s.param 0) (s.param 1))

/-- LINK_DOWN [port]. -/
def State.linkDown (s : State) (p : Nat) : State :=
  if (s.port p).state = 1 ∨ (s.port p).state = 2 then s.portDown p 0 else s

def execLinkDown (s : State) : Out1 := .next (s.linkDown (s.param 0))

/-- LINK_TRAINING_DONE [port, peer, peerPort]: UP, unless both packages have one node id (R42, R43). -/
def State.trainingDone (s : State) (p peer pp : Nat) : State :=
  let x := s.port p
  if 64 ≤ p ∨ x.state ≠ 1 ∨ peer % 2 ^ 19 = s.srf 0x50 0 18 0 then s
  else (s.setPort p { x with state := 2, retries := 0, peer := peer % 2 ^ 19, peerPort := pp % 64 }).sendFlits []

def execLinkTrainingDone (s : State) : Out1 := .next (s.trainingDone (s.param 0) (s.param 1) (s.param 2))

/-- PORT_ENABLE [port]: `FAB.PCTL`.EN set. -/
def State.portEnable (s : State) (p : Nat) : State :=
  if 64 ≤ p then s
  else
    let s1 := s.setSr 0x56 p 1
    if (s.port p).state = 3 then s1.setPort p { s.port p with state := 1 } else s1

def execPortEnable (s : State) : Out1 := .next (s.portEnable (s.param 0))

/-- PORT_DISABLE [port]: `FAB.PCTL`.EN cleared; unacknowledged flits are sent another way first (R42). -/
def State.portDisable (s : State) (p : Nat) : State := if 64 ≤ p then s else (s.setSr 0x56 p 0).portDown p 3

def execPortDisable (s : State) : Out1 := .next (s.portDisable (s.param 0))

/-- PORT_RETRAIN_TIMER [port]. -/
def execPortRetrainTimer (s : State) : Out1 :=
  let p := s.param 0
  .next (if (s.port p).state = 0 ∧ (s.srv 0x56 p).getLsbD 0 then s.setPort p { s.port p with state := 1 } else s)

/-- Every port is DISABLED. -/
def State.portsOff (s : State) : Bool := s.ports.all fun p => decide (p.2.state = 3)

/-- FAB_NODE_WRITE [v]. -/
def State.nodeWrite (s : State) (v : Word) : State := if s.portsOff then s.setSr 0x50 0 (v &&& 0x7FFFF) else s

def execFabNodeWrite (s : State) : Out1 := .next (s.nodeWrite (BitVec.ofNat 64 (s.param 0)))

/-! ### Flow rules (R59–R61) -/

/-- Byte i of a frame, and two bytes in wire order. -/
def fByte (f i : Nat) : Nat := f / 256 ^ i % 256
def fBe (f i : Nat) : Nat := 256 * fByte f i + fByte f (i + 1)

/-- Offset of the EtherType after any 802.1Q tags. -/
def typeAt (f i : Nat) : Nat → Nat
  | 0 => i
  | n + 1 => if fBe f i = 0x8100 ∨ fBe f i = 0x88A8 then typeAt f (i + 4) n else i

/-- The tags that a frame of at most 9,216 bytes can hold. -/
def maxTags : Nat := 2304

/-- UDP destination port of a frame (R60). -/
def udpPort (f : Nat) : Option Nat :=
  let o := typeAt f 12 maxTags
  let h := o + 2
  if fBe f o = 0x0800 ∧ fByte f (h + 9) = 17 ∧ fBe f (h + 6) % 8192 = 0 then some (fBe f (h + 4 * (fByte f h % 16) + 2))
  else if fBe f o = 0x86DD ∧ fByte f (h + 6) = 17 then some (fBe f (h + 42))
  else none

/-- A rule matches a frame (R60). -/
def ruleHits (r f : Nat) : Bool :=
  let m := recField r 1 1
  let o := typeAt f 12 maxTags
  let tagged := decide (o ≠ 12)
  let sel := fun i (p : Bool) => !m.testBit i || p
  decide (recField r 0 1 ≠ 0) && sel 0 (decide (recField r 8 6 = f % 256 ^ 6)) &&
    sel 1 (tagged && decide (recField r 4 2 = fBe f 14 % 4096)) && sel 2 (tagged && decide (recField r 3 1 = fBe f 14 / 8192)) &&
    sel 3 (decide (recField r 6 2 = fBe f o)) &&
    sel 4 (decide (fBe f o = 0x0800 ∧ recField r 16 4 = f / 256 ^ (o + 18) % 256 ^ 4)) &&
    sel 5 (decide (fBe f o = 0x86DD ∧ recField r 16 16 = f / 256 ^ (o + 26) % 256 ^ 16)) &&
    sel 6 (decide (udpPort f = some (recField r 14 2)))

/-- BADRULE's causes (R60). -/
def ruleBad (r : Nat) : Bool :=
  let m := recField r 1 1
  decide (2 < recField r 0 1 ∨ 128 ≤ m ∨ 8 ≤ recField r 3 1 ∨ 4096 ≤ recField r 4 2 ∨ recField r 32 32 ≠ 0) ||
    (m.testBit 4 && m.testBit 5)

/-- ING_RULE_LOAD [v]: a load begins unless one runs (R61). -/
def State.ruleStart (s : State) (v : Word) : State :=
  if s.ruleLoad.isSome then s
  else { s with ruleLoad := some (wbits v 10 8, wbits v 7 0) }.setSr 0x67 0 1

def execIngRuleLoad (s : State) : Out1 := .next (s.ruleStart (BitVec.ofNat 64 (s.param 0)))

/-- RULE_LOAD_COMPLETE: the record is read, checked and replaces the rule. -/
def State.ruleDone (s : State) : State :=
  match s.ruleLoad with
  | none => s
  | some (p, r) =>
    let a := s.srf 0x65 p 47 14 * 16384 + 64 * r
    let s1 := { s with ruleLoad := none }.checkRead a 64
    match s1.ownRec a 64 with
    | none => s1.setSr 0x67 0 3
    | some x => if ruleBad x then s1.setSr 0x67 0 2
                else { s1 with rules := s1.rules.put (p * 256 + r) (BitVec.ofNat 512 x) }.setSr 0x67 0 0

/-- The rule of a port that a frame takes: its number and record. -/
def State.ruleFor (s : State) (p f : Nat) : Option (Nat × Nat) :=
  s.rules.findSome? fun x => if x.1 / 256 = p ∧ ruleHits x.2.toNat f = true then some (x.1 % 256, x.2.toNat) else none

/-! ### Rings (R62–R66) -/

def State.ring (s : State) (r : Nat) : Ring := s.rings.val r {}
def State.ringEn (s : State) (r : Nat) : Bool := (s.srv 0x60 r).getLsbD 63
def State.ringTen (s : State) (r : Nat) : Nat := s.srf 0x60 r 55 48
def State.ringSlot (s : State) (r : Nat) : Nat := s.srf 0x60 r 47 44
def State.ringLog (s : State) (r : Nat) : Nat := s.srf 0x60 r 43 39

/-- Where a byte of a ring's region lies, in its tenant's stage-2 space. -/
def State.ringLoc (s : State) (r off : Nat) (wr : Bool) : State × Option (Phys × Leaf) :=
  match s.stage2 (s.ringTen r) (s.srf 0x61 r 63 16 * 65536 + off) with
  | (s1, .ok (p, lf)) => (s1, if (if wr then lf.w else lf.rd) then some (p, lf) else none)
  | (s1, .error _) => (s1, none)

/-- The ingest engine's access to `n` bytes of a place. -/
def State.ringAcc (s : State) (r n : Nat) (p : Phys) (lf : Leaf) : Acc :=
  { tenant := s.ringTen r, size := n, free := true, strong := true, loc := p.pa, node := p.node, rpa := p.rpa, pack := lf.pack
    failAttr := lf.fail }

/-- A write of the ingest engine within a 64-B line: each word it completes becomes full (R163). A refused write has no
effect (log 14). -/
def State.ingWrite1 (s : State) (r off n v : Nat) (whole : Bool) : State :=
  match s.ringLoc r off true with
  | (s1, none) => s1
  | (s1, some (p, lf)) =>
    (s1.perform { s.ringAcc r n p lf with data := v, whole := whole, kind := if n % 4 = 0 ∧ isHbm p.pa then .stf else .store }).1

/-- The part from `off` on of a write of `[lo, hi)`, its last odd bytes apart. -/
def State.ingWriteFrom (s : State) (r lo hi off v : Nat) : Nat → State
  | 0 => s
  | f + 1 =>
    let n := hi - off
    if n = 0 then s
    else
      let k := if n < 4 then n else min (n / 4 * 4) (64 - off % 64)
      (s.ingWrite1 r off k (v % 256 ^ k) (decide (lo ≤ off / 256 * 256 ∧ off / 256 * 256 + 256 ≤ hi))).ingWriteFrom r lo hi (off + k)
        (v / 256 ^ k) f

/-- A write of any range. -/
def State.ingWrite (s : State) (r off n v f : Nat) : State := s.ingWriteFrom r off (off + n) off v f

/-- A doubleword of the region read; 0 where it is refused or poisoned (log 14). -/
def State.ingRead (s : State) (r off : Nat) : State × Nat :=
  match s.ringLoc r off false with
  | (s1, none) => (s1, 0)
  | (s1, some (p, lf)) => match s1.perform (s.ringAcc r 8 p lf) with
    | (s2, .value v) => (s2, v)
    | (s2, _) => (s2, 0)

def State.setRing (s : State) (r : Nat) (x : Ring) : State := { s with rings := s.rings.put r x }

/-- Occupied slots, as the engine sees them (R64). -/
def State.ringOcc (s : State) (r : Nat) : Nat := (s.ring r).head - (s.ring r).tailSeen

/-- The rings on a port: those that its rules and default action deliver to, where R65 does not say (DESIGN CHOICE, log 14). -/
def State.portRings (s : State) (p : Nat) : List Nat :=
  (s.rules.filterMap fun x => if x.1 / 256 = p ∧ recField x.2.toNat 0 1 = 2 then some (recField x.2.toNat 2 1) else none) ++
    (if (s.srv 0x63 p).getLsbD 63 then [s.srf 0x63 p 7 0] else [])

/-- Enabled rings of a priority on a port. -/
def State.prioRings (s : State) (p prio : Nat) : List Nat :=
  (s.portRings p).filter fun r => s.ringEn r && decide (s.srf 0x60 r 22 20 = prio)

/-- A ring at or above its high-water mark, or at or below its low-water mark. -/
def State.ringHigh (s : State) (r : Nat) : Bool := decide (s.srf 0x60 r 38 31 * 2 ^ s.ringLog r ≤ 256 * s.ringOcc r)
def State.ringLow (s : State) (r : Nat) : Bool := decide (256 * s.ringOcc r ≤ s.srf 0x60 r 30 23 * 2 ^ s.ringLog r)

/-- XOFF and XON of one port and priority (R65). -/
def State.pfcAt (s : State) (p prio : Nat) : State :=
  let rs := s.prioRings p prio
  let off := s.xoff.contains (p, prio)
  if !off && rs.any s.ringHigh then { s with xoff := s.xoff ++ [(p, prio)], out := s.out ++ [.pfc p prio 0xFFFF] }
  else if off && rs.all s.ringLow then { s with xoff := s.xoff.erase (p, prio), out := s.out ++ [.pfc p prio 0] }
  else s

/-- Back-pressure of every port and priority. -/
def State.pfc (s : State) : State :=
  (List.range 64).foldl (fun s i => s.pfcAt (i / 8) (i % 8)) s

def execRuleLoadComplete (s : State) : Out1 := .next s.ruleDone.pfc

/-- One more frame in a class of `ING.PSTAT` (R57). -/
def State.ingCount (s : State) (p c : Nat) : State := s.setSr 0x64 (4 * p + c) (s.srv 0x64 (4 * p + c) + 1)

/-- A slot written for a frame that arrived at the time `ts` (R63, R64). `ING.RFC` names a global fence counter, as the FC of
a registration does (DESIGN CHOICE, log 11). -/
def State.ingDeliver (s : State) (p r rule f n ts : Nat) : State :=
  let x := s.ring r
  let size := 2 ^ s.ringLog r
  let (s1, x1) := if x.head - x.tailSeen = size then
      (let (s1, t) := s.ingRead r 8
       (s1.setRing r { x with tailSeen := t }, { x with tailSeen := t }))
    else (s, x)
  if x1.head - x1.tailSeen = size then
    (s1.setRing r { x1 with drop := x1.drop + 1 }).ingWrite r 16 8 (x1.drop + 1) 4
  else
    let o := 256 + 2 ^ s.ringSlot r * (x1.head % size)
    let hdr := mkRec [(0, 2, p), (2, 2, rule), (4, 8, ts), (12, 8, x1.head)]
    let s2 := ((s1.ingWrite r (o + 32) n f (n / 60 + 4)).ingWrite r (o + 4) 28 hdr 4).ingWrite r o 4 (2 ^ 31 + n) 4
    let s3 := (s2.setRing r { x1 with head := x1.head + 1 }).ingWrite r 0 8 (x1.head + 1) 4
    if ¬ (s3.srv 0x60 r).getLsbD 19 ∧ (x1.head + 1) % s3.srf 0x60 r 11 0 = 0 then s3.fcAdd (s3.srf 0x62 r 15 0) 1 0 else s3

/-- A part of a ring's region that the next frame's delivery reaches cannot be reached now: its page moves (R182), its home
relocks (R21), or it lies on another package and no port has room (R39). -/
def State.ringHold (s : State) (r : Nat) : Bool :=
  let o := 256 + 2 ^ s.ringSlot r * ((s.ring r).head % 2 ^ s.ringLog r)
  [0, o, o + 2 ^ s.ringSlot r - 1].any fun off => match (s.ringLoc r off true).2 with
    | some (p, _) => s.moving p.pa || !s.homeRuns p.pa || (isRemote p.pa && !s.mayLeave)
    | none => false

/-- A frame delivered to an enabled ring whose slots hold it. -/
def State.ingTake (s : State) (p r rule f n ts : Nat) : State :=
  if ¬ s.ringEn r then s.ingCount p 2
  else if 2 ^ s.ringSlot r < n + 32 then s.ingCount p 1
  else (s.ingDeliver p r rule f n ts).pfc

/-- The I/O die of an Ethernet port relocks (R21). -/
def State.ethStill (s : State) (p : Nat) : Bool := decide (s.relocking = some (16 + p / 2))

/-- ETH_FRAME_RECEIVE [port, frame, fcsOk, len]: a frame of `len` bytes, its first byte least significant. It takes the time
of its I/O die (R58), which takes none while it relocks (R21). Behind a frame that waits for a moving page, a port's frames wait
(R182). -/
def State.ethFrame (s : State) (p f : Nat) (fcsOk : Bool) (n : Nat) : State :=
  let ts := s.dt (8 + p / 2)
  let go := fun (rule act ring : Nat) =>
    if act ≠ 2 then s.ingCount p 3
    else if (s.ingHeld.any fun x => decide (x.1 = p)) ∨ (s.ringEn ring = true ∧ s.ringHold ring = true) then
      { s with ingHeld := s.ingHeld ++ [(p, [ring, rule, f, n, ts])] }
    else s.ingTake p ring rule f n ts
  if 8 ≤ p ∨ s.ethStill p = true then s
  else if ¬ fcsOk then s.ingCount p 0
  else if 9216 < n then s.ingCount p 1
  else match s.ruleFor p f with
    | some (i, r) => go i (recField r 0 1) (recField r 2 1)
    | none => go 0xFFFF (if (s.srv 0x63 p).getLsbD 63 then 2 else 1) (s.srf 0x63 p 7 0)

/-- The oldest frame that a port holds goes to its ring once the ring can be reached. -/
def State.heldFrame (s : State) (p : Nat) : State :=
  match s.ingHeld.find? fun x => decide (x.1 = p) with
  | some (q, [ring, rule, f, n, ts]) =>
    if s.ethStill p = true ∨ (s.ringEn ring = true ∧ s.ringHold ring = true) then s
    else { s with ingHeld := s.ingHeld.erase (q, [ring, rule, f, n, ts]) }.ingTake p ring rule f n ts
  | _ => s

def execEthFrameReceive (s : State) : Out1 :=
  .next (s.ethFrame (s.param 0) (s.param 1) (decide (s.param 2 ≠ 0)) (s.param 3))

/-- ING_TAIL_REREAD [ring], by the dies of the ports that deliver to it, while none of them relocks (R21). -/
def State.tailReread (s : State) (r : Nat) : State :=
  if ¬ s.ringEn r ∨ s.ringHold r = true ∨ ((List.range 8).any fun p => s.ethStill p && (s.portRings p).contains r) = true then s
  else
    let (s1, t) := s.ingRead r 8
    (s1.setRing r { s1.ring r with tailSeen := t }).pfc

def execIngTailReread (s : State) : Out1 := .next (s.tailReread (s.param 0))

/-- PFC_XOFF_RESEND [port, prio]. -/
def execPfcXoffResend (s : State) : Out1 :=
  let p := s.param 0
  .next (if s.xoff.contains (p, s.param 1) ∧ (s.prioRings p (s.param 1)).any s.ringHigh = true then
      { s with out := s.out ++ [.pfc p (s.param 1) 0xFFFF] } else s.pfcAt p (s.param 1))

/-- ING_RCTL_WRITE [ring, v]: a ring that becomes enabled goes on from the counts its region holds (log 14). -/
def State.rctlWrite (s : State) (r : Nat) (v : Word) : State :=
  let ok := decide (wbits v 55 48 ≠ 0 ∧ 11 ≤ wbits v 47 44 ∧ wbits v 47 44 ≤ 14 ∧ 4 ≤ wbits v 43 39 ∧ wbits v 43 39 ≤ 20 ∧ wbits v 38 31 ≠ 0 ∧
    wbits v 30 23 < wbits v 38 31 ∧ wbits v 11 0 ≠ 0)
  let on := v.getLsbD 63 && ok
  let s1 := s.setSr 0x60 r ((v &&& 0x00FFFFFFFFF80FFF) ||| (if on then 0x8000000000000000 else 0))
  if 256 ≤ r then s
  else if on && !s.ringEn r then
    let (s2, h) := s1.ingRead r 0
    let (s3, t) := s2.ingRead r 8
    let (s4, d) := s3.ingRead r 16
    (s4.setRing r { head := h, tailSeen := t, drop := d }).pfc
  else s1.pfc

def execIngRctlWrite (s : State) : Out1 := .next (s.rctlWrite (s.param 0) (BitVec.ofNat 64 (s.param 1)))

/-! ### The pool (R68, R69) -/

/-- POOL_HCLR [page]. -/
def State.poolClear (s : State) (pg : Nat) : State := { s with poolRd := s.poolRd.del pg, poolWr := s.poolWr.del pg }

def execPoolHclr (s : State) : Out1 := .next (s.poolClear (s.param 0))

/-- The contexts: the kernel's, those of the threads on cores and of saved shares, and the tenants' (R88, R158). -/
def State.contexts (s : State) : List (Nat × Nat) :=
  (0, 0) :: (s.cores.flatMap fun p => p.2.threads.map fun q => (s.asidOf p.1 q.1, s.tenantOf p.1)) ++
    (s.saved.map fun v => ((v.core.share.map Share.asid).getD 0, v.tenant)) ++
    ((List.range 256).filter fun t => (s.srv 0x80 t).getLsbD 63).map fun t => (0, t)

/-- POOL_FAILURE [page, count]: both kernels are told; a FATAL page that a context maps makes the package pool-fatal, which
is the event then. The kind of the event is not the manual's to give (log 6). -/
def State.poolFail (s : State) (pg n : Nat) : State :=
  let s1 : State := { s with poolFailed := s.poolFailed ++ (List.range n).map (pg + ·) }
  if s.contexts.any fun c => { s1 with poolFailed := (List.range n).map (pg + ·) }.mapsFatal c.1 c.2
  then s1.poolFatalEvent (2 ^ 46 + 65536 * pg)
  else
    let (s2, k) := s1.freshN
    let r : EvRec := { kind := Config.freeNat k % 256, status := Config.freeNat (k + 1) % 256, vals := [BitVec.ofNat 64 pg] }
    (({ s2 with fresh := s2.fresh + 1 }).eventTo 0 r).eventTo 1 r

/-- A failed pool page is reachable again (R69). What it holds is what it held, which a write that was not acknowledged may
have changed: the model's last acknowledged contents stand. A context that the failure stopped stays so. -/
def State.poolBack (s : State) (pg : Nat) : State :=
  let on := if s.poolFatal then s.contexts.filter fun c => s.mapsFatal c.1 c.2 else []
  { s with
    poolFailed := s.poolFailed.filter fun g => decide (g ≠ pg)
    poolCtx := s.poolCtx ++ on.map fun c => (if c.2 = 0 then c.1 else 0, c.2) }

def execPoolFailure (s : State) : Out1 := .next (s.poolFail (s.param 0) (s.param 1))

end Sys2Proof.Machine
end

