-- ==== Sys2Proof/Machine/Tenants.lean ====
section
/-! DEFINITION. Tenants and their reset (R89, R97), partitions, resizes and exclusions (R92–R96), key slots (R98, R99)
and the scrub engine (R102–R105). -/

namespace Sys2Proof.Machine

def State.tenEn (s : State) (t : Nat) : Bool := (s.srv 0x80 t).getLsbD 63

/-! ### Tenants (R89) -/

/-- Two ranges meet. -/
def meets (a n b m : Nat) : Bool := decide (0 < n ∧ 0 < m ∧ a < b + m ∧ b < a + n)

/-- Bits of `TEN.CFG` that software writes, EN apart. -/
def tencfgMask : Word := 0x007FFFFFFFF8FF80

/-- The checks of a write that enables a tenant. -/
def State.tenOk (s : State) (t : Nat) (v : Word) : Bool :=
  let qn := wbits v 54 48
  let qb := wbits v 47 36
  let fn := wbits v 35 27
  let fb := wbits v 26 19
  let key := wbits v 15 8
  let prot := v.getLsbD 7
  decide (qn ≤ 64 ∧ qb + qn ≤ 4096 ∧ 256 * (fb + fn) ≤ 65536) && (!prot || (s.keys.val key {}).loaded) &&
    (List.range 256).all fun u => decide (u = t) || !s.tenEn u ||
      (!meets qb qn (s.tenQbase u) (s.tenQn u) && !meets fb fn (s.tenFcb u) (s.tenFcn u) &&
        !(prot && (s.srv 0x80 u).getLsbD 7 && decide (s.srf 0x80 u 15 8 = key)))

/-- TEN_CFG_ENABLE [t, v]. -/
def State.tenEnable (s : State) (t : Nat) (v : Word) : State :=
  if t = 0 ∨ 256 ≤ t ∨ s.tenEn t ∨ ¬ v.getLsbD 63 ∨ ¬ s.tenOk t v then s
  else s.setSr 0x80 t ((v &&& tencfgMask) ||| 0xA000000000000000)

def execTenCfgEnable (s : State) : Out1 := .next (s.tenEnable (s.param 0) (BitVec.ofNat 64 (s.param 1)))

/-! ### The reset of a tenant (R97) -/

/-- The cores that retain a tenant's contents keep them no longer (R97 step 3, R147). -/
def State.endRetained (s : State) (t : Nat) : State :=
  ((s.cores.filter fun p => match p.2.retain with | some r => decide (r.tenant = t) | none => false).map Prod.fst).foldl State.endRetention s

/-- A reset begins: RESETTING, every resident launch is quiesced and every saved one discarded; one that names a tenant
already RESETTING joins. `hseqs` are the VFRESET commands that wait for its end. -/
def State.resetTenant (s : State) (t : Nat) (hseqs : List Nat) : State :=
  if s.tenState t = 2 then
    { s with vfResets := s.vfResets.map fun r => if r.1 = t then (r.1, r.2.1, r.2.2 ++ hseqs) else r }
  else
    let s1 := s.setSrf 0x80 t 62 61 2
    let s2 := (s1.launches.filter fun l => decide (l.tenant = t)).foldl
      (fun s l => if l.saved then s.dropLaunch l else s.stopLaunch l 3) s1
    let s3 := s2.endRetained t
    { s3 with vfResets := s3.vfResets ++ [(t, 1, hseqs)] }

/-- TEN_CFG_DISABLE [t, v]: a write that clears EN. -/
def State.tenDisable (s : State) (t : Nat) (v : Word) : State :=
  if t = 0 ∨ 256 ≤ t ∨ ¬ s.tenEn t ∨ v.getLsbD 63 then s else s.resetTenant t []

def execTenCfgDisable (s : State) : Out1 := .next (s.tenDisable (s.param 0) (BitVec.ofNat 64 (s.param 1)))

/-- VF_FLR [t]. -/
def execVfFlr (s : State) : Out1 :=
  let t := s.param 0
  .next (if 0 < t ∧ t < 256 ∧ s.tenEn t then s.resetTenant t [] else s)

/-- No core holds a share of the tenant. -/
def State.tenGone (s : State) (t : Nat) : Bool :=
  s.cores.all fun p => match p.2.share with | some x => decide (x.tenant ≠ t) | none => true

/-- A queue emptied by its tenant's reset (R97 step 4). -/
def State.emptyQueue (s : State) (q : Nat) : State :=
  let a := s.qsb q
  let s1 := (s.engPut a 8 (qWordOf (qLdie (s.qWord q)) 0 0)).engPut (a + 8) 8 0
  (s1.setSrf 0xA0 q 63 61 0).setSrf 0xA0 q 23 16 0

/-- VF_RESET_COMPLETE [t]: steps 2 to 8 once every context is quiesced and no sweep of the generation runs. -/
def State.tenReset (s : State) (t : Nat) : State :=
  if s.tenState t ≠ 2 ∨ ¬ s.tenGone t ∨ s.sweeps.contains t then s
  else
    let s1 := (s.launches.filter fun l => decide (l.tenant = t)).foldl State.dropLaunch (s.endRetained t)
    let s2 := (List.range (s1.tenQn t)).foldl (fun s i => s.emptyQueue (s.tenQbase t + i)) s1
    let s3 := s2.collAbandon t
    let s4 := (List.range 256).foldl (fun s r => if s.ringTen r = t ∧ s.ringEn r then s.setSrf 0x60 r 63 63 0 else s) s3
    let lo := 256 * s4.tenFcb t
    let fcs := fun i => decide (lo ≤ i ∧ i < lo + 256 * s4.tenFcn t)
    let s5 : State := { s4 with sr := s4.sr.filter fun (p : Nat × Word) => !(decide (0xA8 * 65536 ≤ p.1 ∧ p.1 < 0xA9 * 65536) && fcs (p.1 % 65536)) }
    let s6 := (s5.advanceGen t).setSrf 0x80 t 63 61 0
    let hs := (s6.vfResets.filter fun r => decide (r.1 = t)).flatMap fun r => r.2.2
    (hs.foldl (fun (s : State) q => s.completed q 0 [0]) { s6 with vfResets := s6.vfResets.filter fun r => decide (r.1 ≠ t) }).pfc

def execVfResetComplete (s : State) : Out1 := .next (s.tenReset (s.param 0))

/-! ### Partitions (R92, R93) -/

def State.partEn (s : State) (j : Nat) : Bool := (s.srv 0x88 j).getLsbD 63

/-- A live core that is neither excluded nor a system core lies in an interval. -/
def State.hasMember (s : State) (b n : Nat) : Bool :=
  (List.range n).any fun i => s.live (b + i) && !s.excl (b + i) && !s.isSys (b + i)

/-- The outcome of the checks of NBASE and NLEN, in their order. -/
def State.partStat (s : State) (j b n : Nat) : Nat :=
  if n = 0 ∨ 8192 < b + n then 1
  else if (List.range 64).any fun i => decide (i ≠ j) && s.partEn i && meets b n (s.srf 0x89 i 12 0) (s.srf 0x8A i 13 0) then 2
  else if ¬ s.hasMember b n then 3
  else 0

/-- `PART.CTL` with NLEN and NBASE as written and an outcome. -/
def State.partCtl (s : State) (j : Nat) (v : Word) (stat : Nat) : State :=
  (((s.setSrf 0x88 j 27 14 (wbits v 27 14)).setSrf 0x88 j 12 0 (wbits v 12 0)).setSrf 0x88 j 60 58 stat)

/-- PART_ENABLE [pj, v]. -/
def State.partEnable (s : State) (j : Nat) (v : Word) : State :=
  if 64 ≤ j ∨ s.partEn j ∨ ¬ v.getLsbD 63 then s
  else
    let b := wbits v 12 0
    let n := wbits v 27 14
    let st := s.partStat j b n
    let s1 := s.partCtl j v st
    if st ≠ 0 then s1
    else
      let s2 := ((s1.setSrf 0x88 j 63 63 1).setSr 0x89 j (BitVec.ofNat 64 b)).setSr 0x8A j (BitVec.ofNat 64 n)
      { s2 with partSeen := true }

def execPartEnable (s : State) : Out1 := .next (s.partEnable (s.param 0) (BitVec.ofNat 64 (s.param 1)))

/-- A core begins to leave its partition: no new share, its share quiesced, retention ended (R95 steps 1 and 2). -/
def State.startLeave (s : State) (h : Nat) : State :=
  let s1 := (s.endRetention h).redeal h
  if (s1.core h).share.isSome then s1.onCoreAt h fun c => { c with quiesce := true } else s1

/-- PART_RESIZE [pj, v]: GO written as 1 while EN = 1. -/
def State.partResize (s : State) (j : Nat) (v : Word) : State :=
  if 64 ≤ j ∨ ¬ s.partEn j ∨ (s.part j).resizing ∨ ¬ v.getLsbD 62 then s
  else
    let b := wbits v 12 0
    let n := wbits v 27 14
    let st := s.partStat j b n
    let s1 := s.partCtl j v st
    if st ≠ 0 then s1
    else
      let out := (s1.members j).filter fun h => !(decide (b ≤ h ∧ h < b + n))
      out.foldl State.startLeave
        ((s1.setSrf 0x88 j 61 61 1).onPart j fun p => { p with resizing := true, newBase := b, newLen := n, leaving := out })

def execPartResize (s : State) : Out1 := .next (s.partResize (s.param 0) (BitVec.ofNat 64 (s.param 1)))

/-- A core has nothing left of its partition's work. -/
def State.coreFree (s : State) (h : Nat) : Bool := (s.core h).share.isNone && !(s.core h).quiesce

/-- The bit of `PART.EXCL` of a core. -/
def State.setExcl (s : State) (h : Nat) (b : Bool) : State :=
  let (i, k) := mapPlace h
  s.setSrf 0x8B i k k (b2n b)

/-- A change of the bit of core `h` already waits (R96). -/
def State.exclWaits (s : State) (h : Nat) : Bool := s.exclWait.any fun c => decide (c.1 = h)

/-- A change of the bit waits, in the place of one that does so already: the last one counts (R96). -/
def State.exclLater (s : State) (h : Nat) (b : Bool) : State :=
  { s with exclWait := (s.exclWait.filter fun c => decide (c.1 ≠ h)) ++ [(h, b)] }

/-- PART_EXCL_SET [h] (R96). -/
def State.exclSet (s : State) (h : Nat) : State :=
  if s.exclWaits h then s.exclLater h true
  else match s.partOf h with
  | some j =>
    if s.excl h ∨ s.exclBusy.contains h then s
    else if (s.part j).resizing then s.exclLater h true
    else if s.member j h then { s with exclBusy := s.exclBusy ++ [h] }.startLeave h
    else s.setExcl h true
  | none => s.setExcl h true

/-- PART_EXCL_CLEAR [h]. -/
def State.exclClear (s : State) (h : Nat) : State :=
  let wait := s.exclWaits h || (match s.partOf h with | some j => (s.part j).resizing | none => false) || s.exclBusy.contains h
  if wait then s.exclLater h false else s.setExcl h false

def execPartExclSet (s : State) : Out1 := .next (if s.param 0 < 8192 then s.exclSet (s.param 0) else s)
def execPartExclClear (s : State) : Out1 := .next (if s.param 0 < 8192 then s.exclClear (s.param 0) else s)

/-- Changes of `PART.EXCL` that waited take effect. -/
def State.exclLate (s : State) : State :=
  let w := s.exclWait
  w.foldl (fun s c => if c.2 then s.exclSet c.1 else s.exclClear c.1) { s with exclWait := [] }

/-- Displaced shares whose host is no longer a member wait on another member (R131). -/
def State.rehost (s : State) (j : Nat) : State :=
  (s.launches.filter fun l => decide (l.part = j) && !l.saved).foldl State.resumeLaunch s

/-- Cores that have left partition j hold no later share of its launches (R95, R96). -/
def State.leftPart (s : State) (j : Nat) (hs : List Nat) : State :=
  { s with launches := s.launches.map fun (l : Launch) => if l.part = j then { l with left := l.left ++ hs } else l }

/-- PART_RESIZE_COMMIT [pj]. -/
def State.resizeCommit (s : State) (j : Nat) : State :=
  let p := s.part j
  if ¬ p.resizing ∨ ¬ p.leaving.all s.coreFree then s
  else
    let b := s.srf 0x89 j 12 0
    let gone := ((List.range (s.srf 0x8A j 13 0)).map (b + ·)).filter fun h => !(decide (p.newBase ≤ h ∧ h < p.newBase + p.newLen))
    let s1 := p.leaving.foldl State.clearStores s
    let s2 := gone.foldl (fun s h => s.clearRange (deckLoc (h / 4) (h % 4 * 0x20000)) 0x20000) s1
    let s3 := ((s2.setSr 0x89 j (BitVec.ofNat 64 p.newBase)).setSr 0x8A j (BitVec.ofNat 64 p.newLen)).setSrf 0x88 j 61 61 0
    ((s3.onPart j fun p => { p with resizing := false, leaving := [] }).leftPart j p.leaving |>.rehost j).exclLate

def execPartResizeCommit (s : State) : Out1 := .next (s.resizeCommit (s.param 0))

/-- PART_EXCL_DONE [h]: the excluded core's local store is cleared and its bit reads 1. Its position stays in the
interval, so its deck share stays (R95 step 3). -/
def State.exclDone (s : State) (h : Nat) : State :=
  if ¬ s.exclBusy.contains h ∨ ¬ s.coreFree h then s
  else
    let s1 := (((s.redeal h).clearRange (lsLoc h 0) 65536).setExcl h true)
    let s2 : State := { s1 with exclBusy := s1.exclBusy.erase h }
    (match s2.partOf h with | some j => (s2.leftPart j [h]).rehost j | none => s2).exclLate

def execPartExclDone (s : State) : Out1 := .next (s.exclDone (s.param 0))

/-- A write of `PART.CTL` that leaves EN as it is 0, or clears it: with GO = 1 it makes the checks (R92). -/
def State.partGoStat (s : State) (j : Nat) (v : Word) : Nat :=
  if v.getLsbD 62 then s.partStat j (wbits v 12 0) (wbits v 27 14) else 0

/-- PART_DISABLE [pj, v]: a write that clears EN. A resize in progress commits with it, since its leaving cores hold no work
(DESIGN CHOICE, log 80); meanwhile a write with GO = 1 is ignored. -/
def State.partDisable (s : State) (j : Nat) (v : Word) : State :=
  if 64 ≤ j ∨ ¬ s.partEn j ∨ v.getLsbD 63 ∨ ((s.part j).resizing ∧ v.getLsbD 62) then s
  else
    let busy := (s.resident j).isSome || (s.members j).any (fun h => !s.coreFree h) ||
      (List.range 256).any (fun t => s.tenEn t && (s.srv 0x82 t).getLsbD j)
    if s.partGoStat j v ≠ 0 then s.partCtl j v (s.partGoStat j v)
    else if busy then s.partCtl j v 4
    else ((s.partCtl j v 0).resizeCommit j).setSrf 0x88 j 63 63 0

def execPartDisable (s : State) : Out1 := .next (s.partDisable (s.param 0) (BitVec.ofNat 64 (s.param 1)))

/-! ### Key slots (R98, R99) -/

/-- The eight doublewords of `KEY.DATA` as two keys. -/
def State.keyPair (s : State) : BitVec 256 × BitVec 256 :=
  let w := fun i => (s.keyData.val i 0).toNat
  let k := fun b => (List.range 4).foldl (fun v i => v + w (b + i) * 2 ^ (64 * i)) 0
  (BitVec.ofNat 256 (k 0), BitVec.ofNat 256 (k 4))

/-- A command's result; `KEY.DATA` is cleared after each command. -/
def State.keyRes (s : State) (r : Nat) : State := { s with keyData := [] }.setSr 0x92 0 (BitVec.ofNat 64 r)

def State.setKey (s : State) (k : Nat) (x : KeySlot) : State := { s with keys := s.keys.put k x }

/-- KEY_LOAD [slot]. A LOADED slot answers BUSY before equal keys answer BADARG, an order that R99 does not give (DESIGN CHOICE,
log 11). -/
def State.keyLoad (s : State) (k : Nat) : State :=
  let (a, b) := s.keyPair
  if (s.keys.val k {}).loaded then s.keyRes 1
  else if a = b then s.keyRes 2
  else (s.setKey k { loaded := true, key1 := a, key2 := b }).keyRes 0

def execKeyLoad (s : State) : Out1 := .next (s.keyLoad (s.param 0 % 256))

/-- KEY_GEN [slot]: the random source's keys are free values (log 6). -/
def State.keyGen (s : State) (k : Nat) : State :=
  if (s.keys.val k {}).loaded then s.keyRes 1
  else
    let (s1, n) := s.freshN
    let (s2, m) := s1.freshN
    (s2.setKey k { loaded := true, key1 := BitVec.ofNat 256 (Config.freeNat n), key2 := BitVec.ofNat 256 (Config.freeNat m) }).keyRes 0

def execKeyGen (s : State) : Out1 := .next (s.keyGen (s.param 0 % 256))

/-- A write of `KEY.CMD` (R99). -/
def State.keyCmd (s : State) (v : Word) : State :=
  if wbits v 63 62 = 1 then s.keyLoad (wbits v 7 0) else if wbits v 63 62 = 2 then s.keyGen (wbits v 7 0) else s

/-! ### The scrub engine (R102–R105) -/

def State.scrubState (s : State) : Nat := s.srf 0x9B 0 63 62
def State.scrubList (s : State) : Nat := s.srf 0x98 0 47 16 * 65536
def State.scrubCnt (s : State) : Nat := s.srf 0x99 0 23 0

/-- A frame of the list that the engine may read. -/
def State.scrubReads (s : State) (f : Nat) : Bool :=
  decide (f < frecCount ∧ (s.frame f).owner = 1 ∧ (s.frame f).state ≤ 1)

/-- SCRUB_START: a write of 1 to `SCRUB.CMD`. -/
def State.scrubStart (s : State) : State :=
  let n := s.scrubCnt
  let f := s.scrubList / 65536
  let k := (4 * n + 65535) / 65536
  if ¬ (s.scrubState = 0 ∨ s.scrubState = 3) ∨ n = 0 ∨ 8388608 < n ∨ ¬ ((List.range k).all fun i => s.scrubReads (f + i)) then s
  else { (s.setSr 0x9B 0 0x4000000000000000).setSr 0x9C 0 0 with scrubMarked := [] }

def execScrubStart (s : State) : Out1 := .next s.scrubStart

/-- A skipped entry counted in `SCRUB.SKIP`. -/
def State.scrubSkip (s : State) (ix st : Nat) : State :=
  let n := s.srf 0x9C 0 23 0
  let s1 := if n = 0 then (s.setSrf 0x9C 0 63 56 st).setSrf 0x9C 0 55 32 ix else s
  s1.setSrf 0x9C 0 23 0 (n + 1)

/-- The status that a skipped frame's check gives (R82, R103); 0 for a frame that is marked. -/
def State.scrubCheck (s : State) (f : Nat) : Nat :=
  let e := s.frame f
  if frecCount ≤ f then 1
  else if e.owner = 2 then 3
  else if e.state = 6 then 4
  else if e.state = 5 then 5
  else if e.owner ≠ 1 then 7
  else if 1 < e.state then 8
  else 0

/-- SCRUB_MARK_ENTRY. -/
def State.scrubMark (s : State) : State :=
  let i := s.srf 0x9B 0 47 24
  if s.scrubState ≠ 1 ∨ s.scrubHeld ∨ s.scrubCnt ≤ i then s
  else
    let a := s.scrubList + 4 * i
    let s := s.checkRead a 4
    let f := s.rdP a 4
    let st := if ¬ s.scrubReads (a / 65536) ∨ s.poisoned a then 1 else s.scrubCheck f
    let s1 := if st ≠ 0 then s.scrubSkip i st
      else { (s.setFrame f { (s.frame f).bump with state := 5 }).revoke f 2 .nothing with scrubMarked := s.scrubMarked ++ [(i, f)] }
    let s2 := s1.setSrf 0x9B 0 47 24 (i + 1)
    if i + 1 = s2.scrubCnt then s2.setSrf 0x9B 0 63 62 2 else s2

def execScrubMarkEntry (s : State) : Out1 := .next s.scrubMark

/-- Granules `[g, g + n)` written with zeros in plain text, their words empty (R104, R163). -/
def State.zeroGranules (s : State) (g n : Nat) : State :=
  let out := fun x => !decide (g ≤ x ∧ x < g + n)
  let s1 := s.clearRange (256 * g) (256 * n)
  { s1 with poison := s1.poison.filter out, packed := s1.packed.filter out,
            rewritten := s1.rewritten.filter fun (p : Nat × Nat) => out p.1 }

/-- A frame's 256 granules written with zeros; its race records and hotness counts are zero (R104). -/
def State.zeroFrame (s : State) (f : Nat) : State :=
  let s1 := (s.zeroGranules (256 * f) 256).zeroRace f
  { s1 with hot := s1.hot.filter fun (p : Nat × Nat) => decide (p.1 / 4 ≠ f / 32) }

/-- A scrubbed frame committed FREE. -/
def State.freeFrame (s : State) (f : Nat) : State :=
  let e := (s.frame f).bump
  s.setFrame f { state := 0, owner := 1, seq := e.seq, deadline := e.deadline }

/-- Entry DONE of the list is finished (R104). -/
def State.scrubNext (s : State) : State :=
  let i := s.srf 0x9B 0 23 0 + 1
  let s1 := (s.setSrf 0x9B 0 23 0 i).setSrf 0x9B 0 61 54 0
  if i = s1.scrubCnt then (s1.setSrf 0x9B 0 63 62 3).interrupt (s1.srf 0x77 0 4 0) 2 else s1

/-- The engine writes: the frame of entry DONE of its list, where the entry is marked (R104, R105). -/
def State.scrubTarget (s : State) : Option (Option Nat) :=
  if s.scrubState ≠ 2 ∨ s.scrubHeld ∨ s.scrubCnt ≤ s.srf 0x9B 0 23 0 then none
  else some ((s.scrubMarked.find? fun m => decide (m.1 = s.srf 0x9B 0 23 0)).map Prod.snd)

/-- SCRUB_FRAME_COMMIT: the next entry in list order; of a marked frame, once its mappings are revoked, the granules
that are left and its commit. -/
def State.scrubFrame (s : State) : State :=
  match s.scrubTarget with
  | none => s
  | some none => s.scrubNext
  | some (some f) =>
    if (s.frame f).state = 6 then (s.scrubSkip (s.srf 0x9B 0 23 0) 4).scrubNext
    else if s.revoking f then s
    else ((s.zeroFrame f).freeFrame f).scrubNext

/-- The next granule of the frame that the engine writes; with the last one the frame commits (R104). -/
def State.scrubGranule (s : State) : State :=
  match s.scrubTarget with
  | some (some f) =>
    let g := s.srf 0x9B 0 61 54
    if (s.frame f).state = 6 ∨ s.revoking f then s
    else if g = 255 then s.scrubFrame
    else (s.zeroGranules (256 * f + g) 1).setSrf 0x9B 0 61 54 (g + 1)
  | _ => s

def execScrubFrameCommit (s : State) : Out1 := .next s.scrubFrame

/-- SCRUB_RESUME: after a warm reset the engine goes on at entry MARK, or with frame DONE from its first granule. -/
def execScrubResume (s : State) : Out1 := .next { s with scrubHeld := false }

end Sys2Proof.Machine
end

