-- ==== Sys2Proof/Machine/Package.lean ====
section
/-! DEFINITION. Clock plans (R15–R22), synchronised time (R23–R28), the parapet (R31–R34), attestation (R35, R36) and
firmware (R37). -/

namespace Sys2Proof.Machine

/-! ### Clock plans (R16–R21) -/

/-- A plan structure's fields (R16). -/
def planOf (r : Nat) : Plan :=
  { ref := recField r 4 2, flags := recField r 6 2, freq := (List.range 20).map fun i => recField r (8 + 2 * i) 2
    band := (List.range 16).map fun i => (recField r (48 + 8 * i) 4, recField r (52 + 8 * i) 4) }

/-- A band that a harmonic of `f` kHz strikes, and the harmonic: n ascending, and for each n the bands ascending (R17). -/
def strike (bands : List (Nat × Nat)) (f : Nat) : Option (Nat × Nat) :=
  (List.range 64).findSome? fun i =>
    (bands.findIdx? fun b => decide (b.2 ≠ 0 ∧ b.1 ≤ (i + 1) * f ∧ (i + 1) * f ≤ b.2)).map fun j => (i + 1, j)

/-- `CLK.STAT` with an outcome (R20). -/
def clkStat (code harm sock band : Nat) : Word := BitVec.ofNat 64 (harm * 2 ^ 40 + sock * 2 ^ 32 + band * 2 ^ 28 + code)

/-- The first check of R17 that a plan fails, as `CLK.STAT` reports it. -/
def planFault (r : Nat) : Option Word :=
  let p := planOf r
  if recField r 0 4 ≠ 0x434C4B31 ∨ 1 < p.flags ∨ p.ref < 192 ∨ 208 < p.ref then some (clkStat 3 0 0 0)
  else match p.freq.findIdx? fun f => decide (f < 1600 ∨ 2000 < f) with
  | some i => some (clkStat 4 0 i 0)
  | none =>
    match p.band.findIdx? fun b => decide (b.2 ≠ 0 ∧ b.2 < b.1) with
    | some j => some (clkStat 5 0 0 j)
    | none =>
      match strike p.band (500 * p.ref) with
      | some (n, j) => some (clkStat 6 n 0x1F j)
      | none => (List.range 20).findSome? fun i =>
          (strike p.band (500 * p.freq.getD i 0)).map fun h => clkStat 7 h.1 i h.2

/-- Spread-spectrum is on: requested, and no band entry used (R22). -/
def Plan.spread (p : Plan) : Bool := decide (p.flags = 1) && p.band.all fun b => decide (b.2 = 0)

/-- The load in progress has ended on every passenger: ACCEPTED, with REFUSED as it stands (R19, R20). -/
def State.loadEnds (s : State) (owner : Nat) : State :=
  let s1 := { s with load := none }.setSr 0x42 0 (clkStat 2 0 0 0 ||| (s.srv 0x42 0 &&& 0x100))
  if owner = 0 then s1 else s1.completed owner 0 [s1.srv 0x42 0]

/-- An accepted plan is applied: the reference first, then the passengers whose clock changes, one at a time (R21). -/
def State.applyPlan (s : State) (owner : Nat) (p : Plan) (all : Bool) : State :=
  let todo := (List.range 20).filter fun i => all || decide (p.ref ≠ s.plan.ref) || decide (p.freq.getD i 0 ≠ s.freq.getD i 0)
  let s1 := { s with plan := p, load := some { owner := owner, plan := p, todo := todo } }.setSr 0x42 0 1
  if todo = [] then s1.loadEnds owner else s1

/-- A load of the plan with the given bytes; none where it cannot be read. A CLKPLAN whose plan fails a check completes with
STATUS 0 OK, the check's outcome being in VAL0, where R18 gives no status (DESIGN CHOICE, log 77). -/
def State.loadPlan (s : State) (owner : Nat) (r : Option Nat) : State :=
  let bad := fun (w : Word) => let s1 := s.setSr 0x42 0 w; if owner = 0 then s1 else s1.completed owner 0 [w]
  match r with
  | none => bad (clkStat 3 0 0 0)
  | some r => match planFault r with
    | some w => bad w
    | none => s.applyPlan owner (planOf r) false

/-- CLK_LOAD: a write of 1 to `CLK.CMD` (R18, R19). The plan is read with the accelerator kernel's rights (R84). -/
def State.clkLoad (s : State) : State :=
  if s.load.isSome then s.setSrf 0x42 0 8 8 1
  else
    let a := s.srf 0x40 0 47 8 * 256
    let e := s.frame (a / 65536)
    if isHbm a ∧ e.owner = 1 ∧ e.state ≤ 1 ∧ s.frameCheck (a / 65536) 1 0 false = .grant false then
      (let s1 := s.checkRead a 176
       s1.loadPlan 0 (if s1.poisoned a then none else some (s1.rdP a 176)))
    else s.loadPlan 0 none

def execClkLoad (s : State) : Out1 := .next s.clkLoad

/-- PASSENGER_RELOCK: the relock in progress ends; what waited for the passenger's ports leaves (R21, R39). -/
def State.relock (s : State) : State :=
  match s.load with
  | none => s
  | some l => match l.todo with
    | [] => s.loadEnds l.owner
    | i :: rest =>
      let s1 := { s with freq := s.freq.set i (l.plan.freq.getD i 0), load := some { l with todo := rest } }
      (if rest = [] then s1.loadEnds l.owner else s1).sendFlits []

def execPassengerRelock (s : State) : Out1 := .next s.relock

/-! ### Time (R23–R28) -/

/-- `TIME.ROLE`. -/
def State.role (s : State) : Nat := s.srf 0x44 0 1 0

/-- A unit's state after a good exchange: its locked state, or the state it has while a follower's master is not locked. -/
def State.lockedState (s : State) (u : Nat) : Nat :=
  if s.role = 0 then 1
  else if s.role = 1 then 2
  else if u = 12 ∨ wbits (s.tstat.val 12 0) 1 0 = 2 then 2
  else wbits (s.tstat.val u 0) 1 0

/-- The single alignment of a follower with its master's time, at its first good exchange after a cold reset and only while its
units read FREE-RUN then (R26). -/
def State.align (s : State) (m : Nat) : State :=
  let free := (List.range 13).all fun u => decide (wbits (s.tstat.val u 0) 1 0 = 0)
  if s.aligned then s
  else if ¬ free then { s with aligned := true }
  else if s.dt 12 < m then
    { s with aligned := true, dtime := (List.range 13).foldl (fun d u => d.put u (BitVec.ofNat 64 m)) s.dtime }
  else { s with aligned := true, held := s.dt 12 - m }

/-- PTP_EXCHANGE [unit, master, bound]: a good exchange of a time unit (0–7 the compute dies, 8–11 the I/O dies) with the
interposer master, or of the interposer master (12) of a follower with its peer. -/
def State.exchange (s : State) (u m b : Nat) : State :=
  let s1 := if u = 12 then s.align m else s
  if 12 < u ∨ (u = 12 ∧ (s.role ≠ 2 ∨ (s.port (s.srf 0x44 0 13 8)).state ≠ 2)) then s
  else
    { s1 with
      tfail := s1.tfail.put u 0
      tstat := s1.tstat.put u (BitVec.ofNat 64 (b % 2 ^ 32 * 2 ^ 32 + s1.lockedState u)) }

def execPtpExchange (s : State) : Out1 := .next (s.exchange (s.param 0) (s.param 1) (s.param 2))

/-- A unit in HOLDOVER (R28). -/
def State.inHoldover (s : State) (u : Nat) : State := { s with tstat := s.tstat.put u (putBits (s.tstat.val u 0) 1 0 3) }

/-- PTP_EXCHANGE_FAIL [unit, bound]: the unit's error bound is what it has grown to; the fourth consecutive failure enters
HOLDOVER, of a follower's interposer master on every unit (R26–R28). In the other roles that master has no exchanges. -/
def State.exchangeFail (s : State) (u b : Nat) : State :=
  let n := s.tfail.val u 0 + 1
  let s1 := { s with tfail := s.tfail.put u n, tstat := s.tstat.put u (putBits (s.tstat.val u 0) 63 32 b) }
  if 12 < u ∨ (u = 12 ∧ s.role ≠ 2) then s else if n < 4 then s1 else if u = 12 then (List.range 13).foldl State.inHoldover s1 else s1.inHoldover u

def execPtpExchangeFail (s : State) : Out1 := .next (s.exchangeFail (s.param 0) (s.param 1))

/-- A domain peer asks for the time over a port: a grandmaster answers on every UP port, a follower on those other than the
one it takes time over (R26). The times of arrival and departure are the interposer master's. -/
def State.timeAsk (s : State) (p : Nat) : State :=
  let x := s.port p
  if x.state = 2 ∧ s.inDomain x.peer = true ∧ (s.role = 1 ∨ (s.role = 2 ∧ s.srf 0x44 0 13 8 ≠ p)) then
    { s with out := s.out ++ [.timeAnswer x.peer (s.dt 12) (s.dt 12)] }
  else s

/-- DTIME_WRAP [die]: the last value is followed by 0, and the wrap is counted (R24). -/
def execDtimeWrap (s : State) : Out1 :=
  let u := s.param 0
  .next (if s.dt u + 1 = 2 ^ 64 then
      { s with dtime := s.dtime.put u 0, twrap := s.twrap.put u (s.twrap.val u 0 + 1) }
    else s)

/-- TIME_ROLE_WRITE [v]. The units that are locked read the new role's state: LOCKED-PKG, LOCKED-DOMAIN, or HOLDOVER of a
follower, whose PORT is not UP (R26). -/
def State.roleWrite (s : State) (v : Word) : State :=
  if s.portsOff ∧ wbits v 1 0 ≠ 3 then
    (List.range 13).foldl (fun s u => s.relabel (wbits v 1 0 + 1) u) (s.setSr 0x44 0 (v &&& 0x3F03))
  else s

def execTimeRoleWrite (s : State) : Out1 := .next (s.roleWrite (BitVec.ofNat 64 (s.param 0)))

/-! ### The parapet (R31–R34) -/

/-- Dies or sockets that a mask names. -/
def maskList (n m : Nat) : List Nat := (List.range n).filter fun i => m.testBit i

/-- A step down of a socket's clock that the parapet may take: in range, and unstruck while bands are loaded (R33). -/
def State.stepOk (s : State) (i f : Nat) : Bool :=
  decide (1600 ≤ f ∧ f ≤ s.freq.getD i 0) && (strike s.plan.band (500 * f)).isNone

/-- No clock of a socket below the present one is left to step down to (R33). -/
def State.lowest (s : State) (i : Nat) : Bool := (List.range (s.freq.getD i 0 - 1600)).all fun k => !s.stepOk i (1600 + k)

/-- PARAPET_THROTTLE [cause, gated, socks, freqs ...]: cause 0 power, 1 current, 2 temperature; the dies whose issue is
gated, where no step is left (DEDUCED, log 78); the sockets whose clock is lowered, and their clocks in ascending socket
order. A duty cycle names its dies and names them no longer by turns. -/
def State.throttle (s : State) (cause gated socks : Nat) (fs : List Nat) : State :=
  let low := ((maskList 20 socks).zip fs).filter fun p => s.stepOk p.1 p.2
  let w := s.srv 0x46 0
  let n := if w.getLsbD cause then wbits w 63 32 else (wbits w 63 32 + 1) % 2 ^ 32
  if 2 < cause then s
  else
    let s1 : State := { (s.setSr 0x46 0 (putBits (putBits w cause cause 1) 63 32 n)) with
                        freq := low.foldl (fun (l : List Nat) p => l.set p.1 p.2) s.freq }
    { s1 with gated := (maskList 8 gated).filter s1.lowest }

def execParapetThrottle (s : State) : Out1 :=
  .next (s.throttle (s.param 0) (s.param 1) (s.param 2) (s.params.drop 3))

/-- THROTTLE_END [cause]: with no condition left, clocks and issue are as the plan has them at once; a load in progress sets
the clocks itself (DESIGN CHOICE where R33 says nothing, log 78). -/
def State.throttleEnd (s : State) (cause : Nat) : State :=
  if 2 < cause then s
  else
    let s1 := s.setSrf 0x46 0 cause cause 0
    if s1.srf 0x46 0 2 0 = 0 then { s1 with gated := [], freq := if s1.load.isSome then s1.freq else s1.plan.freq } else s1

def execThrottleEnd (s : State) : Out1 := .next (s.throttleEnd (s.param 0))

/-- TEMPERATURE_TRIP: power is removed and the cause recorded (R33 step 3). -/
def execTemperatureTrip (s : State) : Out1 := .next { s with powered := false, tripCause := true }

/-- PAR_CAP_WRITE [v] (R32): WATTS is bits 10:0 of what is written, the others being reserved, and is then brought into its
range (DESIGN CHOICE, log 79). -/
def State.capWrite (s : State) (v : Word) : State := s.setSr 0x45 0 (BitVec.ofNat 64 (max 600 (min (wbits v 10 0) 1800)))

/-- The cap in force: the lower of WATTS and the firmware's cap (R32). -/
def State.capNow (s : State) : Nat := min (s.srf 0x45 0 10 0) s.fwCap

def execParCapWrite (s : State) : Out1 := .next (s.capWrite (BitVec.ofNat 64 (s.param 0)))

/-! ### Attestation (R35, R36) -/

/-- An answer over DOE: its SPDM response code (PRESUMED, log 11) and what the manual says it carries. -/
def State.doe (s : State) (a : List Nat) : State := { s with out := s.out ++ [.doe a] }

/-- SPDM_GET_VERSION: version 1.2. -/
def execSpdmGetVersion (s : State) : Out1 := .next (s.doe [0x04, 0x12])

/-- SPDM_GET_CAPABILITIES. -/
def execSpdmGetCapabilities (s : State) : Out1 := .next (s.doe [0x61, 0x12])

/-- SPDM_NEGOTIATE_ALGORITHMS: RSA-3072 over SHA-256 and nothing else. -/
def execSpdmNegotiateAlgorithms (s : State) : Out1 := .next (s.doe [0x63, 3072, 256])

/-- Bytes of the certificate chain. -/
def certChain (off len : Nat) : List Nat := (List.range len).map fun i => Config.certByte (off + i) % 256

/-- SPDM_GET_DIGESTS: the digest of the certificate chain, which the model takes to be 65,536 bytes long, since R36 gives no length
(DESIGN CHOICE, log 6). -/
def execSpdmGetDigests (s : State) : Out1 := .next (s.doe [0x01, ofBytes (sha256 (certChain 0 65536))])

/-- SPDM_GET_CERTIFICATE [off, len]: any part, also beyond that length, is answered (DESIGN CHOICE, log 6). -/
def execSpdmGetCertificate (s : State) : Out1 := .next (s.doe (0x02 :: certChain (s.param 0) (s.param 1)))

/-- SPDM_CHALLENGE [nonce]. -/
def execSpdmChallenge (s : State) : Out1 := .next (s.doe [0x03, s.param 0, Config.signature [s.param 0]])

/-- A plan as the 176 bytes of R16. -/
def Plan.image (p : Plan) : Nat :=
  mkRec ([(0, 4, 0x434C4B31), (4, 2, p.ref), (6, 2, p.flags)] ++ (p.freq.zipIdx.map fun x => (8 + 2 * x.2, 2, x.1)) ++
    (p.band.zipIdx.flatMap fun x => [(48 + 8 * x.2, 4, x.1.1), (52 + 8 * x.2, 4, x.1.2)]))

/-- The measurements of R36, SHA-256 digests (R35): of the firmware image, of the plan's 176 bytes, of the 1,024 bytes of the
harvest map, of the power cap in force as a doubleword (DESIGN CHOICE, log 79), and of the boot image. -/
def State.measurement (s : State) (i : Nat) : Option Nat :=
  match i with
  | 1 => some (shaOf s.fwImage s.fwLen)
  | 2 => some (shaOf s.plan.image 176)
  | 3 => some (shaOf ((List.range 128).foldl (fun v j => v + (s.srv 0x20 j).toNat * 2 ^ (64 * j)) 0) 1024)
  | 4 => some (shaOf s.capNow 8)
  | 5 => some s.bootDigest
  | _ => none

/-- SPDM_GET_MEASUREMENTS [index]; an index that the table lacks is an error. -/
def execSpdmGetMeasurements (s : State) : Out1 :=
  .next (match s.measurement (s.param 0) with
    | some v => s.doe [0x60, s.param 0, v, Config.signature [s.param 0, v]]
    | none => s.doe [0x7F, 0x01])

/-- SPDM_KEY_EXCHANGE: the error UnsupportedRequest. -/
def execSpdmKeyExchange (s : State) : Out1 := .next (s.doe [0x7F, 0x07])

/-! ### Firmware (R37) -/

/-- A complete image of `n` bytes with its version, after the keystone's checks: 0 they fail, 1 it is written, 2 writing it
fails and leaves no valid image. -/
def State.fwUpdate (s : State) (version ok n img : Nat) : State × Bool :=
  if ok = 0 ∨ version < s.fwCounter then (s, false)
  else if ok = 2 then ({ s with fwValid := false }, false)
  else
    ({ s with fwImage := img, fwLen := n, fwVersion := version, fwCounter := version, fwValid := true, fwRecovery := false }, true)

/-- FW_RECOVERY_IMAGE [version, sigOk, len, image]: only in recovery. -/
def execFwRecoveryImage (s : State) : Out1 :=
  .next (if s.fwRecovery then (s.fwUpdate (s.param 0) (s.param 1) (s.param 2) (s.param 3)).1 else s)

end Sys2Proof.Machine
end

