-- ==== Sys2Proof/Machine/HostCmd.lean ====
section
/-! DEFINITION. The host's long commands: CLKPLAN (R18), FWCHUNK (R37), VFRESET (R97) and KBOOT (R158). -/

namespace Sys2Proof.Machine

/-- HCW_CLKPLAN (R18, R19): refused with BUSY while a load is in progress. A plan that the host's memory does not give is
BADFORMAT, and so is one at an address that is not a multiple of 256 (DESIGN CHOICE, log 77). -/
def execHcwClkplan (s : State) : Out1 :=
  .next (s.command 0x10 fun s c =>
    let a := (c.arg 0).toNat
    if s.load.isSome then s.completed c.hseq 5 [s.srv 0x42 0]
    else s.loadPlan c.hseq (if a % 256 = 0 ∧ s.hostOk a 176 = true then some (s.rdN (hostLoc a) 176) else none))

/-- A command ends with a status that is not 0 and not the manual's to give (log 6). -/
def State.completedFree (s : State) (hseq : Nat) : State :=
  let (s1, k) := s.freshN
  let st := 1 + Config.freeNat k % 255
  s1.completed hseq st [BitVec.ofNat 64 st]

/-- HCW_FWCHUNK [version, sigOk, last]: a part of an image; with the last one the keystone checks the image (R37). The
status of a refused update, or of a part that the host's memory does not give, is free. -/
def execHcwFwchunk (s : State) : Out1 :=
  .next (s.command 0x11 fun s c =>
    let n := (c.arg 1).toNat
    let a := (c.arg 0).toNat
    let part := ((c.arg 2).toNat, n, s.rdN (hostLoc a) n)
    let parts := s.fwParts ++ [part]
    if ¬ s.hostOk a n then s.completedFree c.hseq
    else if s.param 2 = 0 then { s with fwParts := parts }.completed c.hseq 0 [0]
    else
      let len := parts.foldl (fun m p => max m (p.1 + p.2.1)) 0
      let img := ofBytes (parts.foldl (fun l p => l.take p.1 ++ toBytes p.2.2 p.2.1 ++ l.drop (p.1 + p.2.1)) (List.replicate len 0))
      match { s with fwParts := [] }.fwUpdate (s.param 0) (s.param 1) len img with
      | (s1, true) => s1.completed c.hseq 0 [0]
      | (s1, false) => s1.completedFree c.hseq)

/-- HCW_VFRESET (R97): it completes when the reset does. -/
def execHcwVfreset (s : State) : Out1 :=
  .next (s.command 0x12 fun s c =>
    let t := wbits (c.arg 0) 7 0
    if t = 0 ∨ ¬ s.tenEn t then s.completed c.hseq 2 [2] else s.resetTenant t [c.hseq])

/-! ### KBOOT (R158) -/

/-- A frame that the keystone may take for the kernel. -/
def State.frameFree (s : State) (f : Nat) : Bool := decide ((s.frame f).state = 0 ∧ (s.frame f).owner = 1)

/-- The lowest-numbered frames from `f` on that are FREE and owned by ACCEL. -/
def State.freeFrames (s : State) (f need : Nat) : Nat → List Nat
  | 0 => []
  | n + 1 =>
    match need with
    | 0 => []
    | k + 1 => if s.frameFree f then f :: s.freeFrames (f + 1) k n else s.freeFrames (f + 1) (k + 1) n

/-- Frames committed OWNED by ACCEL with TENANT 0, and to be written whole. -/
def State.takeFrames (s : State) (fs : List Nat) : State :=
  fs.foldl (fun s f =>
    ((s.setFrame f { (s.frame f).bump with state := 1, tenant := 0 }).repackAll (65536 * f) 65536 false).cover (65536 * f) 65536) s

/-- Bytes of device memory written with zeros. -/
def State.dropBytes (s : State) (dst n : Nat) : State :=
  { s with mem := s.mem.filter fun (c : Host.Cell) => !(decide (dst ≤ c.1 ∧ c.1 < dst + n)) }

/-- The `n` bytes at `src` written at `dst`. -/
def State.copyBytes (s : State) (src dst n : Nat) : State :=
  let cells := s.mem.filter fun c => decide (src ≤ c.1 ∧ c.1 < src + n)
  let s1 := s.dropBytes dst n
  cells.foldl (fun s c => s.wr8 (dst + (c.1 - src)) c.2.toNat) s1

/-- A table entry that points to a table, and one that is a leaf with its rights (R167). -/
def tblEntry (base : Nat) : Nat := base + 1
def leafEntry (base rights : Nat) : Nat := base + 3 + rights

/-- The tables of ASID 0 in frames `ast` and `pt` (R158): the image's frames from 0x0000_0100_0000_0000 on, with read,
write and execute, and all device HBM at its physical address, with read and write. -/
def State.buildTables (s : State) (ast pt : Nat) (img : List Nat) : State :=
  let a := 65536 * ast
  let p := 65536 * pt
  let l1 := p + 0x1000
  let l2id := p + 0x2000
  let l2img := p + 0x3000
  let l3 := p + 0x4000
  let l4 := fun i => p + 0x5000 + 256 * i
  let s1 := ((s.wrN a 8 (p + 1)).wrN (a + 8) 8 0).wrN p 8 (tblEntry l1)
  let s2 := ((s1.wrN l1 8 (tblEntry l2id)).wrN (l1 + 16) 8 (tblEntry l2img)).wrN l2img 8 (tblEntry l3)
  let s3 := (List.range 512).foldl (fun s i => s.wrN (l2id + 8 * i) 8 (leafEntry (2 ^ 30 * i) 12)) s2
  let s4 := (List.range ((img.length + 31) / 32)).foldl (fun s i => s.wrN (l3 + 8 * i) 8 (tblEntry (l4 i))) s3
  img.zipIdx.foldl (fun s x => s.wrN (l4 (x.2 / 32) + 8 * (x.2 % 32)) 8 (leafEntry (65536 * x.1) 28)) s4

/-- The keystone loads the image and starts the boot system core. -/
def State.kboot (s : State) (hpa len entry : Nat) (img tabs : List Nat) : State :=
  let s1 := s.takeFrames (img ++ tabs)
  let s2 := img.zipIdx.foldl (fun s x => s.copyBytes (hostLoc (hpa + 65536 * x.2)) (65536 * x.1) 65536) s1
  let zero := tabs.foldl (fun s f => s.dropBytes (65536 * f) 65536) s2
  let s3 := zero.buildTables (tabs.headD 0) (tabs.getD 16 0) img
  let s4 := (s3.setSr 0xB8 0 (BitVec.ofNat 64 (65536 * tabs.headD 0))).setSr 0xE1 0 (BitVec.ofNat 64 (2 ^ 40 + entry))
  { s4 with bootDigest := shaOf (s.rdN (hostLoc hpa) len) len, bootDue := false }.bootStart (BitVec.ofNat 64 len) 0

/-- Some thread runs on a system core. -/
def State.sysRuns (s : State) : Bool :=
  s.cores.any fun p => s.isSys p.1 && p.2.threads.any fun q => decide (q.2.st ≠ .free)

/-- HCW_KBOOT. After a warm reset no kernel runs before the scrub engine has resumed (R105), so the command waits for it. -/
def execHcwKboot (s : State) : Out1 :=
  .next (if s.scrubHeld then s else s.command 0x13 fun s c =>
    let hpa := (c.arg 0).toNat
    let len := (c.arg 1).toNat
    let entry := (c.arg 2).toNat
    let n := len / 65536
    if hpa % 65536 ≠ 0 ∨ len % 65536 ≠ 0 ∨ len = 0 ∨ 2 ^ 28 < len ∨ entry % 4 ≠ 0 ∨ len ≤ entry then s.completed c.hseq 2 [2]
    else if s.sysRuns then s.completed c.hseq 8 [8]
    else if ¬ s.hostOk hpa len then s.completedFree c.hseq
    else
      let fs := s.freeFrames 0 (n + 17) frecCount
      if fs.length < n + 17 then s.completed c.hseq 5 [5]
      else (s.kboot hpa len entry (fs.take n) (fs.drop n)).completed c.hseq 0 [0])

end Sys2Proof.Machine
end

