-- ==== Sys2Proof/Machine/MemSide.lean ====
section
/-! DEFINITION. The memory side: placement (R176), hotness (R180), migration (R181, R182), row repair and retirement
(R86, R185, R186), hot rows (R187). -/

namespace Sys2Proof.Machine

/-! ### Placement (R176) and hotness (R180) -/

/-- Every frame of a slab is FREE and owned by ACCEL. The keystone's frames lie in slabs 60 to 63 (log 4). -/
def State.slabFree (s : State) (k : Nat) : Bool :=
  decide (k < 60) && s.frames.all fun p => decide (p.1 / 131072 ≠ k) || decide (p.2.state = 0 ∧ p.2.owner = 1)

/-- PLACE_MAP_WRITE [v]: bits that may not change set their bit of `PLACE.ERR`. -/
def State.placeWrite (s : State) (v : Word) : State :=
  (List.range 64).foldl (fun s k =>
    if v.getLsbD k = (s.srv 0xC0 0).getLsbD k then s
    else if s.slabFree k then s.setSrf 0xC0 0 k k (b2n (v.getLsbD k))
    else s.setSrf 0xC1 0 k k 1) s

def execPlaceMapWrite (s : State) : Out1 := .next (s.placeWrite (BitVec.ofNat 64 (s.param 0)))

/-- HOT_CLR [v]: one region's counts, or all of them. -/
def State.hotClear (s : State) (v : Nat) : State :=
  if v = 0xFFFFFFFF then { s with hot := [] } else { s with hot := s.hot.filter fun (p : Nat × Nat) => decide (p.1 / 4 ≠ v) }

def execHotClr (s : State) : Out1 := .next (s.hotClear (s.param 0))

/-! ### Migration (R181, R182) -/

def State.migState (s : State) : Nat := s.srf 0xCB 0 63 62
def State.migCode (s : State) (c : Nat) : State := s.setSrf 0xCB 0 7 0 c

/-- Bytes of a migration of a given SIZE. -/
def migBytes (size : Nat) : Nat := if size = 0 then 2 ^ 16 else if size = 1 then 2 ^ 21 else 2 ^ 30

/-- The frames of a range. -/
def framesOf (base len : Nat) : List Nat := (List.range (len / 65536)).map (base / 65536 + ·)

/-- MIG_START [size]. -/
def State.migStart (s : State) (size : Nat) : State :=
  let src := s.srf 0xC8 0 47 16 * 65536
  let dst := s.srf 0xC9 0 47 16 * 65536
  let n := migBytes size
  let fs := framesOf src n
  let ten := (s.frame (src / 65536)).tenant
  if s.migState ≠ 0 then s.migCode 4
  else if 3 ≤ size ∨ src % n ≠ 0 ∨ dst % n ≠ 0 ∨ src = dst ∨ 2 ^ 39 < src + n ∨ 2 ^ 39 < dst + n then s.migCode 1
  else if ¬ (fs.all fun f => decide ((s.frame f).state = 1 ∧ (s.frame f).owner = 1 ∧ (s.frame f).tenant = ten)) then s.migCode 2
  else if ¬ ((framesOf dst n).all s.frameFree) then s.migCode 3
  else
    let s1 := (framesOf dst n).foldl (fun s f => s.setFrame f { (s.frame f).bump with state := 5 }) s
    { s1.setSr 0xCB 0 0x4000000000000000 with mig := some { src := src, dst := dst, len := n, moving := true } }

def execMigStart (s : State) : Out1 := .next (s.migStart (s.param 0))

/-- MIG_DRAIN_DONE: every access that the piers received for the range has been performed. A request that waits there for a
full word goes back to its abutment, where a moving range holds it (DEDUCED, log 82). -/
def State.migDrain (s : State) : State :=
  match s.mig with
  | none => s
  | some m =>
    let busy := s.accs.any fun a => m.has a.loc && (match a.st with | .issued => true | .entered _ => true | _ => false)
    let back := fun (a : Acc) => if a.st = AccSt.waiting ∧ m.has a.loc = true then { a with st := .held } else a
    if busy ∨ s.migState ≠ 1 then s else { s with mig := some { m with drained := true }, accs := s.accs.map back }

def execMigDrainDone (s : State) : Out1 := .next s.migDrain

/-- Granules or words of a range, as they stand in a list, at another base. -/
def shifted (m : Mig) (unit : Nat) (l : List Nat) : List Nat :=
  (l.filter fun g => decide (m.src / unit ≤ g ∧ g < (m.src + m.len) / unit)).map fun g => g - m.src / unit + m.dst / unit

/-- The race records of source lines, at the entries of their destination lines (R182, R210). -/
def State.moveRace (s : State) (m : Mig) : State :=
  (s.race.filter fun p => decide (m.src ≤ 64 * p.2.line ∧ 64 * p.2.line < m.src + m.len)).foldl (fun s p =>
    let l := p.2.line - m.src / 64 + m.dst / 64
    { s with race := s.race.put (s.raceIx (64 * l)) { p.2 with line := l } }) s

/-- The bytes of granule `j` of a range, deciphered under its source line's tweak and enciphered under its destination
line's (R182); without its key they cannot be read, and the destination is poisoned (R100; DEDUCED, log 82). -/
def State.recipher (s : State) (m : Mig) (j : Nat) : State :=
  let a := m.src + 256 * j
  let b := m.dst + 256 * j
  let k := s.slotAt a
  if s.keyGone a then { s with poison := b / 256 :: s.poison.erase (b / 256) }
  else (List.range 16).foldl (fun s i => s.putBlk k (b + 16 * i) (s.plainBlk k (a + 16 * i))) s

/-- Granules `[i, i + n)` of the range copied with their full/empty bits, race records, poison marks and stored form. -/
def State.copyGranules (s : State) (m : Mig) (i n : Nat) : State :=
  let p : Mig := { m with src := m.src + 256 * i, dst := m.dst + 256 * i, len := 256 * n }
  let s0 := s.checkRead p.src p.len
  let s1 := (s0.clearRange p.dst p.len).copyBytes p.src p.dst p.len
  let fe := s1.fe.filter fun x => decide (p.src / 4 ≤ x.1 ∧ x.1 < (p.src + p.len) / 4)
  let out := fun g => !decide (p.dst / 256 ≤ g ∧ g < p.dst / 256 + n)
  let s2 : State := { s1 with
    fe := fe.foldl (fun f x => f.put (x.1 - p.src / 4 + p.dst / 4) x.2) s1.fe
    poison := s1.poison.filter out ++ shifted p 256 s1.poison
    packed := s1.packed.filter out ++ shifted p 256 s1.packed }
  (((List.range n).filter fun j => s.enciphered (p.src + 256 * j)).foldl (fun s j => s.recipher p j) s2).moveRace p

/-- Granules copied so far. -/
def State.migGrans (s : State) : Nat := s.srf 0xCB 0 61 32

/-- MIG_COPY_DONE: the granules that are left are copied. -/
def State.migCopy (s : State) : State :=
  match s.mig with
  | none => s
  | some m =>
    if ¬ m.drained ∨ s.migState ≠ 1 then s
    else (s.copyGranules m s.migGrans (m.len / 256 - s.migGrans)).setSr 0xCB 0 (BitVec.ofNat 64 (2 ^ 63 + m.len / 256 * 2 ^ 32))

/-- The next granule of the range is copied: GRANS advances, and the last one ends the copy (R182). -/
def State.migGranule (s : State) : State :=
  match s.mig with
  | none => s
  | some m =>
    if ¬ m.drained ∨ s.migState ≠ 1 then s
    else if m.len / 256 ≤ s.migGrans + 1 then s.migCopy
    else (s.copyGranules m s.migGrans 1).setSrf 0xCB 0 61 32 (s.migGrans + 1)

def execMigCopyDone (s : State) : Out1 := .next s.migCopy

/-- The destination's entry after a commit. -/
def Frame.moved (e d : Frame) : Frame :=
  { d.bump with state := 1, owner := e.owner, tenant := e.tenant, prot := e.prot, key := e.key, watch := e.watch, exported := e.exported }

/-- MIG_COMMIT: ownership moves and the source is invalidated, after which the held requests are released; from now on they are
requests to the place at the destination, so that later accesses to it keep behind them (R190, R193). -/
def State.migCommit (s : State) : State :=
  match s.mig with
  | none => s.migCode 4
  | some m =>
    if s.migState ≠ 2 then s.migCode 4
    else
      let s1 := (framesOf m.src m.len).foldl (fun s f =>
        let g := f - m.src / 65536 + m.dst / 65536
        let e := s.frame f
        ((s.setFrame g (e.moved (s.frame g))).setFrame f { e.bump with state := 5 }).revoke f 1 .nothing) s
      let carry := fun (a : Acc) => if a.st = AccSt.held ∧ m.has a.loc = true then { a with loc := a.loc - m.src + m.dst } else a
      { s1.setSrf 0xCB 0 63 62 3 with mig := some { m with committed := true, scrub := m.src }, accs := s1.accs.map carry }.migCode 0

def execMigCommit (s : State) : Out1 := .next s.migCommit

/-- MIG_ABORT: the held requests go to the source, the destination is scrubbed. -/
def State.migAbort (s : State) : State :=
  match s.mig with
  | none => s.migCode 4
  | some m =>
    if s.migState ≠ 2 then s.migCode 4
    else { s.setSrf 0xCB 0 63 62 3 with mig := some { m with moving := false, scrub := m.dst } }.migCode 0

def execMigAbort (s : State) : Out1 := .next s.migAbort

/-- Frames written with zeros and committed FREE. -/
def State.freeRange (s : State) (base len : Nat) : State :=
  (framesOf base len).foldl (fun s f => (s.zeroFrame f).freeFrame f) s

/-- MIG_SCRUB_DONE: once every mapping of the range is revoked. -/
def State.migScrub (s : State) : State :=
  match s.mig with
  | none => s
  | some m =>
    if s.migState ≠ 3 ∨ s.revokes.any (fun r => (framesOf m.scrub m.len).contains r.frame) = true then s
    else { (s.freeRange m.scrub m.len).setSrf 0xCB 0 63 62 0 with mig := none }

def execMigScrubDone (s : State) : Out1 := .next s.migScrub

/-- A write of `MIG.CMD` (R181). -/
def State.migCmd (s : State) (v : Word) : State :=
  match wbits v 1 0 with
  | 1 => s.migStart (wbits v 9 8)
  | 2 => s.migCommit
  | 3 => s.migAbort
  | _ => s

/-- A migration at a warm reset ends: an uncommitted one is aborted, its freed frames are written (R181). -/
def State.migEnd (s : State) : State :=
  match s.mig with
  | none => s
  | some m => { s.freeRange (if s.migState = 3 then m.scrub else m.dst) m.len with mig := none }

/-! ### Retirement (R86, R186) -/

/-- A copy of the frame record in service or not: its base frame. -/
def recBase (c : Nat) : Nat := (if c = 0 then Config.frecBase else Config.frecCopy) / 65536

/-- The copy and the part of it that a frame holds. -/
def State.recPart (s : State) (f : Nat) : Option (Nat × Nat) :=
  match List.find? (fun (p : Nat × Nat) => decide (p.2 = f)) s.recAt with
  | some p => some (p.1 / 2048, p.1 % 2048)
  | none =>
    let at_ := fun c => if recBase c ≤ f ∧ f < recBase c + 2048 ∧ (s.recAt.find? (c * 2048 + (f - recBase c))).isNone then
      some (c, f - recBase c) else none
    match at_ 0 with | some x => some x | none => at_ 1

/-- The lowest-numbered of the `n` frames from `f` on that is FREE, owned by ACCEL and satisfies `p`. -/
def State.firstFree (s : State) (p : Nat → Bool) (f : Nat) : Nat → Option Nat
  | 0 => none
  | n + 1 => if s.frameFree f && p f then some f else s.firstFree p (f + 1) n

/-- Stacks that the granules of a frame lie on. -/
def State.stacksOf (s : State) (f : Nat) : List Nat := ((List.range 256).map fun i => s.pierOf (65536 * f + 256 * i) / 64).eraseDups

/-- A frame that the keystone takes: OWNED by KEYSTONE with SEQ + 1. -/
def State.keystoneTakes (s : State) (f : Nat) : State := s.setFrame f { (s.frame f).bump with state := 1, owner := 2 }

/-- Everything stops until a cold reset (R186). -/
def State.recFatal (s : State) : State := { s with recordFatal := true }

/-- `LPT` written in another frame (R186). -/
def State.moveLpt (s : State) (f : Nat) : State :=
  let s1 := (List.range 8193).foldl (fun s k => s.wrN (65536 * f + 4 * k) 4 (lptEntry s.live k)) (s.keystoneTakes f)
  ((s1.repackAll (65536 * f) 65536 false).cover (65536 * f) 65536).setSr 0x22 0 (BitVec.ofNat 64 (65536 * f))

/-- What the loss of a frame of the KEYSTONE does by its content (R186), and the status of its events: 0, or 20 FATAL. -/
def State.keystoneLoss (s : State) (f : Nat) : State × Nat :=
  let spare := s.firstFree (fun _ => true) 0 frecCount
  match s.recPart f with
  | some (c, i) =>
    if s.recLost.contains (1 - c, i) then (s.recFatal, 20)
    else
      ({ s with recLost := s.recLost ++ [(c, i)] }.setSr 0x70 0 (BitVec.ofNat 64 (65536 * recBase (1 - c))), 0)
  | none =>
    if 0x7C0000 ≤ f ∧ f < 0x800000 then
      ({ s with noSym := s.noSym ++ (List.range 8192).map (8192 * (f - 0x7C0000) + ·) }, 0)
    else if s.lptFrame f then (match spare with | some g => (s.moveLpt g, 0) | none => (s, 20))
    else if s.srf 0xD8 0 47 16 ≤ f ∧ f < s.srf 0xD8 0 47 16 + 2 ^ s.srf 0xD9 0 5 0 / 4096 then
      ({ s with race := s.race.filter fun (p : Nat × RaceRec) => decide (s.srf 0xD8 0 47 16 + p.1 / 4096 ≠ f) }, 0)
    else match spare with
      | some g => (s.keystoneTakes g, 0)
      | none => (s, 20)

/-- A frame retired in one record transaction: RETIRED in any state, every mapping revoked, both kernels told. Its BORROWER, BTEN
and RVK read 0 from then on, where R86 says nothing of them (DESIGN CHOICE, log 75). -/
def State.retireFrame (s : State) (f : Nat) : State :=
  let e := s.frame f
  if frecCount ≤ f ∨ e.state = 6 then s
  else
    let e1 := ({ e with state := 6, borrower := 0, bten := 0, rvk := 0 }).bump
    let s1 := (s.setFrame f e1).revoke f 2 .nothing
    let (s2, st) := if e.owner = 2 then s1.keystoneLoss f else (s1, 0)
    let r : EvRec := { kind := 6, status := st, vals := [BitVec.ofNat 64 f, txResult e1.seq st] }
    (s2.eventTo 0 r).eventTo 1 r

/-- FRAME_RETIRE [frame]. -/
def execFrameRetire (s : State) : Out1 := .next (s.retireFrame (s.param 0))

/-- RECORD_REBUILD: the oldest lost part of the record is rebuilt in the lowest-numbered free frame on other stacks than
the surviving copy's; with no such frame both copies count as lost (R186). -/
def State.recRebuild (s : State) : State :=
  match s.recLost with
  | [] => s
  | (c, i) :: rest =>
    let other := (s.recAt.find? ((1 - c) * 2048 + i)).getD (recBase (1 - c) + i)
    let apart := fun f => (s.stacksOf f).all fun x => !(s.stacksOf other).contains x
    match s.firstFree apart 0 frecCount with
    | none =>
      let r : EvRec := { kind := 6, status := 20, vals := [BitVec.ofNat 64 other] }
      (s.recFatal.eventTo 0 r).eventTo 1 r
    | some g => { s.keystoneTakes g with recLost := rest, recAt := s.recAt.put (c * 2048 + i) g }

def execRecordRebuild (s : State) : Out1 := .next s.recRebuild

/-! ### Row repair (R185) and hot rows (R187) -/

/-- A row is failed: it has yielded an uncorrectable error, or correctable ones in 16 reads (R185). -/
def State.rowFailed (s : State) (gs : List Nat) : Bool :=
  gs.any (s.uncorr.contains ·) || decide (16 ≤ (gs.map fun g => s.corrReads.val g 0).sum)

/-- The row's granules lie elsewhere, with their poison marks, and count afresh. -/
def State.rowMoved (s : State) (gs : List Nat) : State :=
  { s with corrReads := s.corrReads.filter fun (p : Nat × Nat) => !gs.contains p.1, uncorr := s.uncorr.filter fun g => !gs.contains g }

/-- PIER_ROW_REPAIR [pier, granules ...]: the row of these granules, where it is failed, is repaired with the first resource
still free; with none, every frame with a granule in the row is retired. -/
def State.rowRepair (s : State) (p : Nat) (gs : List Nat) : State :=
  let use := fun hi lo => (s.setSrf 0xD0 p hi lo (s.srf 0xD0 p hi lo - 1)).rowMoved gs
  if 512 ≤ p ∨ ¬ s.rowFailed gs ∨ ¬ (gs.all fun g => decide (s.pierOf (256 * g) = p)) then s
  else if s.srf 0xD0 p 63 56 ≠ 0 then use 63 56
  else if s.srf 0xD0 p 55 48 ≠ 0 then use 55 48
  else if s.srf 0xD0 p 47 40 ≠ 0 then use 47 40
  else ((gs.map (· / 256)).eraseDups.foldl State.retireFrame s).rowMoved gs

def execPierRowRepair (s : State) : Out1 := .next (s.rowRepair (s.param 0) (s.params.drop 1))

/-- `PIER.HRACT`. -/
def State.hract (s : State) : Nat := let v := s.srf 0xD1 0 15 0; if v = 0 then 4096 else max 256 v

/-- REFRESH_WINDOW_END [pier, row, activations]: the row is hot or cool in the next window. -/
def State.refreshEnd (s : State) (p r n : Nat) : State :=
  let l := s.hotRows.erase (p, r)
  { s with hotRows := if s.hract < n then l ++ [(p, r)] else l }

def execRefreshWindowEnd (s : State) : Out1 := .next (s.refreshEnd (s.param 0) (s.param 1) (s.param 2))

/-- HOT_ROW_WINDOW [pier, row]: one activation of a hot row is admitted. It only delays requests, so nothing that the
state holds changes. -/
def execHotRowWindow (s : State) : Out1 := .next s

end Sys2Proof.Machine
end

