-- ==== Sys2Proof/Machine/Reset.lean ====
section
/-! DEFINITION. Cold and warm reset (R11, R105, R431, R432). -/

namespace Sys2Proof.Machine

/-! ### The bring-up self-test (R11) -/

/-- A core that fails the self-test is not in the harvest map. -/
def State.unlive (s : State) (h : Nat) : State := s.setSrf 0x20 (mapPlace h).1 (mapPlace h).2 (mapPlace h).2 0

/-- The keystone designates the highest live core of a die (R157). -/
def State.designate (s : State) (die : Nat) : State :=
  s.setSr 0xB0 die (BitVec.ofNat 64 (2 ^ 63 + highestLive s.live (1024 * posOf die) 1024))

/-- `LPT` written again where it lies (R14). -/
def State.rewriteLpt (s : State) : State :=
  (List.range 8193).foldl (fun s k => s.wrN (s.srf 0x22 0 47 0 + 4 * k) 4 (lptEntry s.live k)) s

/-- The map that a reset publishes, the cores as fused less those that fail now, with what follows from it: the system cores
of the dies (R157) and, where the map changes, `LPT` (R14). -/
def State.selfTest (s : State) : State :=
  let own := fun (p : Nat × Word) => decide (p.1 / 65536 = 0x20 ∨ (p.1 / 65536 = 0xB0 ∧ p.1 % 65536 < 8))
  let s1 := s.failing.foldl State.unlive { s with sr := s.sr.filter fun p => !own p, failing := [] }
  let s2 := (s.failing.map dieOf).eraseDups.foldl State.designate s1
  if s.failing = [] ∧ ¬ s.sr.any own then s2 else s2.rewriteLpt

/-! ### Cold reset -/

/-- COLD_RESET: every register at its cold value. What lies outside the package stays (host and pool memory, what has
left, the agenda), and so do the firmware, its counter and the recorded cause of a removal of power (R34, R37). -/
def State.cold (s : State) : State :=
  let c : State := { State.reset with
    agenda := s.agenda, fresh := s.fresh, nextId := s.nextId, out := s.out
    mem := s.mem.filter fun (c : Host.Cell) => decide (2 ^ 64 ≤ c.1) || isPool c.1
    poolRd := s.poolRd, poolWr := s.poolWr, poolFailed := s.poolFailed
    tripCause := s.tripCause
    hostDirty := [], hostBad := s.hostBad, failing := s.failing
    fwImage := s.fwImage, fwLen := s.fwLen, fwVersion := s.fwVersion, fwCounter := s.fwCounter, fwValid := s.fwValid
    fwRecovery := !s.fwValid }
  (if s.tripCause then c.setSr 0x46 0 8 else c).selfTest

def execColdReset (s : State) : Out1 := .next s.cold

/-! ### Warm reset -/

/-- A system register's value after a warm reset (R7 and the Reset columns). A register with no column keeps its value, but
`PART.BASE` and `PART.LEN` follow `PART.CTL`, whose partition is off, and `KEY.RES` names no slot any longer: all three read
0 (DESIGN CHOICE, log 1). -/
def warmSr (n i : Nat) (v : Word) : Word :=
  match n with
  | 0x46 => v &&& 0xFFFFFFFF00000008
  | 0x56 => 0
  | 0x58 => v &&& 0x01FFFFFFFFFFF000
  | 0x5A => 0
  | 0x5B => 0
  | 0x60 => 0
  | 0x63 => 0
  | 0x64 => 0
  | 0x65 => 0
  | 0x67 => 0
  | 0x80 => v &&& 0x007FFFFFFFF8FF80
  | 0x88 => 0
  | 0x89 => 0
  | 0x8A => 0
  | 0x8B => 0
  | 0x92 => 0
  | 0x9B => putBits v 61 54 0
  | 0xA0 => v &&& 0x1FFFFFFFFF008000
  | 0xA4 => 0
  | 0xB0 => if i < 8 then v else 0
  | 0xB1 => 0
  | 0xB2 => 0
  | 0xB3 => 0
  | 0xB4 => 0
  | 0xCB => 0
  | _ => v

/-- Accesses that had been forwarded: those that `ids` names are performed whole, the others dropped (R431). -/
def State.warmAccs (s : State) (ids : List Nat) : State :=
  ids.foldl (fun s id => match s.acc? id with
    | some a => (match a.st with
      | .issued => (s.perform a).1.dropAcc id
      | .entered _ => (s.perform a).1.dropAcc id
      | _ => s)
    | none => s) s

/-- A core after a warm reset: its dropped side-log entries counted, its bring-up state otherwise. -/
def Core.warm (c : Core) : Core := { slogDrop := (c.slogDrop + c.slogCount) % 2 ^ 32 }

/-- Commands accepted and not done start again (R75); the CLKPLAN whose plan is being applied goes on (R18). -/
def State.warmCmds (s : State) : State :=
  let own := match s.load with | some l => l.owner | none => 0
  { s with cmds := s.cmds.map fun (c : Cmd) => if c.done ∨ (c.hseq = own ∧ own ≠ 0) then c else { c with started := false } }

/-- A plan whose apply step was struck is applied again from the start, every passenger relocking (R21). -/
def State.warmPlan (s : State) : State :=
  match s.load with
  | some l => { s with load := some { l with todo := List.range 20 } }.setSr 0x42 0 1
  | none => s

/-- A revocation repeats its steps 2 and 3; no thread waits for it any longer (R75, R83). -/
def Revoke.warm (r : Revoke) : Revoke :=
  { r with left := List.range 65, after := match r.after with | .thread _ _ => .nothing | x => x }

/-- WARM_RESET [performed ...] (R105, R181, R431, R432). -/
def State.warm (s : State) (ids : List Nat) : State :=
  let s1 := ((s.warmAccs ids).migEnd).warmCmds.warmPlan
  let sr := s1.sr.map fun (p : Nat × Word) => (p.1, warmSr (p.1 / 65536) (p.1 % 65536) p.2)
  let hcw := [hCTL, hCPI, hCCI, hSTAT].foldl (fun (m : SMap Word) o => m.put o 0) s1.hcw
  let local_ := fun (x unit : Nat) => decide (2 ^ 52 / unit ≤ x ∧ x < 2 ^ 64 / unit)
  let st := wbits (s1.srv 0x9B 0) 63 62
  State.selfTest { s1 with
    params := [], curH := 0, curSlot := 0
    sr := sr, hcw := hcw
    tstat := [], tfail := [], gated := []
    freq := if s1.load.isSome then s1.freq else s1.plan.freq
    ports := [], collIdx := [], colls := [], rules := [], ruleLoad := none, rings := [], xoff := []
    collSeq := [], ingHeld := []
    out := s1.out ++ s1.revokes.map fun (r : Revoke) => Out.bisnp r.frame
    fwRecovery := !s1.fwValid
    revokes := s1.revokes.map Revoke.warm, hostChk := []
    keys := [], keyData := [], vfResets := [], exclBusy := [], exclWait := []
    scrubHeld := decide (st = 1 ∨ st = 2)
    partSeen := false, bootDue := true, parts := [], launches := [], saved := []
    cores := s1.cores.map fun (p : Nat × Core) => (p.1, p.2.warm)
    quads := []
    mem := s1.mem.filter fun (c : Host.Cell) => !local_ c.1 1
    fe := s1.fe.filter fun (p : Nat × Bool) => !local_ p.1 4
    accs := [], entered := [], sent := [], xls := [] }

def execWarmReset (s : State) : Out1 := .next (s.warm s.params)

end Sys2Proof.Machine
end

