-- ==== Sys2Proof/Machine/SysRegs.lean ====
section
/-! DEFINITION. The system registers: their numbers, what a read returns and what a write does (R7, R8, R393–R396), with
MFS, MTS and REGISTER_WRITE. -/

namespace Sys2Proof.Machine

/-! ### The catalogue (R395) -/

/-- Number of elements of register `n`: 1 for a register that is not an array, none for a number that is unassigned. -/
def srLen (n : Nat) : Option Nat :=
  if n < 0x1D then some 1
  else match n with
  | 0x1D => some 4
  | 0x1E => some 4
  | 0x20 => some 128
  | 0x21 => some 1
  | 0x22 => some 1
  | 0x23 => some 1
  | 0x40 => some 1
  | 0x41 => some 1
  | 0x42 => some 1
  | 0x43 => some 20
  | 0x44 => some 1
  | 0x45 => some 1
  | 0x46 => some 1
  | 0x50 => some 1
  | 0x51 => some 1
  | 0x52 => some 1024
  | 0x53 => some 64
  | 0x54 => some 1
  | 0x55 => some 1
  | 0x56 => some 64
  | 0x58 => some 256
  | 0x59 => some 256
  | 0x5A => some 4096
  | 0x5B => some 4096
  | 0x60 => some 256
  | 0x61 => some 256
  | 0x62 => some 256
  | 0x63 => some 8
  | 0x64 => some 32
  | 0x65 => some 8
  | 0x66 => some 1
  | 0x67 => some 1
  | 0x68 => some 1
  | 0x69 => some 1
  | 0x6A => some 1
  | 0x70 => some 1
  | 0x71 => some 1
  | 0x72 => some 1
  | 0x73 => some 1
  | 0x74 => some 1
  | 0x75 => some 1
  | 0x76 => some 1
  | 0x77 => some 1
  | 0x78 => some 1
  | 0x80 => some 256
  | 0x81 => some 256
  | 0x82 => some 256
  | 0x83 => some 256
  | 0x84 => some 256
  | 0x88 => some 64
  | 0x89 => some 64
  | 0x8A => some 64
  | 0x8B => some 128
  | 0x90 => some 8
  | 0x91 => some 1
  | 0x92 => some 1
  | 0x93 => some 256
  | 0x94 => some 1
  | 0x95 => some 1
  | 0x98 => some 1
  | 0x99 => some 1
  | 0x9A => some 1
  | 0x9B => some 1
  | 0x9C => some 1
  | 0xA0 => some 4096
  | 0xA1 => some 4096
  | 0xA2 => some 1
  | 0xA3 => some 1
  | 0xA4 => some 1
  | 0xA5 => some 1
  | 0xA6 => some 1
  | 0xA7 => some 1
  | 0xA8 => some 65536
  | 0xB0 => some 32
  | 0xB1 => some 32
  | 0xB2 => some 32
  | 0xB3 => some 32
  | 0xB4 => some 32
  | 0xB8 => some 1
  | 0xB9 => some 8192
  | 0xBA => some 1
  | 0xC0 => some 1
  | 0xC1 => some 1
  | 0xC2 => some 1
  | 0xC3 => some 1
  | 0xC8 => some 1
  | 0xC9 => some 1
  | 0xCA => some 1
  | 0xCB => some 1
  | 0xD0 => some 512
  | 0xD1 => some 1
  | 0xD8 => some 1
  | 0xD9 => some 1
  | 0xDA => some 256
  | 0xE0 => some 32
  | 0xE1 => some 1
  | 0xE2 => some 1
  | 0xE3 => some 1
  | 0xE4 => some 1
  | 0xE5 => some 32
  | _ => none

/-- Registers that a user-level MTS may write (R394): `NXM`, `WBSP`, `WPROG`, `REPCNT`, `UTVEC`, `ADJ.BASE`, `ADJ.LIMIT`,
`ADJ.PTR`, `ADJ.CTL` and `TRAP.PC`. -/
def userMts (n : Nat) : Bool :=
  match n with
  | 0x02 | 0x03 | 0x04 | 0x06 | 0x07 | 0x10 | 0x11 | 0x12 | 0x13 | 0x19 => true
  | _ => false

/-! ### What a read returns -/

/-- `CORE.ID` (R140). -/
def State.coreId (s : State) (h k : Nat) : Nat :=
  let c := s.core h
  let g := match c.gang with
    | some g => if (c.thr k).inGang then (h - g.leader) * 2 ^ 40 + g.size * 2 ^ 32 else 0
    | none => 0
  g + k * 2 ^ 30 + b2n (s.isSys h) * 2 ^ 29 + dieOf h * 2 ^ 26 + rowOf h * 2 ^ 21 + colOf h * 2 ^ 16 + b2n c.ret * 2 ^ 15 + h

/-- `CHAN.OCC` of a thread (R323). -/
def Thread.occ (t : Thread) : Nat :=
  (List.range 8).foldl (fun v c => v + (t.chans.val c []).length % 16 * 16 ^ c) 0

/-- `HARV.TOTAL` (R13). -/
def State.harvTotal (s : State) : Nat := (List.range 128).foldl (fun n i => n + popN (s.srv 0x20 i).toNat 64) 0

/-- Thread, core and die registers, 0x000 to 0x023. -/
def State.readLow (s : State) (h k n i : Nat) : Word :=
  let c := s.core h
  let t := c.thr k
  match n with
  | 0x00 => s.dtime.val (dieOf h) 0
  | 0x01 => BitVec.ofNat 64 c.sclk
  | 0x02 => BitVec.ofNat 64 (b2n c.nxm)
  | 0x03 => t.wbsp
  | 0x04 => BitVec.ofNat 64 t.wprog
  | 0x05 => BitVec.ofNat 64 (t.low * 65536 + t.base)
  | 0x06 => t.rep
  | 0x07 => t.utvec
  | 0x08 => c.ctag
  | 0x09 => c.ctagErr
  | 0x0A => BitVec.ofNat 64 t.occ
  | 0x0B => BitVec.ofNat 64 c.msgDisc
  | 0x0C => BitVec.ofNat 64 (s.coreId h k)
  | 0x0D => c.dom.val 1 0
  | 0x0E => c.dom.val 2 0
  | 0x0F => c.dom.val 3 0
  | 0x10 => c.adjBase
  | 0x11 => c.adjLimit
  | 0x12 => c.adjPtr
  | 0x13 => c.adjCtl
  | 0x14 => c.adjStat
  | 0x15 => t.limit
  | 0x16 => s.twrap.val (dieOf h) 0
  | 0x17 => s.tstat.val (dieOf h) 0
  | 0x18 => BitVec.ofNat 64 t.trapStat
  | 0x19 => t.trap.pc
  | 0x1A => t.trap.info
  | 0x1B => t.trap.lpc
  | 0x1C => t.trap.rep
  | 0x1D => BitVec.ofNat 64 (t.trapPend i)
  | 0x1E => t.trapVal i
  | 0x21 => BitVec.ofNat 64 s.harvTotal
  | 0x23 => BitVec.ofNat 64 (s.asidOf h k)
  | _ => s.srv n i

/-- `FAB.PSTAT` of a port (R41). -/
def State.pstat (s : State) (p : Nat) : Nat :=
  let x := s.port p
  x.retries % 2 ^ 32 * 2 ^ 32 + x.peer % 2 ^ 19 * 2 ^ 13 + x.peerPort % 64 * 2 ^ 7 + x.state

/-- Package registers, 0x040 and above; a write-only register reads 0 (R7, R394). -/
def State.readHigh (s : State) (h n i : Nat) : Word :=
  let c := s.core h
  match n with
  | 0x41 => 0
  | 0x43 => BitVec.ofNat 64 (s.freq.getD i 0)
  | 0x45 => BitVec.ofNat 64 s.capNow
  | 0x53 => BitVec.ofNat 64 (s.pstat i)
  | 0x66 => 0
  | 0x69 => 0
  | 0x75 => BitVec.ofNat 64 s.evAcc.issued
  | 0x78 => BitVec.ofNat 64 s.evAcc.lost
  | 0x90 => 0
  | 0x91 => 0
  | 0x93 => BitVec.ofNat 64 (b2n (s.keys.val i {}).loaded)
  | 0x9A => 0
  | 0xA6 => 0
  | 0xB9 => BitVec.ofNat 64 ((s.core i).slogDrop * 2 ^ 32 + (s.core i).slog.length)
  | 0xBA => 0
  | 0xC3 => 0
  | 0xCA => 0
  | 0xD1 => if s.srf 0xD1 0 15 0 = 0 then 4096 else s.srv 0xD1 0
  | 0xE0 => 0
  | 0xE2 => BitVec.ofNat 64 c.ipend
  | 0xE3 => BitVec.ofNat 64 c.imask
  | 0xE4 => BitVec.ofNat 64 (b2n c.ictlEn * 2 ^ 63 + c.ictlSlot)
  | 0xE5 => 0
  | _ => s.srv n i

/-- The value that MFS of element `i` of register `n` returns to slot `k` of core `h`. -/
def State.readSr (s : State) (h k n i : Nat) : Word := if n < 0x40 then s.readLow h k n i else s.readHigh h n i

/-! ### What a write does -/

/-- Writable bits of a package register that a write only stores into; 0 for one that is read only or acts. -/
def srMask (n : Nat) : Word :=
  match n with
  | 0x40 => 0x0000FFFFFFFFFF00
  | 0x51 => 0x0000FFFFFFFF0000
  | 0x52 => 0x800000000007FFFF
  | 0x5A => 0x8000FFFFFFFFFFC0
  | 0x5B => 0x8000FFFFFFFFFFC0
  | 0x61 => 0xFFFFFFFFFFFF0000
  | 0x62 => 0x000000000000FFFF
  | 0x63 => 0x80000000000000FF
  | 0x65 => 0x0000FFFFFFFFC000
  | 0x68 => 0x0000FFFFFFFFFFFF
  | 0x77 => 0x000000000000001F
  | 0x82 => 0xFFFFFFFFFFFFFFFF
  | 0x83 => 0x00000000FFFFFFFF
  | 0xA1 => 0x01FFFFFFFFFF0000
  | 0xA2 => 0x0000FFFFFFFFFFFF
  | 0xA3 => 0x000000000000001F
  | 0xA4 => 0x00000000000000FF
  | 0xA5 => 0x00000000FFFFFFFF
  | 0xA7 => 0x00000000FFFFFFFF
  | 0xA8 => 0xFFFFFFFFFFFFFFFF
  | 0xB1 => 0x0000FFFFFFFF0000
  | 0xB2 => 0x000000000000000F
  | 0xB4 => 0xFFFFFFFFFFFFFFFF
  | 0xB8 => 0x0000FFFFFFFF0000
  | 0xC2 => 0x0000FFFFFFFFFFFF
  | 0xC8 => 0x0000FFFFFFFF0000
  | 0xC9 => 0x0000FFFFFFFF0000
  | 0xD1 => 0x000000000000FFFF
  | 0xE1 => 0x01FFFFFFFFFFFFFC
  | _ => 0

/-- A write that only stores: the writable fields take their bits (R7, R8). -/
def State.storeSr (s : State) (n i : Nat) (v : Word) : State :=
  if srMask n = 0 then s else s.setSr n i (v &&& srMask n)

/-- A write of a package register that starts nothing: it stores, where the state lets it (R7, R47, R65, R90, R99, R102, R128,
R176). The marks of `ING.DEF`'s rings are looked at again. -/
def State.plainWrite (s : State) (n i : Nat) (v : Word) : State :=
  match n with
  | 0x59 => if i = 0 ∨ s.collEn i then s else s.setSr 0x59 i (v &&& 0x0000FFFF0000001F)
  | 0x63 => (s.storeSr n i v).pfc
  | 0x81 => if s.tenEn i then s else s.setSr 0x81 i (v &&& 0x0000FFFFFFFF0001)
  | 0x84 => if s.tenEn i then s else s.setSr 0x84 i (v &&& 0xFFFFFFFFFFFF0000)
  | 0x90 => { s with keyData := s.keyData.put i v }
  | 0x98 => if s.scrubState = 1 ∨ s.scrubState = 2 then s else s.setSr 0x98 0 (v &&& 0x0000FFFFFFFF0000)
  | 0x99 => if s.scrubState = 1 ∨ s.scrubState = 2 then s else s.setSr 0x99 0 (v &&& 0xFFFFFF)
  | 0xC1 => s.setSr 0xC1 0 (s.srv 0xC1 0 &&& ~~~v)
  | _ => s.storeSr n i v

/-- A write of `TEN.CFG`[t] (R89). -/
def State.tenCfgWrite (s : State) (t : Nat) (v : Word) : State :=
  if t = 0 then s
  else if s.tenEn t then (if v.getLsbD 63 then s else s.tenDisable t v)
  else if v.getLsbD 63 then s.tenEnable t v else s.setSr 0x80 t (v &&& tencfgMask)

/-- A write of `PART.CTL`[j] (R92). -/
def State.partCtlWrite (s : State) (j : Nat) (v : Word) : State :=
  match v.getLsbD 63, s.partEn j with
  | true, false => s.partEnable j v
  | false, true => s.partDisable j v
  | true, true => if v.getLsbD 62 then s.partResize j v else s.partCtl j v 0
  | false, false => s.partCtl j v (s.partGoStat j v)

/-- A write of `SCHED.QCFG`[q] (R106). -/
def State.qcfgWrite (s : State) (q : Nat) (v : Word) : State :=
  if s.qEn q then (if v.getLsbD 63 then s else s.queueDisable q)
  else if v.getLsbD 63 then s.queueEnable q v
  else s.setSr 0xA0 q ((v &&& qcfgMask) ||| (s.srv 0xA0 q &&& 0x0000000000FF0000))

/-- The core whose bit is bit `b` of element `i` of `PART.EXCL` (R12, R96). -/
def exclCore (i b : Nat) : Nat := let n := i % 16 * 64 + b; 1024 * posOf (i / 16) + hil (n / 32) (n % 32)

/-- A write of `PART.EXCL`[i] (R96): each bit that changes. -/
def State.exclWrite (s : State) (i : Nat) (v : Word) : State :=
  (List.range 64).foldl (fun s b =>
    let h := exclCore i b
    if v.getLsbD b then (if s.excl h = false ∨ s.exclWaits h = true then s.exclSet h else s)
    else if s.excl h = true ∨ s.exclBusy.contains h = true ∨ s.exclWaits h = true then s.exclClear h else s) s

/-- A write of `SLOG.CMD` (R175). -/
def State.slogCmd (s : State) (v : Word) : State :=
  match wbits v 63 62 with
  | 1 => s.slogRetry (wbits v 12 0)
  | 2 => s.slogDiscard (wbits v 12 0)
  | _ => s

/-- A write of `PAR.STAT`: TRIP is cleared with its recorded cause (R34). -/
def State.parStatWrite (s : State) (v : Word) : State :=
  if v.getLsbD 3 then { s.setSrf 0x46 0 3 3 0 with tripCause := false } else s

/-- A write of a package register by a thread of core `h`; a command starts its action (R394). A base that must be 64-KiB
aligned and has no field map keeps no bits 15:0 of what is written (DESIGN CHOICE, log 11). -/
def State.writeHigh (s : State) (h n i : Nat) (v : Word) : State :=
  match n with
  | 0x41 => if v.getLsbD 0 then s.clkLoad else s
  | 0x44 => s.roleWrite v
  | 0x45 => s.capWrite v
  | 0x46 => s.parStatWrite v
  | 0x50 => s.nodeWrite v
  | 0x56 => if v.getLsbD 0 then s.portEnable i else s.portDisable i
  | 0x58 => s.collQb i v
  | 0x60 => s.rctlWrite i v
  | 0x66 => s.ruleStart v
  | 0x69 => s.poolClear v.toNat
  | 0x73 => s.aevConfig (v &&& 0x0000FFFFFFFF0000) (s.srv 0x74 0)
  | 0x74 => s.aevConfig (s.srv 0x73 0) (v &&& 0x1F)
  | 0x76 => s.aevconWrite v
  | 0x80 => s.tenCfgWrite i v
  | 0x88 => s.partCtlWrite i v
  | 0x8B => s.exclWrite i v
  | 0x91 => s.keyCmd v
  | 0x9A => if v = 1 then s.scrubStart else s
  | 0xA0 => s.qcfgWrite i v
  | 0xA6 => s.schedEnd v.toNat
  | 0xB0 => s.svcWrite i v
  | 0xBA => s.slogCmd v
  | 0xC0 => s.placeWrite v
  | 0xC3 => s.hotClear v.toNat
  | 0xCA => s.migCmd v
  | 0xE0 => s.sysStart i v
  | 0xE2 => s.onCoreAt h fun c => { c with ipend := c.ipend &&& (63 - wbits v 5 0) }
  | 0xE3 => s.onCoreAt h fun c => { c with imask := wbits v 5 0 }
  | 0xE4 => s.onCoreAt h fun c => { c with ictlEn := v.getLsbD 63, ictlSlot := wbits v 1 0 }
  | 0xE5 => s.sysIpi i
  | _ => s.plainWrite n i v

/-- The fields of a thread's registers that MTS writes (R155, R158, R292, R302, R394, R396). -/
def Thread.writeLow (t : Thread) (kernel : Bool) (n : Nat) (v : Word) : Thread :=
  match n with
  | 0x03 => { t with wbsp := v }
  | 0x04 => { t with wprog := wbits v 4 0 }
  | 0x06 => { t with rep := v &&& 0x7FFFC0 }
  | 0x07 => { t with utvec := v &&& 0x01FFFFFFFFFFFFFC }
  | 0x15 => if kernel then { t with limit := v, cyc := 0 } else t
  | 0x19 => if kernel then t else { t with trap := { t.trap with pc := v } }
  | 0x1C => if kernel then { t with trap := { t.trap with rep := v &&& 0x7FFFC0 } } else t
  | 0x23 => if kernel then { t with asid := wbits v 15 0 } else t
  | _ => t

/-- The fields of a core's registers that MTS writes (R262, R377). -/
def Core.writeLow (c : Core) (n : Nat) (v : Word) : Core :=
  match n with
  | 0x02 => { c with nxm := v.getLsbD 0 }
  | 0x10 => { c with adjBase := v &&& 0xFFFFFFFFFFFFFFE0 }
  | 0x11 => { c with adjLimit := v &&& 0xFFFFFFFFFFFFFFE0 }
  | 0x12 => { c with adjPtr := v &&& 0xFFFFFFFFFFFFFFE0 }
  | 0x13 => { c with adjCtl := (v &&& 0xFFFFFFFF00000002) ||| (c.adjCtl &&& 1) }
  | _ => c

/-- The write of MTS by the issuing thread. -/
def State.writeSr (s : State) (n i : Nat) (v : Word) : State :=
  if n < 0x40 then (s.onCC fun c => c.writeLow n v).onCur fun t => t.writeLow s.kernel n v
  else s.writeHigh s.curH n i v

/-! ### The instructions -/

/-- MFS (R393, R394). -/
def execMfs (d a c num : Nat) (s : State) : Out1 :=
  .next (match srLen num with
    | none => s.illegal
    | some len =>
      if c ≠ 0 ∧ len = 1 then s.illegal
      else if 0x40 ≤ num ∧ ¬ s.kernel then s.kfault fPRIV 0
      else if s.cur.openG d then s.lookahead
      else
        let i := (s.g a + BitVec.ofNat 64 c).toNat
        if len ≤ i then s.perm 0 else s.wrNext d 4 (s.readSr s.curH s.curSlot num i))

/-- MTS (R393, R394): a package register's write is a `.sys` release. -/
def execMts (d a c num : Nat) (s : State) : Out1 :=
  .next (match srLen num with
    | none => s.illegal
    | some len =>
      if c ≠ 0 ∧ len = 1 then s.illegal
      else if userMts num = false ∧ ¬ s.kernel then s.kfault fPRIV 0
      else s.closingAll fun s1 =>
        let i := (s1.g a + BitVec.ofNat 64 c).toNat
        let v := s1.g d
        if len ≤ i then s1.perm 0
        else if num < 0x40 then (s1.retire 4).writeSr num i v
        else s1.fencedAll 4 fun s2 => (s2.retire 4).writeSr num i v)

/-- The host programs the one HDM decoder (R70): HDMBASE, the size, and the control register with COMMIT in bit 9,
COMMITTED in bit 10 and the commit's error in bit 11, as the CXL 3.1 decoder capability has them; the device's range is
512 GiB from a multiple of 256 MiB (PRESUMED, log 76). -/
def State.hdmWrite (s : State) (i : Nat) (v : Word) : State :=
  let reg := fun k => s.hdmRegs.val k 0
  let put := fun (x : Word) (b : Option Nat) => ({ s with hdmRegs := s.hdmRegs.put 2 x, hdmBase := b } : State)
  if i ≤ 1 then (if (reg 2).getLsbD 10 then s else { s with hdmRegs := s.hdmRegs.put i v })
  else if i = 2 then
    let x : Word := v &&& 0xFFFFF3FF
    if ¬ v.getLsbD 9 then put x none
    else if reg 1 = 0x8000000000 ∧ (reg 0).toNat % 0x10000000 = 0 then put (x ||| 0x400) (some (reg 0).toNat)
    else put (x ||| 0x800) none
  else s

/-- REGISTER_WRITE [n, idx, v]: a write that only stores (R7, R72): a package register by its number, the host's window
at 0x1000 plus its offset, and 0x2000 for the registers of the HDM decoder (R70). -/
def execRegisterWrite (s : State) : Out1 :=
  let n := s.param 0
  let i := s.param 1
  let v : Word := BitVec.ofNat 64 (s.param 2)
  let off := n - 0x1000
  let on := (s.hc hCTL).getLsbD 0
  .next (
    if n < 0x40 then s
    else if n < 0x1000 then (match srLen n with
      | some len => if i < len then s.plainWrite n i v else s
      | none => s)
    else if n = 0x2000 then s.hdmWrite i v
    else if off = hCPI then s.setHc hCPI v
    else if on = true then s
    else if off = hCRB ∨ off = hERB then (s.setHc off v).flush
    else if off = hCRS ∨ off = hERS then (s.setHc off (v &&& 0x1F)).flush
    else s)

end Sys2Proof.Machine
end

