-- ==== Sys2Proof/Machine/System.lean ====
section
/-! DEFINITION. Gangs, halting, spawning and waiting (R141–R147, R399), user traps and their return (R397, R398),
invalidation, keys and clearing (R400–R402), repair of parked threads (R403), frame transactions (R404), launching and
fence counters (R405). -/

namespace Sys2Proof.Machine

/-! ### Gangs (R141–R144) -/

/-- The thread's partition: that of its share. -/
def State.gangPart (s : State) : Nat := match s.cc.share with | some x => x.part | none => 64

/-- Another thread of the core is in a gang or waits in GANG, or the issuing thread is in one. -/
def Core.gangBusy (c : Core) (k : Nat) : Bool :=
  c.gang.isSome || (List.range 4).any fun j => decide (j ≠ k) && (match (c.thr j).wait with | .gang _ => true | _ => false)

/-- GANG with log2 of its size in `lg`: the checks, then the arrival; the gang forms when every member has arrived. -/
def execGang (lg : Nat) (s : State) : Out1 :=
  let n := 2 ^ lg
  .next (
    if lg = 0 ∨ 6 < lg then s.illegal
    else s.closingAll fun s1 =>
      if s1.cur.wait = .gang n then s1
      else if s1.cc.gangBusy s1.curSlot then s1.illegal
      else if s1.gangClash s1.curH n then s1.illegal
      else if (s1.liveIn (gangRange s1.curH n)).any fun m => !s1.member s1.gangPart m then s1.perm 0
      else s1.onCur fun t => { t with wait := .gang n })

/-- SPLIT: the leader dissolves its gang; a relayed SPLIT makes a follower independent; in no gang, nothing. -/
def execSplit (s : State) : Out1 :=
  .next (s.closingAll fun s1 =>
    match s1.cc.gang with
    | some g => if g.slot = s1.curSlot then ((s1.gangOver s1.curH s1.curSlot).retire 4).onCC Core.leaveGang else s1.retire 4
    | none => s1.retire 4)

/-! ### Halting and spawning (R145, R146) -/

/-- HALT and HALT.K once the thread's side-log entries are done (R174). In a trap handler the windows that the trap saved are
discarded (R146). -/
def State.halt (s : State) (keep : Option (Nat × Nat)) : State :=
  s.closingAll fun s1 =>
    if s1.slogPending s1.curH s1.curSlot then s1
    else if s1.cc.haltEx s1.curSlot then s1.kfault fCLOCKEX 0
    else ((s1.abandon s1.curH s1.curSlot).haltAt s1.curH s1.curSlot keep Core.tick).onCur fun t => { t with iss := true }

/-- HALT. -/
def execHalt (s : State) : Out1 := .next (s.halt none)

/-- The successor that HALT.K names: local queue and entry; none where bits 63:44 are not 0. -/
def keepOf (x : Word) : Option (Nat × Nat) := if wbits x 63 44 = 0 then some (wbits x 43 32, wbits x 31 0) else none

/-- HALT.K. -/
def execHaltK (a : Nat) (s : State) : Out1 := .next (s.closingAll fun s1 => s1.halt (keepOf (s1.g a)))

/-- A thread spawned on slot `k` of the issuing thread's core. -/
def State.spawnOn (s : State) (k : Nat) (pc x : Word) : State :=
  let asid := s.cur.asid
  match s.cc.share with
  | some sh => s.onThr s.curH k fun t =>
      { (t.started pc .spawned).writeG 8 x with wbsp := sh.stack k, asid := asid, limit := sh.limit s.schedTlim }
  | none => s.onThr s.curH k fun t => { (t.started pc .none).writeG 8 x with asid := asid }

/-- SPAWN. -/
def execSpawn (d a b : Nat) (s : State) : Out1 :=
  .next (s.closingAll fun s1 =>
    let pc := s1.g a
    if pc.toNat % 4 ≠ 0 then s1.alignF pc.toNat
    else match s1.cc.freeSlot with
      | none => s1.wrNext d 4 (BitVec.allOnes 64)
      | some k => (s1.spawnOn k pc (s1.g b)).wrNext d 4 (BitVec.ofNat 64 k))

/-! ### Waiting and yielding (R399) -/

/-- WAIT: complete when a condition holds, else the thread waits from now on. -/
def execWait (d a : Nat) (s : State) : Out1 :=
  .next (
    if s.cur.openG d then s.lookahead
    else match s.cur.wait with
      | .waitSince t ctag e x past =>
        let b := s.waitBits s.curH s.curSlot t ctag x past
        if b = 0 then s else (s.wrG e (BitVec.ofNat 64 b)).retire 4
      | _ =>
        let now := s.dt (dieOf s.curH)
        let b := s.waitBits s.curH s.curSlot now s.cc.ctag (s.g a) false
        if b = 0 then s.onCur fun t => { t with wait := .waitSince now s.cc.ctag d (s.g a) false }
        else (s.wrG d (BitVec.ofNat 64 b)).retire 4)

/-- YIELD changes no state: the round robin of R135 passes over the thread. -/
def execYield (s : State) : Out1 := .next (s.retire 4)

/-! ### User traps (R397, R398) -/

/-- TRAP: cause 12 with its operand, returning to the next instruction. -/
def execTrap (a : Nat) (s : State) : Out1 :=
  .next (s.closingAll fun s1 => s1.utrapAt s1.curH s1.curSlot 12 (s1.g a) 0 (s1.cur.pc + 4) 0)

/-- BRK: cause 11, returning to the next instruction. -/
def execBrk (s : State) : Out1 :=
  .next (s.closingAll fun s1 => s1.utrapAt s1.curH s1.curSlot 11 0 0 (s1.cur.pc + 4) 0)

/-- RFT. Where the saved windows leave too little room for those that the handler has open, the oldest of these close
first (log 68). -/
def execRft (s : State) : Out1 :=
  .next (
    if s.cur.trap.act = false then s.illegal
    else if s.cur.trap.pc.getLsbD 0 then s.alignF s.cur.trap.pc.toNat
    else if s.cur.excess ≠ 0 then s.onCur fun t => { t with pend := dueFirst t.excess t.pend }
    else (s.onCur Thread.count).trapReturn)

/-! ### Invalidation (R170, R172, R400) -/

/-- Fields of INVX's control word. -/
def ixCount (w : Word) : Nat := wbits w 47 24
def ixIonly (w : Word) : Bool := w.getLsbD 18
def ixAll (w : Word) : Bool := w.getLsbD 17
def ixSt2 (w : Word) : Bool := w.getLsbD 16
def ixId (w : Word) : Nat := if ixSt2 w then wbits w 7 0 else wbits w 15 0

/-- BADARG of INVX. -/
def ixBad (a w : Word) : Bool :=
  decide (wbits w 63 48 ≠ 0 ∨ wbits w 23 19 ≠ 0 ∨ (ixAll w = false ∧ wbits a 15 0 ≠ 0) ∨
    (ixCount w = 0 ∧ ixAll w = false ∧ ixIonly w = false))

/-- Tenant of an address space (R165). -/
def State.asidTenant (s : State) (asid : Nat) : Nat := s.rdP8 (s.srf 0xB8 0 47 16 * 65536 + 16 * asid + 8)

/-- The named range holds an address of a page. -/
def ixHits (a w : Word) (lo size : Nat) : Bool := ixAll w || rangeHits a.toNat (65536 * ixCount w) (lo, size)

/-- A cached translation derives from a named entry: its stage-1 leaf, its stage-2 leaf, or a stage-2 leaf under which a
stage-1 table was read for it (R166, R170). -/
def ixNames (a w : Word) (x : Xl) : Bool :=
  if ixIonly w then false
  else if ixSt2 w then
    decide (x.tenant = ixId w ∧ ixId w ≠ 0) && (((x.ipa2, x.size2) :: x.tabs).any fun p => ixHits a w p.1 p.2)
  else decide (x.asid = ixId w) && ixHits a w x.lo1 x.size1

/-- An access in flight that may have been translated with a dropped translation, and that is not yet performed: any of the
space or tenant, since the leaf behind its translation may be larger than the page it names (DEDUCED, log 81). A request
that waits at its home for a full word is one; one held at its abutment translates again (R171). -/
def ixWaits (w : Word) (c : Acc) : Bool :=
  !ixIonly w && (match c.st with | .issued => true | .entered _ => true | .waiting => true | _ => false) &&
    (if ixSt2 w then decide (c.tenant = ixId w) else decide (c.asid = ixId w))

/-- The address spaces whose instruction-cache lines are cleared. -/
def State.ixSpace (s : State) (w : Word) (asid : Nat) : Bool :=
  if ixSt2 w ∧ ixIonly w = false then decide (s.asidTenant asid = ixId w) else decide (asid = wbits w 15 0)

/-- What INVX drops. -/
def State.ixDrop (s : State) (a w : Word) : State :=
  { s with
    xls := s.xls.filter fun (x : Xl) => !ixNames a w x
    quads := s.quads.map fun (p : Nat × Quad) =>
      (p.1, { p.2 with icache := p.2.icache.filter fun (l : ILine) => !s.ixSpace w l.asid }) }

/-- At its completion the side logs of the space or tenant are retried, and the header writes held (R175, R383). -/
def State.ixRetry (s : State) (w : Word) : State :=
  let named := fun (asid tenant : Nat) => if ixSt2 w then decide (tenant = ixId w) else decide (asid = ixId w)
  ((s.cores.filter fun (p : Nat × Core) => ((p.2.slog.take 1).any fun (e : SlogEntry) => named e.asid e.tenant) ||
    p.2.dq.any fun (d : DqEntry) => d.started && named d.asid d.tenant).map Prod.fst).foldl State.slogRetry s

/-- INVX. -/
def execInvx (d a b : Nat) (s : State) : Out1 :=
  let va := s.g a
  let w := s.g b
  .next (
    if ¬ s.kernel ∧ ¬ (ixIonly w = true ∧ wbits w 15 0 = s.asidOf s.curH s.curSlot) then s.kfault fPRIV 0
    else if s.cur.openG d then s.lookahead
    else if ixBad va w then s.wrNext d 4 2
    else match s.cur.wait with
      | .inval ids =>
        if s.accs.any fun c => ids.contains c.id && ixWaits w c then s
        else (s.ixRetry w).wrNext d 4 0
      | _ =>
        let s1 := s.ixDrop va w
        let ids := (s1.accs.filter (ixWaits w)).map fun (c : Acc) => c.id
        if ids = [] then (s1.ixRetry w).wrNext d 4 0
        else s1.onCur fun t => { t with wait := .inval ids })

/-! ### Keys and clearing (R401, R402) -/

/-- KZERO. -/
def execKzero (a : Nat) (s : State) : Out1 :=
  .next (
    if ¬ s.kernel then s.kfault fPRIV 0
    else s.fencedAll 4 fun s1 => (s1.setKey (wbits (s1.g a) 7 0) {}).retire 4)

/-- Status of LSCLR for its operand. -/
def State.lsStatus (s : State) (x : Word) : Nat :=
  let h := wbits x 12 0
  let c := s.core h
  if wbits x 63 13 ≠ 0 ∨ ¬ s.live h ∨ s.isSys h then 2
  else if c.share.isSome ∨ (List.range 4).any (fun k => decide ((c.thr k).st ≠ .free)) then 1
  else 0

/-- Positions of the quad's fused cores whose deck shares are cleared with those of core `h`, where it is the lowest member of
its partition there (R93, R101, R402). -/
def State.lsFused (s : State) (h : Nat) : List Nat :=
  let q := (List.range 4).map (h / 4 * 4 + ·)
  match s.partOf h with
  | none => []
  | some j =>
    if (q.filter (s.member j)).head? = some h then q.filter fun i => decide (s.partOf i = some j) && !s.live i else []

/-- The messages and offers at a core's channels removed; their senders may go on. -/
def State.emptyChannels (s : State) (h : Nat) : State :=
  let ids := (s.core h).leftMessages.2
  ids.foldl (fun s i => s.accepted (some { id := i }))
    (s.onCoreAt h fun c => { c with threads := c.threads.map fun (p : Nat × Thread) => (p.1, { p.2 with chans := [], offers := [] }) })

/-- What LSCLR clears. -/
def State.lsClear (s : State) (h : Nat) : State :=
  let s1 := (s.lsFused h).foldl (fun s f => s.clearRange (deckLoc (f / 4) (f % 4 * 0x20000)) 0x20000) (s.clearStores h)
  (s1.emptyChannels h).onCoreAt h fun c =>
    { c.clearRegs with ctag := 0, ctagErr := 0, permit := none, pcount := 0, retain := none }

/-- LSCLR. -/
def execLsclr (d a : Nat) (s : State) : Out1 :=
  let x := s.g a
  .next (
    if ¬ s.kernel then s.kfault fPRIV 0
    else if s.cur.openG d then s.lookahead
    else
      let st := s.lsStatus x
      if st ≠ 0 then s.wrNext d 4 (BitVec.ofNat 64 st) else (s.lsClear (wbits x 12 0)).wrNext d 4 0)

/-! ### Repair (R160, R403) -/

/-- The thread is PARKED and not saved by quiescence. -/
def Thread.repairable (t : Thread) : Bool := (match t.st with | .parked _ => true | _ => false) && !t.saved

/-- The action of SVCR. -/
def State.repair (s : State) (h k act : Nat) (pc : Word) : State :=
  match act with
  | 0 => s.resume h k
  | 1 => s.resumeAt h k pc
  | 2 => s.haltParked h k
  | _ => s.exclSet h

/-- SVCR. -/
def execSvcr (d a b : Nat) (s : State) : Out1 :=
  let x := s.g a
  let h := wbits x 12 0
  let k := wbits x 17 16
  let act := wbits x 25 24
  .next (
    if ¬ s.kernel then s.kfault fPRIV 0
    else if s.cur.openG d then s.lookahead
    else if x &&& 0xFFFFFFFFFCFCE000 ≠ 0 ∨ ¬ s.live h then s.wrNext d 4 2
    else if act = 1 ∧ (s.g b).getLsbD 0 = true then s.alignF (s.g b).toNat
    else if ¬ (s.thr h k).repairable then s.wrNext d 4 1
    else s.fencedAll 4 fun s1 => (s1.repair h k act (s1.g b)).wrNext d 4 0)

/-! ### Frame transactions (R404) -/

/-- A transaction of the accelerator kernel between its two fences: its result once every revocation has ended. -/
def State.frameTx (s : State) (t : Tx) (d a b : Nat) : State :=
  if ¬ s.kernel then s.kfault fPRIV 0
  else if s.cur.openG d then s.lookahead
  else match s.cur.wait with
    | .frameTx id res _ _ =>
      if s.revokes.any fun r => decide (r.id = id) then s else s.wrNext d 4 res
    | _ => s.fencedAll 4 fun s1 =>
      let id := s1.nextId
      if s1.txWaits t (s1.g a) then s1
      else match s1.transact t 1 (s1.g a) (s1.g b) (fun _ => .thread s1.curH s1.curSlot) with
      | (s2, res, true) => s2.onCur fun t => { t with wait := .frameTx id res 0 0 }
      | (s2, res, false) => s2.wrNext d 4 res

/-- FOFFER. -/
def execFoffer (d a b : Nat) (s : State) : Out1 := .next (s.frameTx .offer d a b)
/-- FWITHDRAW. -/
def execFwithdraw (d a b : Nat) (s : State) : Out1 := .next (s.frameTx .withdraw d a b)
/-- FACCEPT. -/
def execFaccept (d a b : Nat) (s : State) : Out1 := .next (s.frameTx .accept d a b)
/-- FLEND. -/
def execFlend (d a b : Nat) (s : State) : Out1 := .next (s.frameTx .lend d a b)
/-- FRECALL. -/
def execFrecall (d a b : Nat) (s : State) : Out1 := .next (s.frameTx .recall d a b)
/-- FRETURN. -/
def execFreturn (d a b : Nat) (s : State) : Out1 := .next (s.frameTx .ret d a b)

/-- FQUERY: the result and the entry's doublewords in three registers. -/
def execFquery (d a : Nat) (s : State) : Out1 :=
  .next (
    if 29 < d then s.illegal
    else if ¬ s.kernel then s.kfault fPRIV 0
    else if s.cur.openG d ∨ s.cur.openG (d + 1) ∨ s.cur.openG (d + 2) then s.lookahead
    else s.fencedAll 4 fun s1 =>
      let (res, e0, e1) := s1.query (s1.g a) 0
      (((s1.wrG d res).wrG (d + 1) e0).wrG (d + 2) e1).retire 4)

/-! ### Queues and fence counters (R405) -/

/-- The queue that an operand names: a local index at user level, a global number at kernel level (R90, R391). -/
def State.queueOf (s : State) (x : Word) : Option Nat :=
  if s.kernel then (if x.toNat < 4096 then some x.toNat else none)
  else
    let t := s.tenantOf s.curH
    if x.toNat < s.tenQn t then some (s.tenQbase t + x.toNat) else none

/-- The fence counter that an operand names. -/
def State.counterOf (s : State) (x : Word) : Option Nat :=
  if s.kernel then (if x.toNat < 65536 then some x.toNat else none) else s.fcOf (s.tenantOf s.curH) x.toNat

/-- LAUNCH. -/
def execLaunch (d a b : Nat) (s : State) : Out1 :=
  .next (
    if s.cur.openG d then s.lookahead
    else match s.queueOf (s.g a) with
      | none => s.perm 0
      | some q => s.fencedAll 4 fun s1 =>
        let (s2, st) := s1.doorbell q (wbits (s1.g b) 31 0)
        s2.wrNext d 4 (BitVec.ofNat 64 st))

/-- FCINC. Its release waits for an earlier acquire whose clock the counter has to carry (log 84). -/
def execFcinc (a b : Nat) (s : State) : Out1 :=
  .next (match s.counterOf (s.g a) with
    | none => s.perm 0
    | some i =>
      if s.cc.clockEx then s.kfault fCLOCKEX 0
      else if s.relWaits then s
      else s.fencedAll 4 fun s1 => (((s1.onCC Core.tick).fcAdd i (s1.g b) (s1.cc.sclk + 1)).retire 4))

/-- FCWAIT. -/
def execFcwait (d a b : Nat) (s : State) : Out1 :=
  .next (
    if s.cur.openG d then s.lookahead
    else match s.counterOf (s.g a) with
      | none => s.perm 0
      | some i =>
        let v := s.srv 0xA8 i
        if v.toNat < (s.g b).toNat then s
        else (s.onCC fun c => c.acquire (s.fcClk.val i 0)).wrNext d 4 v)

/-- FCREAD. -/
def execFcread (d a : Nat) (s : State) : Out1 :=
  .next (
    if s.cur.openG d then s.lookahead
    else match s.counterOf (s.g a) with
      | none => s.perm 0
      | some i => s.wrNext d 4 (s.srv 0xA8 i))

end Sys2Proof.Machine
end

