-- ==== Sys2Proof/Machine/Dispatch.lean ====
section
/-! DEFINITION. One arm for each constructor of `Instr`: the meaning of its instruction or step. -/

namespace Sys2Proof.Machine

def exec (i : Instr) (s : State) : Host.Outcome State Fault Refusal :=
  match i with
  | .add d a b => Sys2Proof.Machine.execAdd d a b s
  | .sub d a b => Sys2Proof.Machine.execSub d a b s
  | .mul d a b => Sys2Proof.Machine.execMul d a b s
  | .mulh d a b => Sys2Proof.Machine.execMulh d a b s
  | .mulhu d a b => Sys2Proof.Machine.execMulhu d a b s
  | .div d a b => Sys2Proof.Machine.execDiv d a b s
  | .divu d a b => Sys2Proof.Machine.execDivu d a b s
  | .rem d a b => Sys2Proof.Machine.execRem d a b s
  | .remu d a b => Sys2Proof.Machine.execRemu d a b s
  | .and d a b => Sys2Proof.Machine.execAnd d a b s
  | .or d a b => Sys2Proof.Machine.execOr d a b s
  | .xor d a b => Sys2Proof.Machine.execXor d a b s
  | .andn d a b => Sys2Proof.Machine.execAndn d a b s
  | .shl d a b => Sys2Proof.Machine.execShl d a b s
  | .shr d a b => Sys2Proof.Machine.execShr d a b s
  | .sar d a b => Sys2Proof.Machine.execSar d a b s
  | .rol d a b => Sys2Proof.Machine.execRol d a b s
  | .clz d a => Sys2Proof.Machine.execClz d a s
  | .ctz d a => Sys2Proof.Machine.execCtz d a s
  | .popc d a => Sys2Proof.Machine.execPopc d a s
  | .min d a b => Sys2Proof.Machine.execMin d a b s
  | .max d a b => Sys2Proof.Machine.execMax d a b s
  | .minu d a b => Sys2Proof.Machine.execMinu d a b s
  | .maxu d a b => Sys2Proof.Machine.execMaxu d a b s
  | .slt d a b => Sys2Proof.Machine.execSlt d a b s
  | .sltu d a b => Sys2Proof.Machine.execSltu d a b s
  | .seq d a b => Sys2Proof.Machine.execSeq d a b s
  | .addi d a imm => Sys2Proof.Machine.execAddi d a imm s
  | .andi d a imm => Sys2Proof.Machine.execAndi d a imm s
  | .ori d a imm => Sys2Proof.Machine.execOri d a imm s
  | .xori d a imm => Sys2Proof.Machine.execXori d a imm s
  | .slti d a imm => Sys2Proof.Machine.execSlti d a imm s
  | .shli d a n => Sys2Proof.Machine.execShli d a n s
  | .shri d a n => Sys2Proof.Machine.execShri d a n s
  | .sari d a n => Sys2Proof.Machine.execSari d a n s
  | .roli d a n => Sys2Proof.Machine.execRoli d a n s
  | .immh d imm => Sys2Proof.Machine.execImmh d imm s
  | .lea d a b sz => Sys2Proof.Machine.execLea d a b sz s
  | .bfx d a b => Sys2Proof.Machine.execBfx d a b s
  | .bfxSx d a b => Sys2Proof.Machine.execBfxSx d a b s
  | .bfi d a b => Sys2Proof.Machine.execBfi d a b s
  | .clmul d a b => Sys2Proof.Machine.execClmul d a b s
  | .clmulh d a b => Sys2Proof.Machine.execClmulh d a b s
  | .bcc a b cond off => Sys2Proof.Machine.execBcc a b cond off s
  | .bz a cond off => Sys2Proof.Machine.execBz a cond off s
  | .j off => Sys2Proof.Machine.execJ off s
  | .call k off => Sys2Proof.Machine.execCall k off s
  | .pad lab => Sys2Proof.Machine.execPad lab s
  | .jtab d a b => Sys2Proof.Machine.execJtab d a b s
  | .callt d a b k => Sys2Proof.Machine.execCallt d a b k s
  | .ret => Sys2Proof.Machine.execRet s
  | .loop a imm => Sys2Proof.Machine.execLoop a imm s
  | .rep nm1 mask => Sys2Proof.Machine.execRep nm1 mask s
  | .spillw => Sys2Proof.Machine.execSpillw s
  | .fillw => Sys2Proof.Machine.execFillw s
  | .ld d base sz off la => Sys2Proof.Machine.execLd d base sz off la s
  | .ldu d base sz off la => Sys2Proof.Machine.execLdu d base sz off la s
  | .st d base sz off => Sys2Proof.Machine.execSt d base sz off s
  | .ldx d a sz la => Sys2Proof.Machine.execLdx d a sz la s
  | .stx d a sz => Sys2Proof.Machine.execStx d a sz s
  | .ldacq d a sc sz la => Sys2Proof.Machine.execLdacq d a sc sz la s
  | .strel d a sc sz => Sys2Proof.Machine.execStrel d a sc sz s
  | .ldf d a sc sz la => Sys2Proof.Machine.execLdf d a sc sz la s
  | .ldfE d a sc sz la => Sys2Proof.Machine.execLdfE d a sc sz la s
  | .stf d a sc sz => Sys2Proof.Machine.execStf d a sc sz s
  | .amoadd d a sc ord sz la => Sys2Proof.Machine.execAmoadd d a sc ord sz la s
  | .amoand d a sc ord sz la => Sys2Proof.Machine.execAmoand d a sc ord sz la s
  | .amoor d a sc ord sz la => Sys2Proof.Machine.execAmoor d a sc ord sz la s
  | .amoxor d a sc ord sz la => Sys2Proof.Machine.execAmoxor d a sc ord sz la s
  | .amomin d a sc ord sz la => Sys2Proof.Machine.execAmomin d a sc ord sz la s
  | .amomax d a sc ord sz la => Sys2Proof.Machine.execAmomax d a sc ord sz la s
  | .amominu d a sc ord sz la => Sys2Proof.Machine.execAmominu d a sc ord sz la s
  | .amomaxu d a sc ord sz la => Sys2Proof.Machine.execAmomaxu d a sc ord sz la s
  | .amoswap d a sc ord sz la => Sys2Proof.Machine.execAmoswap d a sc ord sz la s
  | .amocas d a sc ord sz la => Sys2Proof.Machine.execAmocas d a sc ord sz la s
  | .amofadd d a sc ord sz la => Sys2Proof.Machine.execAmofadd d a sc ord sz la s
  | .amoaddNr d a sc ord sz => Sys2Proof.Machine.execAmoaddNr d a sc ord sz s
  | .amoandNr d a sc ord sz => Sys2Proof.Machine.execAmoandNr d a sc ord sz s
  | .amoorNr d a sc ord sz => Sys2Proof.Machine.execAmoorNr d a sc ord sz s
  | .amoxorNr d a sc ord sz => Sys2Proof.Machine.execAmoxorNr d a sc ord sz s
  | .amominNr d a sc ord sz => Sys2Proof.Machine.execAmominNr d a sc ord sz s
  | .amomaxNr d a sc ord sz => Sys2Proof.Machine.execAmomaxNr d a sc ord sz s
  | .amominuNr d a sc ord sz => Sys2Proof.Machine.execAmominuNr d a sc ord sz s
  | .amomaxuNr d a sc ord sz => Sys2Proof.Machine.execAmomaxuNr d a sc ord sz s
  | .amoswapNr d a sc ord sz => Sys2Proof.Machine.execAmoswapNr d a sc ord sz s
  | .amofaddNr d a sc ord sz => Sys2Proof.Machine.execAmofaddNr d a sc ord sz s
  | .fence sc => Sys2Proof.Machine.execFence sc s
  | .fenceLd sc => Sys2Proof.Machine.execFenceLd sc s
  | .fenceSl sc => Sys2Proof.Machine.execFenceSl sc s
  | .fenceSt sc => Sys2Proof.Machine.execFenceSt sc s
  | .bar lv => Sys2Proof.Machine.execBar lv s
  | .barGen lv => Sys2Proof.Machine.execBarGen lv s
  | .bara lv => Sys2Proof.Machine.execBara lv s
  | .barw lv => Sys2Proof.Machine.execBarw lv s
  | .sclk d => Sys2Proof.Machine.execSclk d s
  | .sclkInc d => Sys2Proof.Machine.execSclkInc d s
  | .send d a => Sys2Proof.Machine.execSend d a s
  | .recv d ch la => Sys2Proof.Machine.execRecv d ch la s
  | .recvq d ch => Sys2Proof.Machine.execRecvq d ch s
  | .pmrg d a b => Sys2Proof.Machine.execPmrg d a b s
  | .cpy a => Sys2Proof.Machine.execCpy a s
  | .cpym a => Sys2Proof.Machine.execCpym a s
  | .permit d a b => Sys2Proof.Machine.execPermit d a b s
  | .ctwait d a => Sys2Proof.Machine.execCtwait d a s
  | .ctwaitAll d a => Sys2Proof.Machine.execCtwaitAll d a s
  | .ctff d a => Sys2Proof.Machine.execCtff d a s
  | .ctclr a => Sys2Proof.Machine.execCtclr a s
  | .gang n => Sys2Proof.Machine.execGang n s
  | .split => Sys2Proof.Machine.execSplit s
  | .halt => Sys2Proof.Machine.execHalt s
  | .haltK a => Sys2Proof.Machine.execHaltK a s
  | .wait d a => Sys2Proof.Machine.execWait d a s
  | .yield => Sys2Proof.Machine.execYield s
  | .spawn d a b => Sys2Proof.Machine.execSpawn d a b s
  | .mfs d a c num => Sys2Proof.Machine.execMfs d a c num s
  | .mts d a c num => Sys2Proof.Machine.execMts d a c num s
  | .trap a => Sys2Proof.Machine.execTrap a s
  | .rft => Sys2Proof.Machine.execRft s
  | .brk => Sys2Proof.Machine.execBrk s
  | .invx d a b => Sys2Proof.Machine.execInvx d a b s
  | .kzero a => Sys2Proof.Machine.execKzero a s
  | .lsclr d a => Sys2Proof.Machine.execLsclr d a s
  | .svcr d a b => Sys2Proof.Machine.execSvcr d a b s
  | .foffer d a b => Sys2Proof.Machine.execFoffer d a b s
  | .fwithdraw d a b => Sys2Proof.Machine.execFwithdraw d a b s
  | .faccept d a b => Sys2Proof.Machine.execFaccept d a b s
  | .flend d a b => Sys2Proof.Machine.execFlend d a b s
  | .frecall d a b => Sys2Proof.Machine.execFrecall d a b s
  | .freturn d a b => Sys2Proof.Machine.execFreturn d a b s
  | .fquery d a => Sys2Proof.Machine.execFquery d a s
  | .launch d a b => Sys2Proof.Machine.execLaunch d a b s
  | .fcinc a b => Sys2Proof.Machine.execFcinc a b s
  | .fcwait d a b => Sys2Proof.Machine.execFcwait d a b s
  | .fcread d a => Sys2Proof.Machine.execFcread d a s
  | .vmov16 d sz g => Sys2Proof.Machine.execVmov16 d sz g s
  | .vadd16 d sz g => Sys2Proof.Machine.execVadd16 d sz g s
  | .vsub16 d sz g => Sys2Proof.Machine.execVsub16 d sz g s
  | .vmul16 d sz g => Sys2Proof.Machine.execVmul16 d sz g s
  | .vand16 d sz g => Sys2Proof.Machine.execVand16 d sz g s
  | .vor16 d sz g => Sys2Proof.Machine.execVor16 d sz g s
  | .vxor16 d sz g => Sys2Proof.Machine.execVxor16 d sz g s
  | .vmin16 d sz g => Sys2Proof.Machine.execVmin16 d sz g s
  | .vmax16 d sz g => Sys2Proof.Machine.execVmax16 d sz g s
  | .vshl16 d sz g => Sys2Proof.Machine.execVshl16 d sz g s
  | .vsar16 d sz g => Sys2Proof.Machine.execVsar16 d sz g s
  | .vfadd16 d sz g => Sys2Proof.Machine.execVfadd16 d sz g s
  | .vfsub16 d sz g => Sys2Proof.Machine.execVfsub16 d sz g s
  | .vfmul16 d sz g => Sys2Proof.Machine.execVfmul16 d sz g s
  | .vfmax16 d sz g => Sys2Proof.Machine.execVfmax16 d sz g s
  | .vfmin16 d sz g => Sys2Proof.Machine.execVfmin16 d sz g s
  | .vmov d x b p z t => Sys2Proof.Machine.execVmov d x b p z t s
  | .vadd d a b p z t => Sys2Proof.Machine.execVadd d a b p z t s
  | .vsub d a b p z t => Sys2Proof.Machine.execVsub d a b p z t s
  | .vmul d a b p z t => Sys2Proof.Machine.execVmul d a b p z t s
  | .vmulh d a b p z t => Sys2Proof.Machine.execVmulh d a b p z t s
  | .vmulhU d a b p z t => Sys2Proof.Machine.execVmulhU d a b p z t s
  | .vmin d a b p z t => Sys2Proof.Machine.execVmin d a b p z t s
  | .vmax d a b p z t => Sys2Proof.Machine.execVmax d a b p z t s
  | .vminU d a b p z t => Sys2Proof.Machine.execVminU d a b p z t s
  | .vmaxU d a b p z t => Sys2Proof.Machine.execVmaxU d a b p z t s
  | .vaddSat d a b p z t => Sys2Proof.Machine.execVaddSat d a b p z t s
  | .vsubSat d a b p z t => Sys2Proof.Machine.execVsubSat d a b p z t s
  | .vand d a b p z t => Sys2Proof.Machine.execVand d a b p z t s
  | .vor d a b p z t => Sys2Proof.Machine.execVor d a b p z t s
  | .vxor d a b p z t => Sys2Proof.Machine.execVxor d a b p z t s
  | .vshl d a b p z t => Sys2Proof.Machine.execVshl d a b p z t s
  | .vshr d a b p z t => Sys2Proof.Machine.execVshr d a b p z t s
  | .vsar d a b p z t => Sys2Proof.Machine.execVsar d a b p z t s
  | .vabs d a p z t => Sys2Proof.Machine.execVabs d a p z t s
  | .vabsSat d a p z t => Sys2Proof.Machine.execVabsSat d a p z t s
  | .vcmpEq d a b p z t => Sys2Proof.Machine.execVcmpEq d a b p z t s
  | .vcmpNe d a b p z t => Sys2Proof.Machine.execVcmpNe d a b p z t s
  | .vcmpLt d a b p z t => Sys2Proof.Machine.execVcmpLt d a b p z t s
  | .vcmpGe d a b p z t => Sys2Proof.Machine.execVcmpGe d a b p z t s
  | .vcmpLtu d a b p z t => Sys2Proof.Machine.execVcmpLtu d a b p z t s
  | .vcmpGeu d a b p z t => Sys2Proof.Machine.execVcmpGeu d a b p z t s
  | .vsel d a b p t => Sys2Proof.Machine.execVsel d a b p t s
  | .pand d a b => Sys2Proof.Machine.execPand d a b s
  | .por d a b => Sys2Proof.Machine.execPor d a b s
  | .pxor d a b => Sys2Proof.Machine.execPxor d a b s
  | .pnot d a => Sys2Proof.Machine.execPnot d a s
  | .pfirst d a t => Sys2Proof.Machine.execPfirst d a t s
  | .pcnt d a t => Sys2Proof.Machine.execPcnt d a t s
  | .vqlen d => Sys2Proof.Machine.execVqlen d s
  | .vbound d a b t => Sys2Proof.Machine.execVbound d a b t s
  | .vbcast d a p z t => Sys2Proof.Machine.execVbcast d a p z t s
  | .vext d a b t => Sys2Proof.Machine.execVext d a b t s
  | .vextSx d a b t => Sys2Proof.Machine.execVextSx d a b t s
  | .vins d a b t => Sys2Proof.Machine.execVins d a b t s
  | .vperm d a b p z t => Sys2Proof.Machine.execVperm d a b p z t s
  | .vred d a p t op => Sys2Proof.Machine.execVred d a p t op s
  | .vscan d a p z t op => Sys2Proof.Machine.execVscan d a p z t op s
  | .vld d a p z t la => Sys2Proof.Machine.execVld d a p z t la s
  | .vlds d a p z t la => Sys2Proof.Machine.execVlds d a p z t la s
  | .vgath d a b p z t la => Sys2Proof.Machine.execVgath d a b p z t la s
  | .vst d a p t => Sys2Proof.Machine.execVst d a p t s
  | .vsts d a b p t => Sys2Proof.Machine.execVsts d a b p t s
  | .vscat d a b p t => Sys2Proof.Machine.execVscat d a b p t s
  | .vfadd d a b p z t => Sys2Proof.Machine.execVfadd d a b p z t s
  | .vfsub d a b p z t => Sys2Proof.Machine.execVfsub d a b p z t s
  | .vfmul d a b p z t => Sys2Proof.Machine.execVfmul d a b p z t s
  | .vfmin d a b p z t => Sys2Proof.Machine.execVfmin d a b p z t s
  | .vfmax d a b p z t => Sys2Proof.Machine.execVfmax d a b p z t s
  | .vfcmpEq d a b p z t => Sys2Proof.Machine.execVfcmpEq d a b p z t s
  | .vfcmpNe d a b p z t => Sys2Proof.Machine.execVfcmpNe d a b p z t s
  | .vfcmpLt d a b p z t => Sys2Proof.Machine.execVfcmpLt d a b p z t s
  | .vfcmpLe d a b p z t => Sys2Proof.Machine.execVfcmpLe d a b p z t s
  | .vfcmpGt d a b p z t => Sys2Proof.Machine.execVfcmpGt d a b p z t s
  | .vfcmpGe d a b p z t => Sys2Proof.Machine.execVfcmpGe d a b p z t s
  | .vfcmpUn d a b p z t => Sys2Proof.Machine.execVfcmpUn d a b p z t s
  | .vfma d a b p z t np na => Sys2Proof.Machine.execVfma d a b p z t np na s
  | .vcvt d a src sat p z mode dst => Sys2Proof.Machine.execVcvt d a src sat p z mode dst s
  | .vdot d a b fmt sat la => Sys2Proof.Machine.execVdot d a b fmt sat la s
  | .vclmul d a b hi la => Sys2Proof.Machine.execVclmul d a b hi la s
  | .vsfn d a fn p z t la => Sys2Proof.Machine.execVsfn d a fn p z t la s
  | .tmma acc dA dB fA fB la => Sys2Proof.Machine.execTmma acc dA dB fA fB la s
  | .tmmaSat acc dA dB fA fB la => Sys2Proof.Machine.execTmmaSat acc dA dB fA fB la s
  | .tmmac acc dA dB fA fB la => Sys2Proof.Machine.execTmmac acc dA dB fA fB la s
  | .tmmacSat acc dA dB fA fB la => Sys2Proof.Machine.execTmmacSat acc dA dB fA fB la s
  | .tmmx acc dA dB fA fB la => Sys2Proof.Machine.execTmmx acc dA dB fA fB la s
  | .tadd acc dA fA la => Sys2Proof.Machine.execTadd acc dA fA la s
  | .tmul acc dA fA la => Sys2Proof.Machine.execTmul acc dA fA la s
  | .tact acc fn la => Sys2Proof.Machine.execTact acc fn la s
  | .tred acc fn la => Sys2Proof.Machine.execTred acc fn la s
  | .ttrn acc la => Sys2Proof.Machine.execTtrn acc la s
  | .tcvt acc ty mode la => Sys2Proof.Machine.execTcvt acc ty mode la s
  | .tzero acc ty la => Sys2Proof.Machine.execTzero acc ty la s
  | .tst acc dA sat mode la => Sys2Proof.Machine.execTst acc dA sat mode la s
  | .tdesc dA ra la => Sys2Proof.Machine.execTdesc dA ra la s
  | .tdrd dA ra la => Sys2Proof.Machine.execTdrd dA ra la s
  | .tuprog ra la => Sys2Proof.Machine.execTuprog ra la s
  | .trec => Sys2Proof.Machine.execTrec s
  | .trece => Sys2Proof.Machine.execTrece s
  | .tmark ra => Sys2Proof.Machine.execTmark ra s
  | .trev la => Sys2Proof.Machine.execTrev la s
  | .tlogq ra => Sys2Proof.Machine.execTlogq ra s
  | .coldReset => Sys2Proof.Machine.execColdReset s
  | .warmReset => Sys2Proof.Machine.execWarmReset s
  | .clkLoad => Sys2Proof.Machine.execClkLoad s
  | .passengerRelock => Sys2Proof.Machine.execPassengerRelock s
  | .ptpExchange => Sys2Proof.Machine.execPtpExchange s
  | .ptpExchangeFail => Sys2Proof.Machine.execPtpExchangeFail s
  | .dtimeWrap => Sys2Proof.Machine.execDtimeWrap s
  | .timeRoleWrite => Sys2Proof.Machine.execTimeRoleWrite s
  | .fenceTokenReturn => Sys2Proof.Machine.execFenceTokenReturn s
  | .parapetThrottle => Sys2Proof.Machine.execParapetThrottle s
  | .temperatureTrip => Sys2Proof.Machine.execTemperatureTrip s
  | .parCapWrite => Sys2Proof.Machine.execParCapWrite s
  | .spdmGetVersion => Sys2Proof.Machine.execSpdmGetVersion s
  | .spdmGetCapabilities => Sys2Proof.Machine.execSpdmGetCapabilities s
  | .spdmNegotiateAlgorithms => Sys2Proof.Machine.execSpdmNegotiateAlgorithms s
  | .spdmGetDigests => Sys2Proof.Machine.execSpdmGetDigests s
  | .spdmGetCertificate => Sys2Proof.Machine.execSpdmGetCertificate s
  | .spdmChallenge => Sys2Proof.Machine.execSpdmChallenge s
  | .spdmGetMeasurements => Sys2Proof.Machine.execSpdmGetMeasurements s
  | .spdmKeyExchange => Sys2Proof.Machine.execSpdmKeyExchange s
  | .fwRecoveryImage => Sys2Proof.Machine.execFwRecoveryImage s
  | .linkFlitReceive => Sys2Proof.Machine.execLinkFlitReceive s
  | .flitReplay => Sys2Proof.Machine.execFlitReplay s
  | .linkDown => Sys2Proof.Machine.execLinkDown s
  | .linkTrainingDone => Sys2Proof.Machine.execLinkTrainingDone s
  | .portEnable => Sys2Proof.Machine.execPortEnable s
  | .portDisable => Sys2Proof.Machine.execPortDisable s
  | .portRetrainTimer => Sys2Proof.Machine.execPortRetrainTimer s
  | .fabNodeWrite => Sys2Proof.Machine.execFabNodeWrite s
  | .remoteAccessInbound => Sys2Proof.Machine.execRemoteAccessInbound s
  | .collQbWrite => Sys2Proof.Machine.execCollQbWrite s
  | .collAllreduce => Sys2Proof.Machine.execCollAllreduce s
  | .collPut => Sys2Proof.Machine.execCollPut s
  | .allreduceComplete => Sys2Proof.Machine.execAllreduceComplete s
  | .collTimeout => Sys2Proof.Machine.execCollTimeout s
  | .collMemberLost => Sys2Proof.Machine.execCollMemberLost s
  | .putReceive => Sys2Proof.Machine.execPutReceive s
  | .ethFrameReceive => Sys2Proof.Machine.execEthFrameReceive s
  | .ingTailReread => Sys2Proof.Machine.execIngTailReread s
  | .pfcXoffResend => Sys2Proof.Machine.execPfcXoffResend s
  | .ingRuleLoad => Sys2Proof.Machine.execIngRuleLoad s
  | .ingRctlWrite => Sys2Proof.Machine.execIngRctlWrite s
  | .poolHclr => Sys2Proof.Machine.execPoolHclr s
  | .poolFailure => Sys2Proof.Machine.execPoolFailure s
  | .hostCxlMemAccess => Sys2Proof.Machine.execHostCxlMemAccess s
  | .hcwEnable => Sys2Proof.Machine.execHcwEnable s
  | .hcwDisable => Sys2Proof.Machine.execHcwDisable s
  | .hcwNop => Sys2Proof.Machine.execHcwNop s
  | .hcwBadop => Sys2Proof.Machine.execHcwBadop s
  | .hcwFoffer => Sys2Proof.Machine.execHcwFoffer s
  | .hcwFwithdraw => Sys2Proof.Machine.execHcwFwithdraw s
  | .hcwFaccept => Sys2Proof.Machine.execHcwFaccept s
  | .hcwFlend => Sys2Proof.Machine.execHcwFlend s
  | .hcwFrecall => Sys2Proof.Machine.execHcwFrecall s
  | .hcwFreturn => Sys2Proof.Machine.execHcwFreturn s
  | .hcwFquery => Sys2Proof.Machine.execHcwFquery s
  | .hcwClkplan => Sys2Proof.Machine.execHcwClkplan s
  | .hcwFwchunk => Sys2Proof.Machine.execHcwFwchunk s
  | .hcwVfreset => Sys2Proof.Machine.execHcwVfreset s
  | .hcwKboot => Sys2Proof.Machine.execHcwKboot s
  | .hcwEvreplay => Sys2Proof.Machine.execHcwEvreplay s
  | .hcwCmdstat => Sys2Proof.Machine.execHcwCmdstat s
  | .hcwAmsg => Sys2Proof.Machine.execHcwAmsg s
  | .hcwEciWrite => Sys2Proof.Machine.execHcwEciWrite s
  | .revocationAck => Sys2Proof.Machine.execRevocationAck s
  | .recallDeadlineExpiry => Sys2Proof.Machine.execRecallDeadlineExpiry s
  | .frameRetire => Sys2Proof.Machine.execFrameRetire s
  | .recordRebuild => Sys2Proof.Machine.execRecordRebuild s
  | .pierAccess => Sys2Proof.Machine.execPierAccess s
  | .pierRowRepair => Sys2Proof.Machine.execPierRowRepair s
  | .hotRowWindow => Sys2Proof.Machine.execHotRowWindow s
  | .refreshWindowEnd => Sys2Proof.Machine.execRefreshWindowEnd s
  | .frecAevconWrite => Sys2Proof.Machine.execFrecAevconWrite s
  | .frecAevConfigWrite => Sys2Proof.Machine.execFrecAevConfigWrite s
  | .tenCfgEnable => Sys2Proof.Machine.execTenCfgEnable s
  | .tenCfgDisable => Sys2Proof.Machine.execTenCfgDisable s
  | .vfFlr => Sys2Proof.Machine.execVfFlr s
  | .vfResetComplete => Sys2Proof.Machine.execVfResetComplete s
  | .partEnable => Sys2Proof.Machine.execPartEnable s
  | .partResize => Sys2Proof.Machine.execPartResize s
  | .partResizeCommit => Sys2Proof.Machine.execPartResizeCommit s
  | .partDisable => Sys2Proof.Machine.execPartDisable s
  | .partExclSet => Sys2Proof.Machine.execPartExclSet s
  | .partExclDone => Sys2Proof.Machine.execPartExclDone s
  | .partExclClear => Sys2Proof.Machine.execPartExclClear s
  | .keyLoad => Sys2Proof.Machine.execKeyLoad s
  | .keyGen => Sys2Proof.Machine.execKeyGen s
  | .scrubStart => Sys2Proof.Machine.execScrubStart s
  | .scrubMarkEntry => Sys2Proof.Machine.execScrubMarkEntry s
  | .scrubFrameCommit => Sys2Proof.Machine.execScrubFrameCommit s
  | .scrubResume => Sys2Proof.Machine.execScrubResume s
  | .schedQueueEnable => Sys2Proof.Machine.execSchedQueueEnable s
  | .schedQueueDisable => Sys2Proof.Machine.execSchedQueueDisable s
  | .vfDoorbell => Sys2Proof.Machine.execVfDoorbell s
  | .schedDequeue => Sys2Proof.Machine.execSchedDequeue s
  | .schedDealAccept => Sys2Proof.Machine.execSchedDealAccept s
  | .schedLeadershipMove => Sys2Proof.Machine.execSchedLeadershipMove s
  | .schedDrainWrite => Sys2Proof.Machine.execSchedDrainWrite s
  | .shareDispatch => Sys2Proof.Machine.execShareDispatch s
  | .launchBarrierComplete => Sys2Proof.Machine.execLaunchBarrierComplete s
  | .shareEnd => Sys2Proof.Machine.execShareEnd s
  | .launchComplete => Sys2Proof.Machine.execLaunchComplete s
  | .watchdogExpiry => Sys2Proof.Machine.execWatchdogExpiry s
  | .schedEnd => Sys2Proof.Machine.execSchedEnd s
  | .sliceEnd => Sys2Proof.Machine.execSliceEnd s
  | .quiesceComplete => Sys2Proof.Machine.execQuiesceComplete s
  | .shareRestore => Sys2Proof.Machine.execShareRestore s
  | .displacedShareSwitch => Sys2Proof.Machine.execDisplacedShareSwitch s
  | .retentionExpiry => Sys2Proof.Machine.execRetentionExpiry s
  | .fcValWrite => Sys2Proof.Machine.execFcValWrite s
  | .longLatencyResult => Sys2Proof.Machine.execLongLatencyResult s
  | .spanEntryStart => Sys2Proof.Machine.execSpanEntryStart s
  | .gangForm => Sys2Proof.Machine.execGangForm s
  | .faultRecordDeliver => Sys2Proof.Machine.execFaultRecordDeliver s
  | .svcCoreWrite => Sys2Proof.Machine.execSvcCoreWrite s
  | .interruptDelivery => Sys2Proof.Machine.execInterruptDelivery s
  | .sysIpiWrite => Sys2Proof.Machine.execSysIpiWrite s
  | .sysStartWrite => Sys2Proof.Machine.execSysStartWrite s
  | .bootThreadStart => Sys2Proof.Machine.execBootThreadStart s
  | .sideLogRetry => Sys2Proof.Machine.execSideLogRetry s
  | .heldStoreEnter => Sys2Proof.Machine.execHeldStoreEnter s
  | .slogRetry => Sys2Proof.Machine.execSlogRetry s
  | .slogDiscard => Sys2Proof.Machine.execSlogDiscard s
  | .migStart => Sys2Proof.Machine.execMigStart s
  | .migDrainDone => Sys2Proof.Machine.execMigDrainDone s
  | .migCopyDone => Sys2Proof.Machine.execMigCopyDone s
  | .migCommit => Sys2Proof.Machine.execMigCommit s
  | .migAbort => Sys2Proof.Machine.execMigAbort s
  | .migScrubDone => Sys2Proof.Machine.execMigScrubDone s
  | .placeMapWrite => Sys2Proof.Machine.execPlaceMapWrite s
  | .hotClr => Sys2Proof.Machine.execHotClr s
  | .raceSweepDone => Sys2Proof.Machine.execRaceSweepDone s
  | .ldfResend => Sys2Proof.Machine.execLdfResend s
  | .barrierComplete => Sys2Proof.Machine.execBarrierComplete s
  | .messageAccept => Sys2Proof.Machine.execMessageAccept s
  | .copyComplete => Sys2Proof.Machine.execCopyComplete s
  | .waitTimeout => Sys2Proof.Machine.execWaitTimeout s
  | .registerWrite => Sys2Proof.Machine.execRegisterWrite s
  | .throttleEnd => Sys2Proof.Machine.execThrottleEnd s
  | .putComplete => Sys2Proof.Machine.execPutComplete s
  | .ruleLoadComplete => Sys2Proof.Machine.execRuleLoadComplete s

end Sys2Proof.Machine
end

