-- ==== Sys2Proof/Machine/Issue.lean ====
section
/-! DEFINITION. One turn of a thread (R134, R135, R142, R148, R302) and one turn of anything else on the agenda. -/

namespace Sys2Proof.Machine

/-! ### What a thread issues next -/

/-- The thread may issue, its own stalls aside (R21, R33, R69, R126, R127, R134, R186). -/
def State.mayIssue (s : State) (h k : Nat) : Bool :=
  decide ((s.thr h k).st = .active) && !(s.thr h k).stopped && !(s.thr h k).saved && !(s.core h).quiesce &&
    (s.core h).replay.isEmpty && !s.recordFatal && s.powered && !s.gated.contains (dieOf h) &&
    decide (s.relocking ≠ some (dieOf h)) && !s.poolStopped h k

/-- A member of a dissolved gang with nothing relayed left goes on alone (R143). -/
def Core.settleGang (c : Core) (k : Nat) : Core :=
  match c.gang with
  | some g => if g.slot = k ∧ g.dissolved = true ∧ c.relay = [] then c.leaveGang else c
  | none => c

/-- Where a thread's next instruction comes from (R142). -/
inductive Lane where
  | alone
  | leads
  | follows (r : Relay)
  | waits

def State.lane (s : State) (h k : Nat) : Lane :=
  match (s.core h).gang with
  | none => .alone
  | some g =>
    if g.slot ≠ k then .alone
    else if g.leader = h ∧ g.dissolved = false then
      (if (s.gangMembers h).any fun m => decide (m ≠ h ∧ 4 ≤ (s.core m).relay.length) then .waits else .leads)
    else match (s.core h).relay with
      | r :: _ => .follows r
      | [] => .waits

/-- The outcome of finding the next instruction word of the issuing thread. -/
inductive Got where
  | word (s : State) (w : Nat)
  | illegal (s : State)
  | fault (s : State) (code addr : Nat)
  | stall (s : State)

/-- The word is a REP. -/
def isRep (w : Nat) : Bool := match decodeFetched w with | .ok (.rep _ _) => true | _ => false

/-- ACT of the issuing thread clears before an instruction that is no part of a repetition (R302). -/
def State.clearAct (s : State) : State := s.onCur fun t => { t with rep := mkRep (repRem t.rep) false (repMask t.rep) (repNm1 t.rep) }

/-- The word that the issuing thread issues next: the word at its program counter or, while a repetition is in
progress there, the REP's target with the stepped fields of its repetition (R301, R302). -/
def State.nextWord (s : State) : Got :=
  let t := s.cur
  match s.fetchWord s.curH s.curSlot t.pc.toNat with
  | .stall s1 => .stall s1
  | .fault s1 c a => .fault s1 c a
  | .ok s1 w =>
    if ¬ repAct t.rep then .word s1 w
    else if ¬ isRep w then .word s1.clearAct w
    else match s1.fetchWord s.curH s.curSlot (t.pc + 4).toNat with
      | .stall s2 => .stall s2
      | .fault s2 c a => .fault s2 c a
      | .ok s2 w2 =>
        match stepWord w2 (repMask t.rep) (repNm1 t.rep + 1 - repRem t.rep) (stepFields w2) 0 with
        | some v => .word s2 v
        | none => .illegal s2

/-! ### After the issue -/

/-- What a leader relays of the word `w` that it is about to execute, but for the next address (R142): with the label that a
jump through a table compares with the pad it finds, and whether the word is a repetition's. -/
def State.relayed (s : State) (w : Nat) : Relay :=
  { addr := s.cur.pc, word := w, act := repAct s.cur.rep
    label := match decodeFetched w with
      | .ok (.jtab d _ _) => wbits (s.g d) 15 0
      | .ok (.callt d _ _ _) => wbits (s.g d) 15 0
      | _ => 0 }

/-- The leader's issued instruction reaches every follower's relay buffer (R142). -/
def State.relayTo (s : State) (ms : List Nat) (h : Nat) (r : Relay) : State :=
  ms.foldl (fun s m => if m = h then s else s.onCoreAt m fun c => { c with relay := c.relay ++ [r] }) s

/-- A follower has issued its relayed instruction: it detaches where its next program counter differs (R143). -/
def Core.followed (c : Core) (k : Nat) (next : Word) : Core :=
  match c.gang with
  | none => c
  | some _ => if (c.thr k).pc ≠ next then c.leaveGang else { c with relay := c.relay.drop 1 }

/-- What follows the execution of a word, which the gang members `ms` are sent as `r` (R135, R142, R143); nothing where it did not
issue. -/
def State.afterIssue (s : State) (lane : Lane) (ms : List Nat) (r : Relay) : State :=
  if ¬ s.cur.iss then s
  else
    let s1 := s.onCC fun c => { c with lastSlot := s.curSlot }
    match lane with
    | .leads => s1.relayTo ms s1.curH { r with next := s1.cur.pc }
    | .follows r => s1.onCC fun c => c.followed s1.curSlot r.next
    | _ => s1

/-- The instruction word `w` executes for the issuing thread: first it waits for the registers that the thread's instructions
in the dispatch queue have still to read or write (R344), then the windows that close here close (R148, R153, R254). -/
def State.issueWord (s : State) (lane : Lane) (w : Nat) : Out1 :=
  let due := match decodeFetched w with | .ok i => s.spanDue s.curH s.curSlot i | .error _ => false
  if due then .next s
  else match s.closeDue with
  | .stall s1 => .next s1
  | .taken s1 => .next s1
  | .ready s1 =>
    match decodeFetched w with
    | .error _ => .next s1.illegal
    | .ok i =>
      match exec i s1 with
      | .next s2 => .next (s2.afterIssue lane (s1.gangMembers s1.curH) (s1.relayed w))
      | .fault f => .fault f
      | .refused r => .refused r

/-- A thread's turn begins: it is the issuing thread and has issued nothing yet. -/
def State.begin (s : State) (h k : Nat) : State :=
  (({ s with curH := h, curSlot := k }).onCC fun c => c.settleGang k).onCur fun t => { t with iss := false }

/-- What comes of a thread's turn from its beginning on: an interrupt, its next instruction, or a stall. -/
def State.issueNext (s : State) (h k : Nat) : Out1 :=
  if ¬ s.mayIssue h k then .next s
  else if s.intrDue h ∧ (s.core h).ictlSlot = k then .next (s.intr h)
  else match s.lane h k with
    | .waits => .next s
    | .follows r => (if r.act then s else s.clearAct).issueWord (.follows r) r.word
    | lane =>
      match s.nextWord with
      | .stall s1 => .next s1
      | .fault s1 c a => .next (s1.kfault c a)
      | .illegal s1 => (match s1.closeDue with
        | .ready s2 => .next s2.illegal
        | .stall s2 => .next s2
        | .taken s2 => .next s2)
      | .word s1 w => s1.issueWord lane w

/-- The thread in slot `k` of core `h` issues its next instruction, unless it stalls. It does not park on a kernel fault while a
result of majors 0x24 to 0x26 has still to be written: it stalls until then (R345). -/
def State.issueTurn (s : State) (h k : Nat) : Out1 :=
  let s := s.begin h k
  match s.issueNext h k with
  | .next s1 => .next (if s.fpOwed h k && (match (s1.thr h k).st with | .parked _ => true | _ => false) then s else s1)
  | o => o

/-- The thread would issue or take a fault or trap now: it is ready (R134). -/
def State.isReady (s : State) (h k : Nat) : Bool :=
  s.mayIssue h k && (match s.issueTurn h k with
    | .next s1 => (s1.thr h k).iss || decide ((s1.thr h k).st ≠ .active ∨ (s1.thr h k).trap.act ≠ (s.thr h k).trap.act)
    | _ => true)

/-- A ready thread comes before slot `k` in the round robin of core `h`, which begins after the slot that issued last
(R135). -/
def State.passed (s : State) (h k : Nat) : Bool :=
  ((List.range ((k + 3 - (s.core h).lastSlot) % 4)).map fun i => ((s.core h).lastSlot + 1 + i) % 4).any fun j => s.isReady h j

/-- One turn of the thread in slot `k` of core `h`: nothing while another of its core goes first (R135). -/
def State.threadTurn (s : State) (h k : Nat) : Out1 :=
  if s.passed h k then .next { s with curH := h, curSlot := k } else s.issueTurn h k

/-! ### Time and evictions -/

/-- Device time passes on every unit that runs (R23, R24): a counter that wraps counts it in `TIME.WRAP`. A follower that
is ahead of its master stands still first (R26). -/
def State.elapse (s : State) (d0 : Nat) : State :=
  let d := d0 - s.held
  (List.range 13).foldl (fun s u =>
    let v := s.dt u + d
    { s with
      dtime := s.dtime.put u (BitVec.ofNat 64 v)
      twrap := if v < 2 ^ 64 then s.twrap else s.twrap.put u (s.twrap.val u 0 + BitVec.ofNat 64 (v / 2 ^ 64)) }) { s with held := s.held - d0 }

/-! ### The default order of turns (log 10) -/

/-- Every ACTIVE thread that may issue, in order of core and slot. -/
def State.ready (s : State) : List (Nat × Nat) :=
  s.cores.flatMap fun p => (p.2.threads.filter fun q => s.mayIssue p.1 q.1).map fun q => (p.1, q.1)

/-- The next of a list of threads after (h, k), in the order of the list and then from its start. -/
def nextAfter (h k : Nat) (l : List (Nat × Nat)) : Option (Nat × Nat) :=
  match l.find? fun p => decide (h < p.1 ∨ (h = p.1 ∧ k < p.2)) with
  | some p => some p
  | none => l.head?

/-- The thread that goes next, in turn (R135, R399). -/
def State.nextThread (s : State) : Option (Nat × Nat) := nextAfter s.curH s.curSlot s.ready

/-- One turn. -/
def State.turn (s : State) (t : Turn) : Out1 :=
  match t with
  | .event i ps => if (encode i).isSome then .next s else exec i { s with params := ps }
  | .thread h k => s.threadTurn h k
  | .enter id => .next (s.enterAcc id)
  | .evict abut idx => .next { s with xls := (s.xls.zipIdx.filter fun p => !(decide (p.1.abut = abut ∧ p.2 = idx))).map Prod.fst }
  | .evictLine q idx => .next (s.onQuad q fun x => { x with icache := x.icache.eraseIdx idx })
  | .elapse d => .next (s.elapse d)
  | .hostWrite hpa n v => .next (s.wrN (hostLoc hpa) n v)
  | .send die => .next (s.sendNext die)
  | .bitError g k => .next { s with bitErr := s.bitErr ++ [(g, k)] }
  | .miss die pa => .next (if die < 8 ∧ isHbm pa = true then s.hotMiss pa die else s)
  | .hostBad l b => .next { s with hostBad := if b then l :: s.hostBad.erase l else s.hostBad.erase l }
  | .coreFails h => .next (if fusedLive h then { s with failing := h :: s.failing.erase h } else s)
  | .fwCap w => .next { s with fwCap := w }
  | .timeAsk p => .next (s.timeAsk p)
  | .granule e => .next (if e = 0 then s.scrubGranule else s.migGranule)
  | .poolBack g => .next (s.poolBack g)
  | .heldFrame p => .next (s.heldFrame p)

end Sys2Proof.Machine
end

