-- ==== Sys2Proof/Machine/Engine.lean ====
section
/-! DEFINITION. What goes next when the agenda names nothing (log 10): pending work of the engines, oldest first, then
the next thread. -/

namespace Sys2Proof.Machine

/-- An access that its ordering point may take now, or one that its abutment may send again. -/
def State.dueEnter (s : State) : Option Turn :=
  (s.accs.find? fun a => s.enterOk a || (decide (a.st = .held) && !s.moving a.loc)).map fun a => .enter a.id

/-- An access whose turn at its home has come. -/
def State.duePier (s : State) : Option Turn :=
  (s.accs.find? fun a => s.homeTurn a).map fun a => .event .pierAccess [a.id, 0, 0]

/-- A performed access whose value is on its way to a pending entry. -/
def State.dueResult (s : State) : Option Turn :=
  s.accs.findSome? fun a => match a.st with
    | .performed _ =>
      let t := s.thr a.h a.slot
      ((t.pend ++ t.trap.pend).findIdx? fun e => decide (e.id = a.ent)).map fun i => .event .longLatencyResult [a.h, a.slot, i]
    | _ => none

/-- A fence token that its recipient may return. -/
def State.dueToken (s : State) : Option Turn :=
  s.cores.findSome? fun p => p.2.threads.findSome? fun q => match q.2.wait with
    | .tokens mark left => (left.find? fun r => s.tokenReady (dieOf p.1) mark r).map fun r =>
        .event .fenceTokenReturn [p.1, q.1, r]
    | _ => none

/-- A quad whose span has an entry to start. -/
def State.dueSpan (s : State) : Option Turn :=
  (List.find? (fun p : Nat × Core => !p.2.dq.isEmpty && (s.memberRun (p.1 / 4) p.1).isSome) s.cores).map fun p =>
    .event .spanEntryStart [p.1 / 4]

/-- A special-function result that its pending entry waits for. -/
def State.dueSfn (s : State) : Option Turn :=
  s.quads.findSome? fun p => p.2.sfq.findSome? fun r =>
    let t := s.thr r.h r.slot
    ((t.pend ++ t.trap.pend).findIdx? fun e => decide (e.id = r.ent)).map fun i => .event .longLatencyResult [r.h, r.slot, i]

/-! ### The rest of the engines' work: a candidate goes next where it moves something -/

/-- Work that one core may have for its engines. -/
def coreWork (h : Nat) (c : Core) : List Turn :=
  let ev := fun (b : Bool) (i : Instr) (ps : List Nat) => if b then [Turn.event i ps] else []
  let threads := c.threads.flatMap fun (q : Nat × Thread) =>
    (q.2.offers.flatMap fun (o : Nat × List Msg) => ev (!o.2.isEmpty) .messageAccept [h, q.1, o.1]) ++
    (q.2.arrivals.flatMap fun (a : Arrival) => ev a.done.isNone .barrierComplete [h, a.level])
  ev (!c.frecs.isEmpty) .faultRecordDeliver [h] ++ threads ++
  (c.copies.flatMap fun (x : Copy) => ev true .copyComplete [h, x.tag]) ++
  ev (!c.slogHeld.isEmpty) .heldStoreEnter [h] ++ ev (!c.slog.isEmpty) .sideLogRetry [h] ++
  ev c.gangWait.isSome .gangForm [h] ++ ev (c.quiesce || c.share.isSome) .quiesceComplete [h] ++ ev c.retain.isSome .retentionExpiry [h] ++
  (match c.share with
   | some _ => [.event .shareRestore [h], .event .shareDispatch [h], .event .launchBarrierComplete [h], .event .shareEnd [h]]
   | none => [])

/-- The header write that core `h` holds translates now: its retry performs it (R175, R383). -/
def State.headerReady (s : State) (h : Nat) : Bool :=
  (s.core h).dq.any fun d => d.started && d.writes.all fun w =>
    match (s.translate h d.asid d.tenant w.1 .wr).2 with | .ok _ => true | .error _ => false

/-- Work of the schedulers on an enabled partition. -/
def State.partWork (s : State) (j : Nat) : List Turn :=
  (if (s.part j).resizing then [Turn.event .partResizeCommit [j]] else []) ++
  (if s.launches.isEmpty ∧ s.served.isEmpty then []
   else [Turn.event .schedLeadershipMove [j], .event .schedDequeue [j]] ++
     ((List.range 8).map fun d => Turn.event .schedDealAccept [j, d]) ++ [.event .launchComplete [j], .event .sliceEnd [j]])

/-- The host commands whose outcome the state alone decides. -/
def cmdEvents : List Instr :=
  [.hcwNop, .hcwBadop, .hcwFoffer, .hcwFwithdraw, .hcwFaccept, .hcwFlend, .hcwFrecall, .hcwFreturn, .hcwFquery, .hcwClkplan,
   .hcwVfreset, .hcwKboot, .hcwEvreplay, .hcwCmdstat, .hcwAmsg]

/-- Work of the engines outside the cores. -/
def State.engineWork (s : State) : List Turn :=
  let ev := fun (b : Bool) (i : Instr) (ps : List Nat) => if b then [Turn.event i ps] else []
  ev s.load.isSome .passengerRelock [] ++
  (s.revokes.flatMap fun (r : Revoke) => r.left.map fun w => Turn.event .revocationAck [r.id, w]) ++
  (s.frames.flatMap fun (p : Nat × Frame) => ev (decide (p.2.state = 4)) .recallDeadlineExpiry [p.1]) ++
  (s.vfResets.map fun (p : Nat × Nat × List Nat) => Turn.event .vfResetComplete [p.1]) ++
  (s.exclBusy.map fun h => Turn.event .partExclDone [h]) ++
  (s.ingHeld.map fun x => Turn.heldFrame x.1) ++ ev s.scrubHeld .scrubResume [] ++ ev (decide (s.scrubState = 1)) .scrubMarkEntry [] ++
  ev (decide (s.scrubState = 2)) .scrubFrameCommit [] ++
  ev s.mig.isSome .migDrainDone [] ++ ev s.mig.isSome .migCopyDone [] ++ ev s.mig.isSome .migScrubDone [] ++
  ev s.ruleLoad.isSome .ruleLoadComplete [] ++ ev (!s.recLost.isEmpty) .recordRebuild [] ++
  (s.sweeps.map fun t => Turn.event .raceSweepDone [t]) ++ ev s.bootDue .bootThreadStart [] ++
  (s.colls.flatMap fun (c : Coll) =>
    [Turn.event .collTimeout [c.id]] ++ ev (decide (c.members.length = 1)) .allreduceComplete [c.id, 0]) ++
  (if (s.hc hCTL).getLsbD 0 ∨ (s.cmds.any fun (c : Cmd) => !c.started) then cmdEvents.map fun i => Turn.event i [] else [])

/-- Every candidate, in the order in which they are tried. -/
def State.work (s : State) : List Turn :=
  s.engineWork ++ (s.cores.flatMap fun (p : Nat × Core) =>
    coreWork p.1 p.2 ++ (if s.headerReady p.1 then [.event .sideLogRetry [p.1]] else [])) ++
  ((s.launches.flatMap fun (l : Launch) => l.where_).flatMap fun h => [Turn.event .shareDispatch [h], .event .shareRestore [h]]) ++
  (((List.range 64).filter s.partEn).flatMap s.partWork) ++
  (s.served.filterMap fun q => match (s.headOf 0 q).2 with
    | some h => if s.partEn (enPart h.e) then none else some (.event .schedDequeue [enPart h.e])
    | none => none) ++
  (((List.range 256).filter s.collEn).flatMap fun t => [Turn.event .collAllreduce [t], .event .collPut [t]])

/-- The turn moves something. -/
def State.moves (s : State) (t : Turn) : Bool :=
  match s.turn t with
  | .next s1 => decide ({ s1 with params := s.params } ≠ s)
  | _ => false

/-- The first that a list of candidates gives. -/
def firstDue : List (Option Turn) → Option Turn
  | [] => none
  | some t :: _ => some t
  | none :: r => firstDue r

/-- The pending work of the engines. -/
def State.nextEngine (s : State) : Option Turn :=
  firstDue [s.dueEnter, s.duePier, s.dueResult, s.dueToken, s.dueSpan, s.dueSfn, s.work.find? s.moves]

/-- The turn that goes next and the state it goes in: the agenda's head, else the default. -/
def State.nextTurn (s : State) : State × Option Turn :=
  match s.agenda with
  | t :: rest => ({ s with agenda := rest }, some t)
  | [] => match s.nextEngine with
    | some t => (s, some t)
    | none => (s, s.nextThread.map fun p => .thread p.1 p.2)

/-- The turn starts the package again after a temperature trip (R33 step 3). -/
def Turn.cold (t : Turn) : Bool := match t with | .event .coldReset _ => true | _ => false

/-- One step of the package: its next turn; with nothing to do the state stays. -/
def State.run (s : State) : Out1 :=
  match s.nextTurn with
  | (s1, some t) => if s1.powered || t.cold then s1.turn t else .fault .packageOff
  | (s1, none) => if s1.powered then .next s1 else .fault .packageOff

/-- Where the model's own fetch place lies (log 8): the code page of ASID 0 as KBOOT maps it (R158). -/
def bootVa : Word := 0x0000010000000000

/-- A word stored as the next instruction of the boot system core's slot 0 (log 8): code in frame 0, mapped at the boot
address of ASID 0 by an address-space table in frame 1 and page tables in frame 17, all of them owned by the accelerator
kernel in the clear. -/
def State.placeWord (s : State) (w : Nat) : State :=
  let h := s.svcCore 0
  let s1 := ((((((s.wrN 0 4 w).wrN 0x10000 8 0x110001).wrN 0x10008 8 0).wrN 0x110000 8 0x111001).wrN 0x111010 8 0x112001).wrN
    0x112000 8 0x113001).wrN 0x113000 8 0x114001
  let s2 := (s1.wrN 0x114000 8 0x1F).setSr 0xB8 0 0x10000
  let own : Frame := {}
  let code := fun g => decide (g < 256 ∨ (0x100 ≤ g ∧ g < 0x200) ∨ (0x1100 ≤ g ∧ g < 0x1200))
  let s3 : State :=
    { s2 with
      powered := true, recordFatal := false, poolFatal := false, load := none, mig := none, gated := []
      frames := ((s2.frames.put 0 own).put 1 own).put 17 own
      xls := s2.xls.filter fun x => decide (x.asid ≠ 0)
      poison := s2.poison.filter fun g => !code g
      bitErr := s2.bitErr.filter fun (p : Nat × Nat) => !code p.1
      agenda := .thread h 0 :: s2.agenda }
  ((s3.onQuad (h / 4) fun q => { q with icache := q.icache.filter fun l => decide (l.asid ≠ 0) }).onCoreAt h fun c =>
    { c with quiesce := false, gang := none, relay := [], ictlEn := false, replay := [], dq := [], lastSlot := 3 }).onThr h 0 fun t =>
    { t with st := .active, pc := bootVa, asid := 0, pend := [], rep := 0, wait := .none, stopped := false, saved := false,
             fetched := [] }

end Sys2Proof.Machine
end

