-- ==== Sys2Proof/Machine/Step.lean ====
section
/-! DEFINITION. The step of the package, and a word placed where the step fetches its next instruction (log 8). -/

namespace Sys2Proof.Machine

/-- One step of the package. -/
def step : State → Host.Outcome State Fault Refusal := State.run

/-- `s` with the instruction word `w` stored where the next step fetches. -/
def State.withFetchWord (s : State) (_nbits w : Nat) : State := s.placeWord w

end Sys2Proof.Machine
end

