-- ==== Sys2Proof/Safety.lean ====
section
/-! DEFINITION. What counts as a safe state and a safe run, in the terms that claims use. -/

namespace Sys2Proof

/-- The memory is in canonical form. -/
def Safe (s : Machine.State) : Prop := Machine.Memory.wf s.mem = true

/-- The step does not stop: it answers a next state. -/
def Goes (s : Machine.State) : Prop := ∃ t, Machine.step s = .next t

/-- A run of `n` steps from `s` ends in `t` without a stop. -/
inductive Runs : Machine.State → Nat → Machine.State → Prop where
  | here (s : Machine.State) : Runs s 0 s
  | step {s t u : Machine.State} {n : Nat} : Machine.step s = .next t → Runs t n u → Runs s (n + 1) u

end Sys2Proof
end

