-- ==== Sys2Proof/Certificates/Slice0/Obligations.lean ====
section
/-! DEFINITION. The statements for the provers, chapter by chapter of the manual. The namespace `Claims` holds the terms
they are written in: what a thread's issue changes, and what the manual's tables give as each instruction's result. -/

/-! ### How a step changes the issuing thread -/

namespace Sys2Proof.Claims

open Machine

/-- Only the issuing thread has changed: no memory, no system register, no other core and no other thread. -/
def OnlyThread (s t : State) : Prop :=
  t = { s with cores := t.cores } ∧ (∀ h, h ≠ s.curH → t.core h = s.core h) ∧
    t.cc = { s.cc with threads := t.cc.threads } ∧ ∀ k, k ≠ s.curSlot → t.thr s.curH k = s.thr s.curH k

/-- Where a thread goes on after an instruction of `len` bytes (R302): the next instruction, or while a repetition is in
progress the REP again, with one repetition fewer, or past the target after the last. -/
def wentOn (th : Thread) (len : Nat) : Word × Word :=
  if repAct th.rep then
    (if repRem th.rep ≤ 1 then (th.pc + 4 + BitVec.ofNat 64 len, mkRep 0 false (repMask th.rep) (repNm1 th.rep))
     else (th.pc, mkRep (repRem th.rep - 1) true (repMask th.rep) (repNm1 th.rep)))
  else (th.pc + BitVec.ofNat 64 len, th.rep)

/-- The thread's issue is counted (R148): every open window counts it, and SUPP and a stall's progress end. -/
def counted (th : Thread) : Thread :=
  { th with pend := th.pend.map fun e => { e with cnt := e.cnt - 1 }, iss := true, supp := false, fetched := [], wait := .none }

/-- The thread has issued an instruction of `len` bytes that does not transfer. -/
def issued (th : Thread) (len : Nat) : Thread := { counted th with pc := (wentOn th len).1, rep := (wentOn th len).2 }

/-- The thread has issued an instruction that transfers to `pc` (R289). Where software has set ACT for it, the repetition's own
rule says where the thread goes on (R302; the model's reading, DEDUCED in log 85). -/
def transferred (th : Thread) (pc : Word) : Thread :=
  if repAct th.rep then issued th 4 else { counted th with pc := pc }

/-- The scalar registers after a write of `v` to field `d`: the physical register of field `d` holds `v`, every other
one what it held; field 0 reads 0 and discards (R252, R292). -/
def RegWritten (th th' : Thread) (d : Nat) (v : Word) : Prop :=
  th'.readG d = (if d = 0 then 0 else v) ∧ ∀ p, p ≠ th.phys d → th'.rdPhys p = th.rdPhys p

/-- The instruction wrote `v` to scalar field `d` and did nothing else but issue. -/
def Wrote (s t : State) (d len : Nat) (v : Word) : Prop :=
  RegWritten s.cur t.cur d v ∧ { t.cur with g := s.cur.g, stk := s.cur.stk } = issued s.cur len ∧ OnlyThread s t

/-- The thread stalls, and nothing changes but that the windows which `hit` selects close at the instruction that stalls
(R153; the model's reading, DEDUCED in log 72). -/
def StallsClosing (s t : State) (hit : Pend → Prop) : Prop :=
  (∀ i : Nat, t.cur.pend[i]?.map (fun p => { p with cnt := 0 }) = s.cur.pend[i]?.map fun p => { p with cnt := 0 }) ∧
    (∀ (i : Nat) (p q : Pend), s.cur.pend[i]? = some p → t.cur.pend[i]? = some q → (hit p → q.cnt = 0) ∧ (¬ hit p → q = p)) ∧
    { t.cur with pend := s.cur.pend } = s.cur ∧ OnlyThread s t

/-- The record of a kernel fault of the issuing thread (R157). -/
def faultRecord (s : State) (code addr : Nat) (lpc : Word) (pent info : Nat) : FRec :=
  { pc := s.cur.pc, addr := addr, code := code, asid := s.asidOf s.curH s.curSlot, tenant := s.tenantOf s.curH
    slot := s.curSlot, lpc := lpc, pent := pent, info := info }

/-- A kernel fault of the issuing thread (R156): it parks at its program counter with every register as it was, and a
record of the fault joins those its core has to send. -/
def KernelFault (s t : State) (code addr : Nat) (lpc : Word) (pent info : Nat) : Prop :=
  { t.cur with inGang := s.cur.inGang } = { s.cur with st := .parked code, wait := .none, pent := pent, fetched := [] } ∧
    t.cc.frecs = s.cc.frecs ++ [faultRecord s code addr lpc pent info] ∧
    t = { s with cores := t.cores }

/-- A user trap of the issuing thread (R397): the trap registers take the cause, the program counter, REPCNT and the open
windows, and the handler starts at entry `cause` of the vector; without a vector, or in a handler, it is the kernel fault
ILLEGAL (R155). Every scalar register keeps its value. -/
def UserTrap (s t : State) (cause : Nat) (info lpc ret : Word) : Prop :=
  if wbits s.cur.utvec 56 2 = 0 ∨ s.cur.trap.act = true then KernelFault s t fILLEGAL 0 0 0 cause
  else
    { t.cur with inGang := s.cur.inGang } =
      { s.cur with
        trap := { act := true, cause := cause, pc := ret, info := info, lpc := lpc, rep := s.cur.rep, pend := s.cur.pend, ent := 0, mark := s.nextId }
        supp := false, rep := 0, pend := [], wait := .none, fetched := []
        pc := canon (4 * wbits s.cur.utvec 56 2) + BitVec.ofNat 64 (16 * cause) } ∧
    t.cc.frecs = s.cc.frecs ∧ t = { s with cores := t.cores }

end Sys2Proof.Claims

/-! ### Chapter 12: scalar integer and address instructions -/

namespace Sys2Proof.Claims

open Machine

/-- The destination and the result of each instruction of chapter 12, from its effect tables (R279 to R287). -/
def scalarResult (i : Instr) (s : State) : Option (Nat × Word) :=
  let sg := fun n => (s.g n).toInt
  let us := fun n => (s.g n).toNat
  let one := fun (p : Prop) [Decidable p] => if p then (1 : Word) else 0
  let pos := fun n => us n % 64
  let wid := fun n => min (us n / 256 % 64 + 1) (64 - us n % 64)
  let mask := fun n => BitVec.ofNat 64 (2 ^ wid n - 1)
  let clm := fun a b => (List.range 64).foldl (fun acc i => if (s.g b).getLsbD i then acc ^^^ (us a <<< i) else acc) 0
  match i with
  | .add d a b => some (d, BitVec.ofNat 64 (us a + us b))
  | .sub d a b => some (d, BitVec.ofInt 64 (us a - us b : Int))
  | .mul d a b => some (d, BitVec.ofNat 64 (us a * us b))
  | .mulh d a b => some (d, BitVec.ofInt 64 (sg a * sg b / 2 ^ 64))
  | .mulhu d a b => some (d, BitVec.ofNat 64 (us a * us b / 2 ^ 64))
  | .div d a b => some (d, if us b = 0 then BitVec.allOnes 64 else BitVec.ofInt 64 ((sg a).tdiv (sg b)))
  | .divu d a b => some (d, if us b = 0 then BitVec.allOnes 64 else BitVec.ofNat 64 (us a / us b))
  | .rem d a b => some (d, if us b = 0 then s.g a else BitVec.ofInt 64 (sg a - sg b * (sg a).tdiv (sg b)))
  | .remu d a b => some (d, if us b = 0 then s.g a else BitVec.ofNat 64 (us a % us b))
  | .and d a b => some (d, s.g a &&& s.g b)
  | .or d a b => some (d, s.g a ||| s.g b)
  | .xor d a b => some (d, s.g a ^^^ s.g b)
  | .andn d a b => some (d, s.g a &&& ~~~(s.g b))
  | .shl d a b => some (d, BitVec.ofNat 64 (us a * 2 ^ (us b % 64)))
  | .shr d a b => some (d, BitVec.ofNat 64 (us a / 2 ^ (us b % 64)))
  | .sar d a b => some (d, BitVec.ofInt 64 (sg a / 2 ^ (us b % 64)))
  | .rol d a b => some (d, s.g a <<< (us b % 64) ||| s.g a >>> (64 - us b % 64))
  | .clz d a => some (d, BitVec.ofNat 64 (if us a = 0 then 64 else 63 - (us a).log2))
  | .ctz d a => some (d, BitVec.ofNat 64 (if us a = 0 then 64 else (s.g a &&& -(s.g a)).toNat.log2))
  | .popc d a => some (d, BitVec.ofNat 64 ((List.range 64).countP fun i => (s.g a).getLsbD i))
  | .min d a b => some (d, BitVec.ofInt 64 (min (sg a) (sg b)))
  | .max d a b => some (d, BitVec.ofInt 64 (max (sg a) (sg b)))
  | .minu d a b => some (d, BitVec.ofNat 64 (min (us a) (us b)))
  | .maxu d a b => some (d, BitVec.ofNat 64 (max (us a) (us b)))
  | .slt d a b => some (d, one (sg a < sg b))
  | .sltu d a b => some (d, one (us a < us b))
  | .seq d a b => some (d, one (us a = us b))
  | .addi d a imm => some (d, s.g a + (BitVec.ofNat 15 imm).signExtend 64)
  | .andi d a imm => some (d, s.g a &&& (BitVec.ofNat 15 imm).setWidth 64)
  | .ori d a imm => some (d, s.g a ||| (BitVec.ofNat 15 imm).setWidth 64)
  | .xori d a imm => some (d, s.g a ^^^ (BitVec.ofNat 15 imm).setWidth 64)
  | .slti d a imm => some (d, one (sg a < (BitVec.ofNat 15 imm).toInt))
  | .shli d a n => some (d, BitVec.ofNat 64 (us a * 2 ^ n))
  | .shri d a n => some (d, BitVec.ofNat 64 (us a / 2 ^ n))
  | .sari d a n => some (d, BitVec.ofInt 64 (sg a / 2 ^ n))
  | .roli d a n => some (d, s.g a <<< n ||| s.g a >>> (64 - n))
  | .immh d imm => some (d, BitVec.ofNat 64 (us d * 2 ^ 20 + imm))
  | .lea d a b k => some (d, BitVec.ofNat 64 (us a + us b * 2 ^ k))
  | .bfx d a b => some (d, s.g a >>> pos b &&& mask b)
  | .bfxSx d a b =>
    some (d, if (s.g a).getLsbD (pos b + wid b - 1) then s.g a >>> pos b ||| ~~~(mask b) else s.g a >>> pos b &&& mask b)
  | .bfi d a b => some (d, (s.g d &&& ~~~(mask b <<< pos b)) ||| ((s.g a &&& mask b) <<< pos b))
  | .clmul d a b => some (d, BitVec.ofNat 64 (clm a b))
  | .clmulh d a b => some (d, BitVec.ofNat 64 (clm a b / 2 ^ 64))
  | _ => none

/-- What DIV, REM, DIVU and REMU give for dividend `x` and divisor `y`, as R280 writes them. -/
def division (x y : Word) : Word × Word × Word × Word :=
  if y = 0 then (BitVec.allOnes 64, x, BitVec.allOnes 64, x)
  else if x = 0x8000000000000000 ∧ y = 0xFFFFFFFFFFFFFFFF then (0x8000000000000000, 0, 0, x)
  else (BitVec.ofInt 64 (x.toInt.tdiv y.toInt), BitVec.ofInt 64 (x.toInt - y.toInt * x.toInt.tdiv y.toInt),
    BitVec.ofNat 64 (x.toNat / y.toNat), BitVec.ofNat 64 (x.toNat % y.toNat))

end Sys2Proof.Claims

open Sys2Proof Sys2Proof.Machine Sys2Proof.Claims in
/-- R277, R279 to R287: every instruction of chapter 12 reads its sources, writes the result its table gives to its
destination at issue and goes on at the next instruction; no other register, no flag, no system register and no byte of
memory changes, and no result makes it stop. -/
def Obligations.ScalarResult : Prop :=
  ∀ (i : Instr) (s : State) (d : Nat) (v : Word), scalarResult i s = some (d, v) → i.wf = true → s.cur.openG d = false →
    ∃ t, exec i s = .next t ∧ Wrote s t d 4 v ∧ ∀ a, t.rd8 a = s.rd8 a

open Sys2Proof Sys2Proof.Machine Sys2Proof.Claims in
/-- R149, R277, R288: an instruction of chapter 12 whose destination an open window has does not execute; the user trap
LOOKAHEAD (cause 3) is taken, every scalar register keeps its value and memory is unchanged. -/
def Obligations.ScalarLookahead : Prop :=
  ∀ (i : Instr) (s : State) (d : Nat) (v : Word), scalarResult i s = some (d, v) → s.cur.openG d = true →
    ∃ t, exec i s = .next t ∧ UserTrap s t 3 0 0 s.cur.pc ∧ (∀ p, t.cur.rdPhys p = s.cur.rdPhys p) ∧ ∀ a, t.rd8 a = s.rd8 a

open Sys2Proof Sys2Proof.Machine Sys2Proof.Claims in
/-- R280: division never traps; by zero it gives all ones and the dividend, the overflow pair gives −2^63 and 0, and
every other pair the quotient truncated toward zero with the remainder that goes with it; for every divisor but 0,
x = y · DIV + REM and x = y · DIVU + REMU modulo 2^64. -/
def Obligations.DivisionResults : Prop :=
  ∀ (s : State) (d a b : Nat), s.cur.openG d = false → d < 32 →
    (∃ t, exec (.div d a b) s = .next t ∧ Wrote s t d 4 (division (s.g a) (s.g b)).1) ∧
    (∃ t, exec (.rem d a b) s = .next t ∧ Wrote s t d 4 (division (s.g a) (s.g b)).2.1) ∧
    (∃ t, exec (.divu d a b) s = .next t ∧ Wrote s t d 4 (division (s.g a) (s.g b)).2.2.1) ∧
    (∃ t, exec (.remu d a b) s = .next t ∧ Wrote s t d 4 (division (s.g a) (s.g b)).2.2.2) ∧
    (s.g b ≠ 0 → s.g a = s.g b * (division (s.g a) (s.g b)).1 + (division (s.g a) (s.g b)).2.1 ∧
      s.g a = s.g b * (division (s.g a) (s.g b)).2.2.1 + (division (s.g a) (s.g b)).2.2.2)

/-! ### Chapter 13: control flow, windows and repetition -/

namespace Sys2Proof.Claims

open Machine

/-- The comparison of R290 by its code. -/
def Compares (c : Nat) (x y : Word) : Prop :=
  match c with
  | 0 => x = y
  | 1 => x ≠ y
  | 2 => x.toInt < y.toInt
  | 3 => y.toInt ≤ x.toInt
  | 4 => x.toNat < y.toNat
  | _ => y.toNat ≤ x.toNat

/-- The program counter moved by twice a signed offset of `n` bits. -/
def moved (pc : Word) (n off : Nat) : Word := BitVec.ofInt 64 (pc.toNat + 2 * (BitVec.ofNat n off).toInt)

/-- The issuing thread is now `th`; no other thread, core, system register or byte of memory has changed. -/
def ThreadIs (s t : State) (th : Thread) : Prop := t.cur = th ∧ OnlyThread s t

/-- The window slid up by `n` with the transfer to `dst` (R293): field j reads what field j + n read, the new w23 holds
the link word, and no other physical register has changed. -/
def SlidUp (s t : State) (n : Nat) (dst : Word) : Prop :=
  t.cur.base = s.cur.base + n ∧ (∀ j, 8 ≤ j → j + n ≤ 31 → t.g j = s.g (j + n)) ∧ (∀ j, j < 8 → t.g j = s.g j) ∧
    t.g 31 = BitVec.ofNat 64 ((n - 1) * 2 ^ 60 + (s.cur.pc + 4).toNat % 2 ^ 57) ∧
    (∀ p, p ≠ t.cur.phys 31 → t.cur.rdPhys p = s.cur.rdPhys p) ∧
    { t.cur with stk := s.cur.stk, base := s.cur.base } = transferred s.cur dst

/-- The checks of a slide by `n` pass: no ILLEGAL, no open window has the new w23, and no WINOVF (R293). -/
def SlideOk (th : Thread) (n : Nat) : Prop :=
  th.base + n + 24 ≤ 65536 ∧ (∀ e ∈ th.pend, e.dest ≠ .scalar (8 + (th.base + n + 23) % 128)) ∧
    th.base + n + 24 - th.low ≤ 128

/-- Every open window of the issuing thread has its value and none has a fault: they close, which leaves `s0` (R152). -/
def WindowsClose (s s0 : State) : Prop :=
  (∀ e ∈ s.cur.pend, e.missing = 0 ∧ e.closeFault = none) ∧
    s0 = s.onCur fun t => { t.pend.foldl Thread.land t with pend := [] }

/-- The quad's instruction cache holds the halfword at an address for the issuing thread (R133, R172). -/
def CachedHalf (s : State) (va x : Nat) : Prop :=
  spaceOf va = .global ∧ ∃ l, (s.quad (s.curH / 4)).line? (s.asidOf s.curH s.curSlot) (va / 64) = some l ∧
    x = bits l.data (va % 64 * 8 + 15) (va % 64 * 8)

/-- It holds the two halves of a 32-bit instruction, or a 16-bit one, as the word `w` (R243). -/
def CachedWord (s : State) (va w : Nat) : Prop :=
  CachedHalf s va w ∧ w % 2 = 0 ∨
    ∃ x y, CachedHalf s va x ∧ x % 2 = 1 ∧ CachedHalf s ((va + 2) % 2 ^ 64) y ∧ w = x + 65536 * y

/-- The word may be the target of a REP with this mask (R300): the mask names only fields that its format has, the format
has some, and it is no instruction that may not repeat. -/
def MayRepeat (w mask : Nat) : Prop :=
  mask < 2 ^ (stepFields w).length ∧ stepFields w ≠ [] ∧ ∀ i, decodeFetched w = .ok i → noRepeat i = false

/-- The fields that a REP's mask names, F0 first, each with its lowest bit and its width, by the format that the target's major
opcode has (R246, R248, R253, R300). -/
def MaskNames (w : Nat) (fs : List (Nat × Nat)) : Prop :=
  let m := bits w 6 1
  (w % 2 = 0 ∧ w < 2 ^ 16 ∧ fs = [(5, 5), (10, 5)]) ∨
  (w % 2 = 1 ∧ w < 2 ^ 32 ∧
    (((m = 0 ∨ m = 0x08 ∨ 0x12 ≤ m ∧ m ≤ 0x16 ∨ 0x18 ≤ m ∧ m ≤ 0x1A ∨ m = 0x1C ∨ m = 0x1D ∨ 0x38 ≤ m ∧ m ≤ 0x3C) ∧
        fs = [(7, 5), (12, 5), (17, 5)]) ∨
      (1 ≤ m ∧ m ≤ 6 ∧ fs = [(7, 5), (12, 5)]) ∨
      (m = 7 ∧ fs = [(7, 5)]) ∨
      ((m = 0x10 ∨ m = 0x11) ∧ fs = [(7, 5), (12, 5)]) ∨
      (0x20 ≤ m ∧ m ≤ 0x2C ∧ fs = [(7, 5), (12, 5), (17, 5)]) ∨
      (0x30 ≤ m ∧ m ≤ 0x34 ∧ fs = [(7, 2), (9, 6), (15, 6)])))

/-- What one repetition adds to the word: 1 in each field that the mask names. -/
def maskStep (mask : Nat) (fs : List (Nat × Nat)) : Nat :=
  ((fs.zipIdx.filter fun f => mask.testBit f.2).map fun f => 2 ^ f.1.1).sum

/-- Repetition `j` would take a field that the mask names out of its range (R301). -/
def StepsOut (w mask j : Nat) (fs : List (Nat × Nat)) : Prop :=
  ∃ i lo n, fs[i]? = some (lo, n) ∧ mask.testBit i = true ∧ 2 ^ n ≤ bits w (lo + n - 1) lo + j

/-- The issuing thread looks at the landing pad itself: it follows no leader that went to the same target (R142). -/
def LooksItself (s : State) (tgt : Nat) : Prop := s.following = false ∨ ∀ r, s.cc.relay.head? = some r → r.next.toNat ≠ tgt

/-- The thread with a repetition in progress at its REP (R302). -/
def repeating (th : Thread) (nm1 mask : Nat) : Thread :=
  { counted th with rep := BitVec.ofNat 64 ((nm1 + 1) * 2 ^ 16 + 2 ^ 15 + mask * 2 ^ 12 + nm1 * 2 ^ 6) }

end Sys2Proof.Claims

open Sys2Proof Sys2Proof.Machine Sys2Proof.Claims in
/-- R290, R291: a branch whose comparison holds transfers to the program counter plus twice the offset and falls through
otherwise; J always transfers; LOOP writes its counter less one and transfers while that is not 0; nothing else
changes. What a transfer does while a repetition is in progress is the model's reading (log 85). -/
def Obligations.DirectTransfers : Prop :=
  ∀ (s : State) (a b c off : Nat),
    (c < 6 → (Compares c (s.g a) (s.g b) →
        ∃ t, exec (.bcc a b c off) s = .next t ∧ ThreadIs s t (transferred s.cur (moved s.cur.pc 12 off))) ∧
      (¬ Compares c (s.g a) (s.g b) → ∃ t, exec (.bcc a b c off) s = .next t ∧ ThreadIs s t (issued s.cur 4))) ∧
    (c < 4 → (Compares c (s.g a) 0 →
        ∃ t, exec (.bz a c off) s = .next t ∧ ThreadIs s t (transferred s.cur (moved s.cur.pc 12 off))) ∧
      (¬ Compares c (s.g a) 0 → ∃ t, exec (.bz a c off) s = .next t ∧ ThreadIs s t (issued s.cur 4))) ∧
    (∃ t, exec (.j off) s = .next t ∧ ThreadIs s t (transferred s.cur (moved s.cur.pc 25 off))) ∧
    (a < 32 → s.cur.openG a = false →
      ∃ t, exec (.loop a off) s = .next t ∧ RegWritten s.cur t.cur a (s.g a - 1) ∧ OnlyThread s t ∧
        { t.cur with g := s.cur.g, stk := s.cur.stk } =
          (if s.g a ≠ 1 then transferred s.cur (moved s.cur.pc 15 off) else issued s.cur 4))

open Sys2Proof Sys2Proof.Machine Sys2Proof.Claims in
/-- R293: CALL checks ILLEGAL, LOOKAHEAD and WINOVF in that order, each without effect, and otherwise slides the window,
writes the link word and transfers; where it goes while a repetition is in progress is the model's reading (log 85). -/
def Obligations.CallSlides : Prop :=
  ∀ (s : State) (k off : Nat), k < 16 →
    (SlideOk s.cur (k + 1) →
      ∃ t, exec (.call k off) s = .next t ∧ SlidUp s t (k + 1) (moved s.cur.pc 21 off) ∧ OnlyThread s t) ∧
    (65536 < s.cur.base + (k + 1) + 24 → ∃ t, exec (.call k off) s = .next t ∧ KernelFault s t fILLEGAL 0 0 0 0) ∧
    (s.cur.base + (k + 1) + 24 ≤ 65536 → (∃ e ∈ s.cur.pend, e.dest = .scalar (8 + (s.cur.base + (k + 1) + 23) % 128)) →
      ∃ t, exec (.call k off) s = .next t ∧ UserTrap s t 3 0 0 s.cur.pc) ∧
    (s.cur.base + (k + 1) + 24 ≤ 65536 → (∀ e ∈ s.cur.pend, e.dest ≠ .scalar (8 + (s.cur.base + (k + 1) + 23) % 128)) →
      128 < s.cur.base + (k + 1) + 24 - s.cur.low → ∃ t, exec (.call k off) s = .next t ∧ UserTrap s t 1 0 0 s.cur.pc)

open Sys2Proof Sys2Proof.Machine Sys2Proof.Claims in
/-- R294: RET takes the slide and the address from w23, and checks ILLEGAL, ALIGN and WINUNF in that order, each without
effect. A RET that software has made a repetition's target is `RepetitionSteps`'. -/
def Obligations.ReturnSlidesBack : Prop :=
  ∀ (s : State) (k : Nat) (dst : Word), k = (s.g 31).toNat / 2 ^ 60 + 1 → dst = ((s.g 31).setWidth 57).signExtend 64 →
    (s.cur.low + k ≤ s.cur.base → dst.getLsbD 0 = false → repAct s.cur.rep = false →
      ∃ t, exec .ret s = .next t ∧ ThreadIs s t { transferred s.cur dst with base := s.cur.base - k }) ∧
    (s.cur.base < k → s.cur.low = 0 → ∃ t, exec .ret s = .next t ∧ KernelFault s t fILLEGAL 0 0 0 0) ∧
    (¬ (s.cur.base < k ∧ s.cur.low = 0) → dst.getLsbD 0 = true →
      ∃ t, exec .ret s = .next t ∧ KernelFault s t fALIGN dst.toNat 0 0 0) ∧
    (s.cur.base < s.cur.low + k → s.cur.low ≠ 0 → dst.getLsbD 0 = false →
      ∃ t, exec .ret s = .next t ∧ UserTrap s t 2 0 0 s.cur.pc)

open Sys2Proof Sys2Proof.Machine Sys2Proof.Claims in
/-- R293, R294: a RET right after a CALL undoes it: the caller goes on at the instruction after the CALL with its window
and every one of its registers as they were. No repetition may have a CALL for its target (R300), so none is in progress. -/
def Obligations.ReturnUndoesCall : Prop :=
  ∀ (s : State) (k off : Nat), k < 16 → SlideOk s.cur (k + 1) → s.cur.low ≤ s.cur.base → s.cur.pc.getLsbD 0 = false →
    ((s.cur.pc + 4).setWidth 57).signExtend 64 = s.cur.pc + 4 → repAct s.cur.rep = false →
    ∃ t u, exec (.call k off) s = .next t ∧ exec .ret t = .next u ∧ u.cur.pc = s.cur.pc + 4 ∧
      u.cur.base = s.cur.base ∧ u.cur.low = s.cur.low ∧ (∀ n, n < 32 → u.g n = s.g n) ∧ ∀ a, u.rd8 a = s.rd8 a

open Sys2Proof Sys2Proof.Machine Sys2Proof.Claims in
/-- R299: JTAB and CALLT with an aligned table, an index within the bound, a readable entry and a PAD of the right label
at the target transfer there, CALLT sliding the window; a table or an entry that is not aligned is ALIGN, an index past the
bound is the user trap JTBOUND and a target that is no such PAD is LANDING, each at the instruction with nothing changed.
CALLT's checks of its slide come with CALL's, ILLEGAL and LOOKAHEAD before the table's alignment and WINOVF after it. Said for
a table entry and a target wherever they lie, and again with the table in the core's own local store and the target in the
quad's instruction cache, where nothing but the state and the operands decides. R142: a follower of a gang that goes where
its leader went compares its own label with the one that its leader found. Where a transfer goes while a repetition is in
progress is the model's reading (log 85). -/
def Obligations.IndirectTransfers : Prop :=
  ∀ (s s1 s2 : State) (d a b k tgt w : Nat), k < 16 →
    ((s.g a).toNat % 8 = 0 → s.accReady = true → (s.g b).toNat < wbits (s.g d) 32 16 →
      s.accessNow (s.accOf ((s.g a) + 8 * (s.g b)).toNat 8 .load) = .ok s1 (.value tgt) →
      (tgt % 2 = 0 → LooksItself s1 tgt → s1.fetchTarget tgt = .ok s2 w →
        (decodeFetched w = .ok (.pad (wbits (s.g d) 15 0)) →
          (∃ t, exec (.jtab d a b) s = .next t ∧ t.cur = transferred s.cur (BitVec.ofNat 64 tgt) ∧ OnlyThread s2 t ∧
            ∀ x, t.rd8 x = s.rd8 x) ∧
          (SlideOk s.cur (k + 1) →
            ∃ t, exec (.callt d a b k) s = .next t ∧ SlidUp s t (k + 1) (BitVec.ofNat 64 tgt) ∧ OnlyThread s2 t ∧
              ∀ x, t.rd8 x = s.rd8 x)) ∧
        (decodeFetched w ≠ .ok (.pad (wbits (s.g d) 15 0)) →
          (∃ t, exec (.jtab d a b) s = .next t ∧ UserTrap s2 t 8 (BitVec.ofNat 64 tgt) 0 s.cur.pc) ∧
          (SlideOk s.cur (k + 1) →
            ∃ t, exec (.callt d a b k) s = .next t ∧ UserTrap s2 t 8 (BitVec.ofNat 64 tgt) 0 s.cur.pc))) ∧
      (∀ r, tgt % 2 = 0 → s1.following = true → s1.cc.relay.head? = some r → r.next.toNat = tgt →
        (r.label = wbits (s.g d) 15 0 →
          (∃ t, exec (.jtab d a b) s = .next t ∧ t.cur = transferred s.cur (BitVec.ofNat 64 tgt) ∧ OnlyThread s1 t) ∧
          (SlideOk s.cur (k + 1) →
            ∃ t, exec (.callt d a b k) s = .next t ∧ SlidUp s t (k + 1) (BitVec.ofNat 64 tgt) ∧ OnlyThread s1 t)) ∧
        (r.label ≠ wbits (s.g d) 15 0 →
          (∃ t, exec (.jtab d a b) s = .next t ∧ UserTrap s1 t 8 (BitVec.ofNat 64 tgt) 0 s.cur.pc) ∧
          (SlideOk s.cur (k + 1) →
            ∃ t, exec (.callt d a b k) s = .next t ∧ UserTrap s1 t 8 (BitVec.ofNat 64 tgt) 0 s.cur.pc))) ∧
      (tgt % 2 = 1 →
        (∃ t, exec (.jtab d a b) s = .next t ∧ KernelFault s1 t fALIGN tgt 0 0 0) ∧
        (SlideOk s.cur (k + 1) → ∃ t, exec (.callt d a b k) s = .next t ∧ KernelFault s1 t fALIGN tgt 0 0 0))) ∧
    ((s.g a).toNat % 8 = 0 → s.accReady = true → wbits (s.g d) 32 16 ≤ (s.g b).toNat →
      (∃ t, exec (.jtab d a b) s = .next t ∧ UserTrap s t 9 (s.g b) 0 s.cur.pc) ∧
      (SlideOk s.cur (k + 1) → ∃ t, exec (.callt d a b k) s = .next t ∧ UserTrap s t 9 (s.g b) 0 s.cur.pc)) ∧
    (∀ off v2, (s.g a).toNat % 8 = 0 → s.accReady = true → (s.g b).toNat < wbits (s.g d) 32 16 → s.cc.dq = [] → s.cc.slog = [] →
      s.cc.slogHeld = [] → spaceOf ((s.g a) + 8 * (s.g b)).toNat = .ls off → tgt = s.rdN (lsLoc s.curH off) 8 → tgt % 2 = 0 →
      LooksItself s tgt → CachedWord s tgt w → CachedHalf s ((tgt + 2) % 2 ^ 64) v2 →
      (decodeFetched w = .ok (.pad (wbits (s.g d) 15 0)) →
        (∃ t, exec (.jtab d a b) s = .next t ∧ ThreadIs s t (transferred s.cur (BitVec.ofNat 64 tgt))) ∧
        (SlideOk s.cur (k + 1) →
          ∃ t, exec (.callt d a b k) s = .next t ∧ SlidUp s t (k + 1) (BitVec.ofNat 64 tgt) ∧ OnlyThread s t)) ∧
      (decodeFetched w ≠ .ok (.pad (wbits (s.g d) 15 0)) →
        (∃ t, exec (.jtab d a b) s = .next t ∧ UserTrap s t 8 (BitVec.ofNat 64 tgt) 0 s.cur.pc) ∧
        (SlideOk s.cur (k + 1) →
          ∃ t, exec (.callt d a b k) s = .next t ∧ UserTrap s t 8 (BitVec.ofNat 64 tgt) 0 s.cur.pc))) ∧
    ((s.g a).toNat % 8 ≠ 0 →
      (∃ t, exec (.jtab d a b) s = .next t ∧ KernelFault s t fALIGN (s.g a).toNat 0 0 0) ∧
      (s.cur.base + (k + 1) + 24 ≤ 65536 → (∀ e ∈ s.cur.pend, e.dest ≠ .scalar (8 + (s.cur.base + (k + 1) + 23) % 128)) →
        ∃ t, exec (.callt d a b k) s = .next t ∧ KernelFault s t fALIGN (s.g a).toNat 0 0 0)) ∧
    (65536 < s.cur.base + (k + 1) + 24 → ∃ t, exec (.callt d a b k) s = .next t ∧ KernelFault s t fILLEGAL 0 0 0 0) ∧
    (s.cur.base + (k + 1) + 24 ≤ 65536 → (∃ e ∈ s.cur.pend, e.dest = .scalar (8 + (s.cur.base + (k + 1) + 23) % 128)) →
      ∃ t, exec (.callt d a b k) s = .next t ∧ UserTrap s t 3 0 0 s.cur.pc) ∧
    (s.cur.base + (k + 1) + 24 ≤ 65536 → (∀ e ∈ s.cur.pend, e.dest ≠ .scalar (8 + (s.cur.base + (k + 1) + 23) % 128)) →
      (s.g a).toNat % 8 = 0 → 128 < s.cur.base + (k + 1) + 24 - s.cur.low →
      ∃ t, exec (.callt d a b k) s = .next t ∧ UserTrap s t 1 0 0 s.cur.pc)

open Sys2Proof Sys2Proof.Machine Sys2Proof.Claims in
/-- R298: PAD changes no state; R300, R302: REP whose target may repeat puts the repetition in progress with the program
counter at the REP, and raises ILLEGAL at itself for a mask bit that names no field or a target that may not repeat, which
no word of a format without fields may. Said of a target that is fetched, and again of one that the quad's instruction cache
holds; R142: a follower of a gang does not look at the target. -/
def Obligations.PadAndRep : Prop :=
  ∀ (s s1 : State) (lab nm1 mask w : Nat),
    (∃ t, exec (.pad lab) s = .next t ∧ ThreadIs s t (issued s.cur 4)) ∧
    (nm1 < 64 → mask < 8 → s.following = false → s.fetchWord s.curH s.curSlot (s.cur.pc + 4).toNat = .ok s1 w →
      (MayRepeat w mask → ∃ t, exec (.rep nm1 mask) s = .next t ∧ OnlyThread s1 t ∧ t.cur = repeating s1.cur nm1 mask) ∧
      (¬ MayRepeat w mask → ∃ t, exec (.rep nm1 mask) s = .next t ∧ KernelFault s1 t fILLEGAL 0 0 0 0)) ∧
    (nm1 < 64 → mask < 8 → s.following = false → s.cur.fetched.lookup (s.cur.pc + 4).toNat = none →
      CachedWord s (s.cur.pc + 4).toNat w →
      (MayRepeat w mask → ∃ t, exec (.rep nm1 mask) s = .next t ∧ ThreadIs s t (repeating s.cur nm1 mask)) ∧
      (¬ MayRepeat w mask → ∃ t, exec (.rep nm1 mask) s = .next t ∧ KernelFault s t fILLEGAL 0 0 0 0)) ∧
    (nm1 < 64 → mask < 8 → s.following = true →
      ∃ t, exec (.rep nm1 mask) s = .next t ∧ ThreadIs s t (repeating s.cur nm1 mask))

open Sys2Proof Sys2Proof.Machine Sys2Proof.Claims in
/-- R300, R301: a repetition steps exactly the register fields that the mask names, by the number of repetitions done, whichever
format the target has; a field that leaves its range gives no word. R302: while a repetition is in progress at a REP, the word
that issues is the target so stepped, and ILLEGAL at the REP where there is none. A J or RET that software has made the target,
which REP refuses, leaves the program counter to the repetition's own rule (the model's reading, DEDUCED in log 85). -/
def Obligations.RepetitionSteps : Prop :=
  (∀ (w mask j : Nat) (fs : List (Nat × Nat)), MaskNames w fs → mask < 2 ^ fs.length →
    (¬ StepsOut w mask j fs → stepWord w mask j (stepFields w) 0 = some (w + j * maskStep mask fs)) ∧
    (StepsOut w mask j fs → stepWord w mask j (stepFields w) 0 = none)) ∧
  (∀ (s s1 s2 : State) (w1 w2 nm1 mask : Nat) (fs : List (Nat × Nat)), repAct s.cur.rep = true →
    s.fetchWord s.curH s.curSlot s.cur.pc.toNat = .ok s1 w1 → decodeFetched w1 = .ok (.rep nm1 mask) →
    s1.fetchWord s.curH s.curSlot (s.cur.pc + 4).toNat = .ok s2 w2 → MaskNames w2 fs → repMask s.cur.rep < 2 ^ fs.length →
    (¬ StepsOut w2 (repMask s.cur.rep) (repNm1 s.cur.rep + 1 - repRem s.cur.rep) fs →
      s.nextWord = .word s2 (w2 + (repNm1 s.cur.rep + 1 - repRem s.cur.rep) * maskStep (repMask s.cur.rep) fs)) ∧
    (StepsOut w2 (repMask s.cur.rep) (repNm1 s.cur.rep + 1 - repRem s.cur.rep) fs → s.nextWord = .illegal s2)) ∧
  (∀ (s : State) (off k : Nat) (dst : Word), repAct s.cur.rep = true → k = (s.g 31).toNat / 2 ^ 60 + 1 →
    dst = ((s.g 31).setWidth 57).signExtend 64 →
    (∃ t, exec (.j off) s = .next t ∧ ThreadIs s t (issued s.cur 4)) ∧
    (s.cur.low + k ≤ s.cur.base → dst.getLsbD 0 = false →
      ∃ t, exec .ret s = .next t ∧ ThreadIs s t { issued s.cur 4 with base := s.cur.base - k }))

open Sys2Proof Sys2Proof.Machine Sys2Proof.Claims in
/-- R296, R297: with the windows closed and the backing stack in the core's own local store, SPILLW writes the stack
entries LOW + WPROG to LOW + 15 to their slots and raises LOW by 16 and WBSP by 128, and FILLW reads the 16 entries below
LOW back and lowers both; every other byte and register keeps its value. A window that would be spilled, or a fill with
nothing spilled or no room, is ILLEGAL, and a WBSP that is not a multiple of 8 is ALIGN. -/
def Obligations.SpillAndFill : Prop :=
  ∀ (s0 s : State) (off : Nat), WindowsClose s0 s → Memory.wf s.mem = true → s.accReady = true → s.cc.dq = [] →
    s.cc.slog = [] → s.cc.slogHeld = [] → s.cur.wprog < 16 →
    (s.cur.low + 16 ≤ s.cur.base → s.cur.low + 16 ≤ 65520 → s.cur.wbsp.toNat % 8 = 0 → spaceOf s.cur.wbsp.toNat = .ls off →
      off + 128 ≤ 65536 →
      ∃ t, exec .spillw s0 = .next t ∧
        (∀ i, s.cur.wprog ≤ i → i < 16 →
          t.rdN (lsLoc s.curH (off + 8 * i)) 8 = (s.cur.stk.val ((s.cur.low + i) % 128) 0).toNat) ∧
        (∀ a, ¬ (lsLoc s.curH (off + 8 * s.cur.wprog) ≤ a ∧ a < lsLoc s.curH (off + 128)) → t.rd8 a = s.rd8 a) ∧
        t.cur = { issued s.cur 4 with wbsp := s.cur.wbsp + 128, low := s.cur.low + 16, wprog := 0 }) ∧
    (s.cur.low ≠ 0 → s.cur.base + 40 - s.cur.low ≤ 128 → s.cur.wbsp.toNat % 8 = 0 →
      spaceOf (s.cur.wbsp - 128).toNat = .ls off → off + 128 ≤ 65536 →
      ∃ t, exec .fillw s0 = .next t ∧ (∀ a, t.rd8 a = s.rd8 a) ∧ t.cur.low = s.cur.low - 16 ∧
        t.cur.wbsp = s.cur.wbsp - 128 ∧ t.cur.wprog = 0 ∧ t.cur.pc = (issued s.cur 4).pc ∧
        (∀ i, s.cur.wprog ≤ i → i < 16 →
          t.cur.stk.val ((s.cur.low - 16 + i) % 128) 0 = BitVec.ofNat 64 (s.rdN (lsLoc s.curH (off + 8 * i)) 8)) ∧
        (∀ p, (∀ i, s.cur.wprog ≤ i → i < 16 → p ≠ 8 + (s.cur.low - 16 + i) % 128) → t.cur.rdPhys p = s.cur.rdPhys p)) ∧
    (s.cur.base < s.cur.low + 16 ∨ 65520 < s.cur.low + 16 → ∃ t, exec .spillw s0 = .next t ∧ KernelFault s t fILLEGAL 0 0 0 0) ∧
    (s.cur.low = 0 ∨ 128 < s.cur.base + 40 - s.cur.low → ∃ t, exec .fillw s0 = .next t ∧ KernelFault s t fILLEGAL 0 0 0 0) ∧
    (s.cur.low + 16 ≤ s.cur.base → s.cur.low + 16 ≤ 65520 → s.cur.wbsp.toNat % 8 ≠ 0 →
      ∃ t, exec .spillw s0 = .next t ∧ KernelFault s t fALIGN s.cur.wbsp.toNat 0 0 0) ∧
    (s.cur.low ≠ 0 → s.cur.base + 40 - s.cur.low ≤ 128 → s.cur.wbsp.toNat % 8 ≠ 0 →
      ∃ t, exec .fillw s0 = .next t ∧ KernelFault s t fALIGN s.cur.wbsp.toNat 0 0 0)

/-! ### Chapter 14: loads, stores, atomics, fences and barriers -/

namespace Sys2Proof.Claims

open Machine

/-- What each load, full/empty load and atomic with return asks for (R306 to R312): the destination field, the lookahead,
the width to sign-extend from (0 for zero extension) and the access. -/
def loadForm (i : Instr) (s : State) : Option (Nat × Nat × Nat × Acc) :=
  let ea := fun b off n => (BitVec.ofInt 64 ((s.g b).toNat + (BitVec.ofNat 8 off).toInt * (n : Nat))).toNat
  let strong := fun a sz k => { s.accOf (s.g a).toNat (2 ^ sz) k with strong := true }
  let amo := fun op d a sc ord n =>
    { s.accOf (s.g a).toNat n (.amo op true) with
      strong := true, acq := ord % 2 = 1, rel := 2 ≤ ord, sc := sc, ord := ord, data := (s.g d).toNat % 256 ^ n }
  let wd := fun sz => if sz = 0 then 4 else 8
  match i with
  | .ld d b sz off la => some (d, la, 8 * 2 ^ sz, s.accOf (ea b off (2 ^ sz)) (2 ^ sz) .load)
  | .ldu d b sz off la => some (d, la, 0, s.accOf (ea b off (2 ^ sz)) (2 ^ sz) .load)
  | .ldx d a sz la => some (d, la, 0, strong a sz .load)
  | .ldacq d a sc sz la => some (d, la, 0, { strong a sz .load with acq := true, sc := sc })
  | .ldf d a sc sz la => some (d, la, 0, { strong a (sz + 2) .ldf with acq := true, sc := sc })
  | .ldfE d a sc sz la => some (d, la, 0, { strong a (sz + 2) .ldfE with acq := true, sc := sc })
  | .amoadd d a sc ord sz la => some (d, la, 0, amo 0 d a sc ord (wd sz))
  | .amoand d a sc ord sz la => some (d, la, 0, amo 1 d a sc ord (wd sz))
  | .amoor d a sc ord sz la => some (d, la, 0, amo 2 d a sc ord (wd sz))
  | .amoxor d a sc ord sz la => some (d, la, 0, amo 3 d a sc ord (wd sz))
  | .amomin d a sc ord sz la => some (d, la, 0, amo 4 d a sc ord (wd sz))
  | .amomax d a sc ord sz la => some (d, la, 0, amo 5 d a sc ord (wd sz))
  | .amominu d a sc ord sz la => some (d, la, 0, amo 6 d a sc ord (wd sz))
  | .amomaxu d a sc ord sz la => some (d, la, 0, amo 7 d a sc ord (wd sz))
  | .amoswap d a sc ord sz la => some (d, la, 0, amo 8 d a sc ord (wd sz))
  | .amocas d a sc ord sz la =>
    some (d, la, 0, { amo 9 d a sc ord (wd sz) with data2 := (s.g (d + 1)).toNat % 256 ^ wd sz })
  | .amofadd d a sc ord sz la => some (d, la, 0, amo 10 d a sc ord (if sz = 0 then 4 else 2))
  | _ => none

/-- What each store and reduction asks for (R306 to R312). -/
def storeForm (i : Instr) (s : State) : Option Acc :=
  let ea := fun b off n => (BitVec.ofInt 64 ((s.g b).toNat + (BitVec.ofNat 8 off).toInt * (n : Nat))).toNat
  let strong := fun d a sz k =>
    { s.accOf (s.g a).toNat (2 ^ sz) k with strong := true, data := (s.g d).toNat % 256 ^ 2 ^ sz }
  let red := fun op d a sc ord n =>
    { s.accOf (s.g a).toNat n (.amo op false) with
      strong := true, acq := ord % 2 = 1, rel := 2 ≤ ord, sc := sc, ord := ord, data := (s.g d).toNat % 256 ^ n }
  let wd := fun sz => if sz = 0 then 4 else 8
  match i with
  | .st d b sz off => some { s.accOf (ea b off (2 ^ sz)) (2 ^ sz) .store with data := (s.g d).toNat % 256 ^ 2 ^ sz }
  | .stx d a sz => some (strong d a sz .store)
  | .strel d a sc sz => some { strong d a sz .store with rel := true, sc := sc }
  | .stf d a sc sz => some { strong d a (sz + 2) .stf with rel := true, sc := sc }
  | .amoaddNr d a sc ord sz => some (red 0 d a sc ord (wd sz))
  | .amoandNr d a sc ord sz => some (red 1 d a sc ord (wd sz))
  | .amoorNr d a sc ord sz => some (red 2 d a sc ord (wd sz))
  | .amoxorNr d a sc ord sz => some (red 3 d a sc ord (wd sz))
  | .amominNr d a sc ord sz => some (red 4 d a sc ord (wd sz))
  | .amomaxNr d a sc ord sz => some (red 5 d a sc ord (wd sz))
  | .amominuNr d a sc ord sz => some (red 6 d a sc ord (wd sz))
  | .amomaxuNr d a sc ord sz => some (red 7 d a sc ord (wd sz))
  | .amoswapNr d a sc ord sz => some (red 8 d a sc ord (wd sz))
  | .amofaddNr d a sc ord sz => some (red 10 d a sc ord (if sz = 0 then 4 else 2))
  | _ => none

/-- The contents that the access leaves in its `size` bytes, which held `old` (R306 to R312). -/
def newContents (k : AccKind) (size old x n : Nat) : Nat :=
  let signed := fun v => (BitVec.ofNat (8 * size) v).toInt
  match k with
  | .load | .ldf | .ldfE => old
  | .store | .stf => x
  | .amo op _ =>
    match op with
    | 0 => (old + x) % 256 ^ size
    | 1 => old &&& x
    | 2 => old ||| x
    | 3 => old ^^^ x
    | 4 => if signed old ≤ signed x then old else x
    | 5 => if signed old ≤ signed x then x else old
    | 6 => if old ≤ x then old else x
    | 7 => if old ≤ x then x else old
    | 8 => x
    | 9 => if old = x then n else old
    | _ => (let f := if size = 2 then bf16 else fp32
            f.round .rne false ((f.read old).add (f.read x))) % 256 ^ size

/-- The fence of a scope over the class `cls` of earlier accesses is done: no side-log entry of the thread is left, each
access of the class has reached the point of R194, and at `.pkg` and `.sys`, for a class with stores, the tokens are back
(R30). -/
def FenceDone (s : State) (sc : Nat) (cls : AccKind → Bool) : Prop :=
  s.slogPending s.curH s.curSlot = false ∧ s.reachedAll s.curH s.curSlot sc cls = true ∧
    (sc ≤ 2 ∨ cls .store = false ∨ ∃ m, s.cur.wait = .tokens m [])

/-- A window of the issuing thread holds the fault of an access or of a span instruction of the class. -/
def FaultWaits (s : State) (cls : AccKind → Bool) (p : Pend) : Prop :=
  (p.fault.isSome = true ∧ ∃ a ∈ p.retry, cls a.kind = true) ∨
    ∃ e ∈ s.cc.dq, e.slot = s.curSlot ∧ e.ent = p.id ∧ e.faulted = true ∧
      (cls .load = true ∧ e.reads ≠ [] ∨ cls .store = true ∧ e.writes ≠ [])

/-- Nothing holds the access at issue: no earlier acquire or reverse run, no fault of an earlier access that waits in a window,
no side-log entry of the thread or of its line, no dispatched span instruction; and for a release the fence of its half is
done and no acquire is on its way. -/
def MayIssue (s : State) (a : Acc) : Prop :=
  s.accReady = true ∧ (∀ e ∈ s.cur.pend, e.fault = none) ∧ s.slogPending s.curH s.curSlot = false ∧ s.cc.dq = [] ∧
    s.lineHeld s.curH (s.asidOf s.curH s.curSlot) (a.va / 64) = false ∧
    (a.rel = true → FenceDone s a.sc (fun _ => true) ∧ s.acqMoving s.curH s.curSlot = false)

/-- The bytes of `[loc, loc + size)` hold `v` and every other byte is as before. -/
def StoredAt (s t : State) (loc size v : Nat) : Prop :=
  t.rdN loc size = v ∧ ∀ x, x < loc ∨ loc + size ≤ x → t.rd8 x = s.rd8 x

/-- The words of `[loc, loc + size)` have the full bit `b` and every other word its old one. -/
def FullsAt (s t : State) (loc size : Nat) (b : Bool) : Prop :=
  ∀ x, t.full x = if loc / 4 ≤ x / 4 ∧ x / 4 < (loc + size) / 4 then b else s.full x

/-- A new window is open: its entry is the last of the table; no register has changed and the thread has issued. -/
def Opened (s t : State) (d la sxb missing value : Nat) : Prop :=
  (∃ e, t.cur.pend.getLast? = some e ∧ e.dest = (if d = 0 then .none else .scalar (s.cur.phys d)) ∧ e.cnt = la ∧
      e.missing = missing ∧ e.value = value ∧ e.sx = sxb ∧ e.fault = none ∧ e.lpc = s.cur.pc) ∧
    t.cur.pend.length = s.cur.pend.length + 1 ∧ (∀ p, t.cur.rdPhys p = s.cur.rdPhys p) ∧
    t.cur.pc = (issued s.cur 4).pc ∧ t.cur.rep = (issued s.cur 4).rep ∧ t.cur.st = s.cur.st ∧ t.cur.trap.act = s.cur.trap.act ∧
    t.sr = s.sr ∧ ∀ h, h ≠ s.curH → t.core h = s.core h

/-- The abutment holds a translation of the address for the issuing thread (R164). -/
def Cached (s : State) (va : Nat) (x : Xl) : Prop :=
  (s.xls.find? fun e => e.covers (abutOf s.curH) (s.asidOf s.curH s.curSlot) (s.tenantOf s.curH) va) = some x

/-- The access `b` in flight is `a` at the location `loc`. -/
def InFlight (a b : Acc) (loc : Nat) : Prop :=
  b.va = a.va ∧ b.size = a.size ∧ b.kind = a.kind ∧ b.data = a.data ∧ b.data2 = a.data2 ∧ b.loc = loc ∧ b.st = .issued ∧
    b.strong = a.strong ∧ b.acq = a.acq ∧ b.rel = a.rel ∧ b.sc = a.sc ∧ b.h = a.h ∧ b.slot = a.slot ∧ b.tenant = a.tenant

end Sys2Proof.Claims

open Sys2Proof Sys2Proof.Machine Sys2Proof.Claims in
/-- R306 to R309, R312 in the core's own local store: every load, LDF and LDF.E of full words, and atomic with return
opens its window at issue with the bytes read, zero- or sign-extended at its close; an atomic leaves the contents its
operation gives, LDF.E empties the words, and every other byte and full/empty bit is as before. -/
def Obligations.LocalLoads : Prop :=
  ∀ (i : Instr) (s : State) (d la sxb off : Nat) (a : Acc), loadForm i s = some (d, la, sxb, a) → i.wf = true →
    Memory.wf s.mem = true → MayIssue s a → s.cur.openG d = false → s.cur.pend.length < 4 → a.va % a.size = 0 →
    spaceOf a.va = .ls off → (a.kind = .ldf ∨ a.kind = .ldfE → s.allFull (lsLoc s.curH off) a.size = true) →
    ∃ t, exec i s = .next t ∧ Opened s t d la sxb 0 (s.rdN (lsLoc s.curH off) a.size) ∧
      StoredAt s t (lsLoc s.curH off) a.size
        (newContents a.kind a.size (s.rdN (lsLoc s.curH off) a.size) a.data a.data2) ∧
      (if a.kind = .ldfE then FullsAt s t (lsLoc s.curH off) a.size false else t.fe = s.fe)

open Sys2Proof Sys2Proof.Machine Sys2Proof.Claims in
/-- R306 to R309, R312 in the core's own local store: every store, STF and reduction leaves its contents in its bytes at
issue, STF with the words full, and changes no register and no other byte. Of an STF this is said where no request
waits. -/
def Obligations.LocalStores : Prop :=
  ∀ (i : Instr) (s : State) (off : Nat) (a : Acc), storeForm i s = some a → i.wf = true → Memory.wf s.mem = true →
    MayIssue s a → a.va % a.size = 0 → spaceOf a.va = .ls off → (∀ b ∈ s.accs, b.st ≠ .waiting) →
    ∃ t, exec i s = .next t ∧ { t.cur with acqs := s.cur.acqs } = issued s.cur 4 ∧
      StoredAt s t (lsLoc s.curH off) a.size
        (newContents a.kind a.size (s.rdN (lsLoc s.curH off) a.size) a.data a.data2) ∧
      (if a.kind = .stf then FullsAt s t (lsLoc s.curH off) a.size true else t.fe = s.fe) ∧ t.sr = s.sr ∧
      ∀ h, h ≠ s.curH → t.core h = s.core h

open Sys2Proof Sys2Proof.Machine Sys2Proof.Claims in
/-- R164, R168, R173, R304: a load, store, atomic or reduction whose address has a cached translation that grants what it
needs goes in flight to its home with its window open where it has one; a release has raised SCLK first. No byte of
memory and no register changes until its home performs it. That the location is fixed here is the model's reading (log 9), and
so is that a release raises SCLK whichever memory answers (log 21). -/
def Obligations.GlobalIssue : Prop :=
  ∀ (i : Instr) (s : State) (x : Xl) (a : Acc), i.wf = true → MayIssue s a → a.va % a.size = 0 →
    spaceOf a.va = .global → Cached s a.va x → a.kind.need.ok x = true → a.kind.badAt (x.at a.va) = false →
    s.moving (x.at a.va) = false → (s.watchedAt (x.at a.va) = true → s.acqDue s.curH s.curSlot = false) →
    s.cc.clkEx = false → (a.rel = true → s.cc.clockEx = false) →
    (∀ d la sxb, loadForm i s = some (d, la, sxb, a) → s.cur.openG d = false → s.cur.pend.length < 4 →
      ∃ t b, exec i s = .next t ∧ Opened s t d la sxb 1 0 ∧ t.accs = s.accs ++ [b] ∧ InFlight a b (x.at a.va) ∧
        (∃ e, t.cur.pend.getLast? = some e ∧ b.ent = e.id) ∧ t.mem = s.mem ∧ t.fe = s.fe ∧
        t.cc.sclk = s.cc.sclk + (if a.rel then 1 else 0) ∧ b.clk = t.cc.sclk) ∧
    (storeForm i s = some a → (a.strong = true ∨ s.watchedAt (x.at a.va) = false) →
      ∃ t b, exec i s = .next t ∧ { t.cur with acqs := s.cur.acqs } = issued s.cur 4 ∧ t.accs = s.accs ++ [b] ∧
        InFlight a b (x.at a.va) ∧ t.mem = s.mem ∧ t.fe = s.fe ∧
        t.cc.sclk = s.cc.sclk + (if a.rel then 1 else 0) ∧ b.clk = t.cc.sclk)

open Sys2Proof Sys2Proof.Machine Sys2Proof.Claims in
/-- R304: a load, store, atomic or reduction whose address is not a multiple of its size raises ALIGN at issue with no
effect, after LOOKAHEAD where its destination is that of an open window (R149, R153). -/
def Obligations.MisalignedAccess : Prop :=
  ∀ (i : Instr) (s : State) (a : Acc), i.wf = true → a.va % a.size ≠ 0 →
    (∀ d la sxb, loadForm i s = some (d, la, sxb, a) →
      (s.cur.openG d = false → ∃ t, exec i s = .next t ∧ KernelFault s t fALIGN a.va 0 0 0) ∧
      (s.cur.openG d = true → ∃ t, exec i s = .next t ∧ UserTrap s t 3 0 0 s.cur.pc)) ∧
    (storeForm i s = some a → ∃ t, exec i s = .next t ∧ KernelFault s t fALIGN a.va 0 0 0)

open Sys2Proof Sys2Proof.Machine Sys2Proof.Claims in
/-- R148, R152: when the windows of entries that have their values and no fault close, each destination register takes its
value, sign-extended from the entry's width or zero-extended, in the order of the table, and every register that is no
destination keeps its own. Stated of one closing window.
R153: a window that closes on an entry whose access faulted does not make its value visible: the fault is taken at the
closing instruction with the load's own address in LPC, the entry is kept, and every register keeps its value; that PENT
numbers the entries in the order of their issue is the model's reading (log 23). -/
def Obligations.WindowClose : Prop :=
  (∀ (s : State) (e : Pend), s.cur.pend = [e] → e.cnt = 0 → e.missing = 0 → e.fault = none → e.chan = none →
    ∃ s1, s.closeDue = .ready s1 ∧ s1.cur.pend = [] ∧ OnlyThread s s1 ∧
      (∀ p, e.dest = .scalar p → p ≠ 0 →
        s1.cur.rdPhys p = (if e.sx = 0 then BitVec.ofNat 64 e.value else (BitVec.ofNat e.sx e.value).signExtend 64) ∧
        ∀ q, q ≠ p → s1.cur.rdPhys q = s.cur.rdPhys q) ∧
      (∀ n, e.dest = .vector n → s1.cur.rdV n = BitVec.ofNat 2048 e.value ∧ ∀ q, s1.cur.rdPhys q = s.cur.rdPhys q) ∧
      (∀ n, e.dest = .ident n → (s1.cur.rdD n).toNat / 256 ^ 32 % 65536 = ((s.cur.rdD n).toNat / 256 ^ 32 % 65536 + 1) % 65536)) ∧
  ∀ (s : State) (e : Pend) (c a : Nat), s.cur.pend = [e] → e.cnt = 0 → e.missing = 0 → e.fault = some (.kernel c a) →
    ∃ s1, s.closeDue = .taken s1 ∧ KernelFault s s1 c a e.lpc 1 0 ∧ (∀ p, s1.cur.rdPhys p = s.cur.rdPhys p) ∧
      s1.cur.pend = [e]


open Sys2Proof Sys2Proof.Machine Sys2Proof.Claims in
/-- R194, R313: a FENCE whose class of earlier accesses has reached the point of its scope issues and does nothing else; at
`.pkg` and `.sys` it first sends its tokens, to the ordering points and pier groups and at `.sys` to the engines and the
host port too, but for FENCE.ld; while the accesses have not reached the point it stalls. That the whole thread stalls, and
that FENCE.ld needs no token, is the model's reading (log 26); so is that the fault of an earlier access, which waits in a
window, is taken at the fence, where the window closes (log 72). -/
def Obligations.Fences : Prop :=
  ∀ (i : Instr) (s : State) (sc : Nat) (cls : AccKind → Bool),
    (i = .fence sc ∧ cls = (fun _ => true) ∨ i = .fenceLd sc ∧ cls = AccKind.loads ∨ i = .fenceSl sc ∧ cls = AccKind.stores ∨
      i = .fenceSt sc ∧ cls = AccKind.stores) →
    (FenceDone s sc cls → ∃ t, exec i s = .next t ∧ ThreadIs s t (issued s.cur 4)) ∧
    (s.slogPending s.curH s.curSlot = true ∨ s.reachedAll s.curH s.curSlot sc cls = false →
      ∃ t, exec i s = .next t ∧ StallsClosing s t (FaultWaits s cls)) ∧
    (s.slogPending s.curH s.curSlot = false → s.reachedAll s.curH s.curSlot sc cls = true → 3 ≤ sc → i ≠ .fenceLd sc →
      s.cur.wait = .none →
      ∃ t, exec i s = .next t ∧
        ThreadIs s t { s.cur with wait := .tokens s.nextId (List.range (if sc = 3 then 16 else 18)) })

open Sys2Proof Sys2Proof.Machine Sys2Proof.Claims in
/-- R314, R315: at a level that may be named and is not already arrived at, BARA and the arrival of BAR and BAR.gen first
make the release of the barrier's scope, then raise SCLK and open the arrival; BARW, and BAR and BAR.gen once they have
arrived, end when no arrival at the level is still open, which closes it; while one is open all four stall. A level that may
not be named is ILLEGAL; which levels BAR.gen may name is the model's reading (log 27), and so is that an arrival waits for an
earlier acquire whose clock it has to carry (log 84). -/
def Obligations.Barriers : Prop :=
  ∀ (s : State) (lv : Nat),
    (s.levelOk lv = true →
      (s.cur.arrivedAt lv = false → s.relWaits = false → FenceDone s (s.barScope lv) (fun _ => true) → s.cc.clockEx = false →
        (∃ t, exec (.bara lv) s = .next t ∧ t.cc.sclk = s.cc.sclk + 1 ∧ { t.cur with arrivals := [] } = { issued s.cur 4 with arrivals := [] } ∧
          (∃ r, t.cur.arrivals.getLast? = some r ∧ r.level = lv ∧ r.clk = s.cc.sclk + 1 ∧ r.gen = false) ∧ t.mem = s.mem) ∧
        (lv = 0 → s.cur.wait ≠ .arrived → ∃ t, exec (.bar lv) s = .next t ∧ t.cc.sclk = s.cc.sclk + 1 ∧
          { t.cur with arrivals := [] } = { issued s.cur 4 with arrivals := [] } ∧ t.mem = s.mem) ∧
        (1 ≤ lv → s.cur.wait ≠ .arrived → ∃ t, exec (.bar lv) s = .next t ∧ t.cc.sclk = s.cc.sclk + 1 ∧ t.cur.wait = .arrived ∧ t.cur.pc = s.cur.pc ∧
          (∃ r, t.cur.arrivals.getLast? = some r ∧ r.level = lv ∧ r.clk = s.cc.sclk + 1 ∧ r.gen = false) ∧ t.mem = s.mem) ∧
        (1 ≤ lv → s.genLevelOk lv = true → s.cur.wait ≠ .arrived → ∃ t, exec (.barGen lv) s = .next t ∧ t.cc.sclk = s.cc.sclk + 1 ∧ t.cur.wait = .arrived ∧
          t.cur.pc = s.cur.pc ∧ (∃ r, t.cur.arrivals.getLast? = some r ∧ r.level = lv ∧ r.clk = s.cc.sclk + 1 ∧ r.gen = true) ∧
          t.mem = s.mem)) ∧
      (s.cur.arrivedAt lv = false →
        (∃ t, exec (.barw lv) s = .next t ∧
          ThreadIs s t { issued s.cur 4 with arrivals := s.cur.arrivals.filter fun r => decide (r.level ≠ lv) }) ∧
        (s.cur.wait = .arrived →
          (∃ t, exec (.bar lv) s = .next t ∧
            ThreadIs s t { issued s.cur 4 with arrivals := s.cur.arrivals.filter fun r => decide (r.level ≠ lv) }) ∧
          (s.genLevelOk lv = true → ∃ t, exec (.barGen lv) s = .next t ∧
            ThreadIs s t { issued s.cur 4 with arrivals := s.cur.arrivals.filter fun r => decide (r.level ≠ lv) }))) ∧
      (s.cur.arrivedAt lv = true → exec (.barw lv) s = .next s ∧ exec (.bara lv) s = .next s ∧ exec (.bar lv) s = .next s ∧
        (s.genLevelOk lv = true → exec (.barGen lv) s = .next s)) ∧
      (s.relWaits = true → exec (.bara lv) s = .next s ∧
        (s.cur.wait ≠ .arrived → exec (.bar lv) s = .next s ∧ (s.genLevelOk lv = true → exec (.barGen lv) s = .next s)))) ∧
    (s.levelOk lv = false → (∃ t, exec (.bara lv) s = .next t ∧ KernelFault s t fILLEGAL 0 0 0 0) ∧
      (∃ t, exec (.barw lv) s = .next t ∧ KernelFault s t fILLEGAL 0 0 0 0) ∧
      (∃ t, exec (.bar lv) s = .next t ∧ KernelFault s t fILLEGAL 0 0 0 0) ∧
      (∃ t, exec (.barGen lv) s = .next t ∧ KernelFault s t fILLEGAL 0 0 0 0)) ∧
    (s.genLevelOk lv = false → ∃ t, exec (.barGen lv) s = .next t ∧ KernelFault s t fILLEGAL 0 0 0 0)

open Sys2Proof Sys2Proof.Machine Sys2Proof.Claims in
/-- R316: SCLK writes the core's synchronisation clock, zero-extended, and SCLK.inc first adds 1 to it, raising CLOCKEX
where that would reach 0xFF_FFFF or the core is clock-exhausted. -/
def Obligations.ReadSynchronisationClock : Prop :=
  ∀ (s : State) (d : Nat), d < 32 → s.cur.openG d = false →
    (∃ t, exec (.sclk d) s = .next t ∧ Wrote s t d 4 (BitVec.ofNat 64 s.cc.sclk)) ∧
    (s.cc.clkEx = false → s.cc.sclk + 1 ≠ 0xFFFFFF →
      ∃ t, exec (.sclkInc d) s = .next t ∧ RegWritten s.cur t.cur d (BitVec.ofNat 64 (s.cc.sclk + 1)) ∧
        { t.cur with g := s.cur.g, stk := s.cur.stk } = issued s.cur 4 ∧
        t.cc = { s.cc with sclk := s.cc.sclk + 1, threads := t.cc.threads } ∧ t = { s with cores := t.cores }) ∧
    (s.cc.clkEx = true ∨ s.cc.sclk + 1 = 0xFFFFFF → ∃ t, exec (.sclkInc d) s = .next t ∧ KernelFault s t fCLOCKEX 0 0 0 0)

/-! ### Chapter 15: messages, copies and completion tags -/

namespace Sys2Proof.Claims

open Machine

/-- The pair that PMRG writes for the pairs of two doublewords (R324). -/
def mergedPair (x y : Word) : Word :=
  let rd := fun (w : Word) hi lo => fp32.read (wbits w hi lo)
  let ma := rd x 31 0
  let sa := rd x 63 32
  let mb := rd y 31 0
  let sb := rd y 63 32
  let out := fun (m v : FVal) => BitVec.ofNat 64 (fp32.round .rne false v * 2 ^ 32 + fp32.round .rne false m)
  if [ma, sa, mb, sb].any FVal.isNan || decide (ma = .inf false) || decide (mb = .inf false) then out .nan .nan
  else if ma = .inf true then (if mb = .inf true then out (.inf true) (.fin false 0 0) else y)
  else if mb = .inf true then x
  else
    let big := ma.larger mb
    let scale := fun (v : FVal) => fp32.read (fp32.round .rne false (v.add big.neg).exp2)
    out big ((sa.mul (scale ma)).add (sb.mul (scale mb)))

/-- No waiting RECV of the thread asks for channel `c`. -/
def NoTaker (th : Thread) (c : Nat) : Prop := ∀ e ∈ th.pend ++ th.trap.pend, e.chan = some c → e.missing = 0

/-- The issuing thread has stalled: nothing has changed but when its open windows close. -/
def Stalled (s t : State) : Prop := { t.cur with pend := s.cur.pend } = s.cur ∧ OnlyThread s t

/-- The issuing thread has stalled with a descriptor that it keeps: nothing else has changed but when its open windows close. -/
def StalledWith (s t : State) (r : Nat) : Prop :=
  { t.cur with pend := s.cur.pend, wait := s.cur.wait } = s.cur ∧ t.cur.wait = .desc r ∧ OnlyThread s t

/-- What CPY and CPYM do once they have read the descriptor `r` at `a`, which leaves `s1` (R325, R326). -/
def CopyStarts (i : Instr) (s s1 : State) (a r : Nat) (multi : Bool) : Prop :=
  ((∀ f ∈ [(0, 8), (8, 8), (20, 4), (24, 4), (28, 4)], recField r f.1 f.2 % 4 = 0) →
    (s1.copyOk (s.accOf (s.g a).toNat 64 .load) r multi = true →
      (s1.cc.copies.length < 8 → (∀ c ∈ s1.cc.copies, c.tag ≠ recField r 32 1) →
        s1.slogPending s1.curH s1.curSlot = false → s1.copyHeld (s.accOf (s.g a).toNat 64 .load) r = false →
        ∃ t c, exec i s = .next t ∧ t.cc.copies = s1.cc.copies ++ [c] ∧ c.src = recField r 0 8 ∧ c.dst = recField r 8 8 ∧
          c.rows = recField r 16 4 ∧ c.rbytes = recField r 20 4 ∧ c.spitch = recField r 24 4 ∧ c.dpitch = recField r 28 4 ∧
          c.tag = recField r 32 1 ∧ c.row = 0 ∧
          c.targets = (if multi then (List.range (recField r 34 2)).map (recField r 36 2 + ·) else []) ∧
          t.cc.ctag = s1.cc.ctag &&& ~~~(BitVec.ofNat 64 (2 ^ recField r 32 1)) ∧
          t.cc.ctagErr = s1.cc.ctagErr &&& ~~~(BitVec.ofNat 64 (2 ^ recField r 32 1)) ∧
          t.cur = issued s1.cur 4 ∧ t.mem = s1.mem) ∧
      (8 ≤ s1.cc.copies.length ∨ (∃ c ∈ s1.cc.copies, c.tag = recField r 32 1) ∨ s1.slogPending s1.curH s1.curSlot = true ∨
          s1.copyHeld (s.accOf (s.g a).toNat 64 .load) r = true →
        ∃ t, exec i s = .next t ∧ StalledWith s1 t r)) ∧
    (s1.copyOk (s.accOf (s.g a).toNat 64 .load) r multi = false → ∃ t, exec i s = .next t ∧ KernelFault s1 t fPERM 0 0 0 0)) ∧
  ((∃ f ∈ [(0, 8), (8, 8), (20, 4), (24, 4), (28, 4)], recField r f.1 f.2 % 4 ≠ 0) →
    ∃ t, exec i s = .next t ∧ KernelFault s1 t fALIGN 0 0 0 0)

end Sys2Proof.Claims

open Sys2Proof Sys2Proof.Machine Sys2Proof.Claims in
/-- R318, R320: SEND to a resident receiver, with its previous message accepted, no earlier acquire that it has to wait for
(the model's reading, DEDUCED in log 84) and its release done, raises SCLK and
offers the payload with the core's NXM and the new clock: a channel that holds fewer than four messages takes it at its
end, and a full one keeps it as a waiting offer that holds the sender's next SEND, which then stalls. One to a share that
has not begun waits until it begins. A clock-exhausted core's SEND is CLOCKEX, and a destination that R318 refuses is PERM. -/
def Obligations.SendMessage : Prop :=
  ∀ (s : State) (d a h k c : Nat), k = wbits (s.g a) 17 16 → c = wbits (s.g a) 22 20 →
    (s.sendPlace (s.g a) = some (.at h) → s.cc.clockEx = false → s.cur.offer = 0 → s.relWaits = false →
      FenceDone s (scopeOf s.curH h) (fun _ => true) → (s.thr h k).offers.val c [] = [] → NoTaker (s.thr h k) c →
      ∃ t m, exec (.send d a) s = .next t ∧ m.payload = s.g d ∧ m.nxm = s.cc.nxm ∧ m.clk = s.cc.sclk + 1 ∧
        t.cc.sclk = s.cc.sclk + 1 ∧ t.cur.pc = (issued s.cur 4).pc ∧ (∀ p, t.cur.rdPhys p = s.cur.rdPhys p) ∧ t.mem = s.mem ∧
        (((s.thr h k).chans.val c []).length < 4 → t.cur.offer = 0 ∧
          (t.thr h k).chans.val c [] = (s.thr h k).chans.val c [] ++ [m]) ∧
        (4 ≤ ((s.thr h k).chans.val c []).length → t.cur.offer = m.id ∧ (t.thr h k).offers.val c [] = [m] ∧
          (t.thr h k).chans.val c [] = (s.thr h k).chans.val c [])) ∧
    (∀ p, s.sendPlace (s.g a) = some p → s.cc.clockEx = false → (s.cur.offer ≠ 0 ∨ s.relWaits = true) →
      exec (.send d a) s = .next s) ∧
    (∀ p, s.sendPlace (s.g a) = some p → s.cc.clockEx = true → ∃ t, exec (.send d a) s = .next t ∧ KernelFault s t fCLOCKEX 0 0 0 0) ∧
    (∀ sh, s.cc.share = some sh → s.sendPlace (s.g a) = some (.early h) → s.cc.clockEx = false → s.cur.offer = 0 → s.relWaits = false →
      FenceDone s (scopeOf s.curH h) (fun _ => true) →
      ∃ t m, exec (.send d a) s = .next t ∧ m.payload = s.g d ∧ m.nxm = s.cc.nxm ∧ m.clk = s.cc.sclk + 1 ∧
        t.cc.sclk = s.cc.sclk + 1 ∧ t.cur.offer = m.id ∧ t.cur.pc = (issued s.cur 4).pc ∧
        (∀ l ∈ t.launches, l.q = sh.q → l.lhead = sh.lhead →
          l.early.getLast? = some { k := wbits (s.g a) 12 0, slot := k, chan := c, m := m })) ∧
    (s.sendPlace (s.g a) = none → ∃ t, exec (.send d a) s = .next t ∧ KernelFault s t fPERM 0 0 0 0)


open Sys2Proof Sys2Proof.Machine Sys2Proof.Claims in
/-- R321: RECV opens its window on the channel and takes the message at its head when there is one, waiting otherwise;
the window keeps the NXM under which it was issued (R264). RECVQ takes the head, acquires its clock and writes the payload,
stalls on an empty channel, and leaves a message whose tag differs from NXM at the head with the user trap NXMISMATCH, but not
at a re-execution under SUPP (R265). -/
def Obligations.ReceiveMessage : Prop :=
  ∀ (s : State) (d c la : Nat) (m : Msg) (rest : List Msg), d < 32 → c < 8 → la < 16 → s.cur.openG d = false →
    (s.cur.pend.length < 4 → NoTaker s.cur c →
      (s.cur.chans.val c [] = [] → ∃ t, exec (.recv d c la) s = .next t ∧ Opened s t d la 0 1 0 ∧ t.mem = s.mem ∧
        ∃ e, t.cur.pend.getLast? = some e ∧ e.chan = some c ∧ e.nxm = s.cc.nxm) ∧
      (s.cur.chans.val c [] = m :: rest → ∃ t, exec (.recv d c la) s = .next t ∧ Opened s t d la 0 0 m.payload.toNat ∧
        t.cur.chans.val c [] = rest ∧ t.cc.sclk = max s.cc.sclk m.clk ∧ t.mem = s.mem ∧
        ∃ e, t.cur.pend.getLast? = some e ∧ e.chan = some c ∧ e.msgTag = m.nxm ∧ e.nxm = s.cc.nxm)) ∧
    (s.cur.chans.val c [] = m :: rest → (m.nxm = s.cc.nxm ∨ s.cur.supp = true) →
      ∃ t, exec (.recvq d c) s = .next t ∧ RegWritten s.cur t.cur d m.payload ∧ t.cur.chans.val c [] = rest ∧
        t.cc.sclk = max s.cc.sclk m.clk ∧ t.cur.pc = (issued s.cur 4).pc ∧ t = { s with cores := t.cores }) ∧
    (s.cur.chans.val c [] = [] → exec (.recvq d c) s = .next s) ∧
    (s.cur.chans.val c [] = m :: rest → m.nxm ≠ s.cc.nxm → s.cur.supp = false →
      ∃ t, exec (.recvq d c) s = .next t ∧ UserTrap s t 4 0 0 s.cur.pc ∧ t.cur.chans = s.cur.chans)

open Sys2Proof Sys2Proof.Machine Sys2Proof.Claims in
/-- R324: PMRG writes the merged pair, whichever pairs it reads, and merging is commutative. -/
def Obligations.PairMerge : Prop :=
  ∀ (s : State) (d a b : Nat), d < 32 → s.cur.openG d = false →
    (∃ t, exec (.pmrg d a b) s = .next t ∧ Wrote s t d 4 (mergedPair (s.g a) (s.g b))) ∧
    mergedPair (s.g a) (s.g b) = mergedPair (s.g b) (s.g a)

open Sys2Proof Sys2Proof.Machine Sys2Proof.Claims in
/-- R325, R326: CPY and CPYM whose descriptor is read and passes its checks clear the tag's DONE and ERR bits and put
exactly one copy in flight with the descriptor's fields, CPYM also waiting at each target's core; an address that is not a
multiple of 64, or a field that must be a multiple of 4 and is not, is ALIGN, and a descriptor that fails the other checks
is PERM, with no effect. Eight copies in flight, or one with the same tag, a side-log entry of the thread, or a range that the
side log or a span instruction holds, stall the instruction, which keeps what it has read: it goes on with that descriptor and
reads it once. Said of a descriptor wherever it is read, and of one in the core's own local store. -/
def Obligations.StartCopy : Prop :=
  ∀ (i : Instr) (s s1 : State) (a r : Nat) (multi : Bool), (i = .cpy a ∧ multi = false ∨ i = .cpym a ∧ multi = true) →
    (s.accReady = true → s.dqOwn (s.g a).toNat 64 = false → (∀ q, s.cur.wait ≠ .desc q) → (s.g a).toNat % 64 = 0 → s.accessNow (s.accOf (s.g a).toNat 64 .load) = .ok s1 (.value r) →
      CopyStarts i s s1 a r multi) ∧
    (∀ off, s.accReady = true → s.loadHeld (s.accOf (s.g a).toNat 64 .load) = false → (∀ q, s.cur.wait ≠ .desc q) →
      (s.g a).toNat % 64 = 0 → spaceOf (s.g a).toNat = .ls off →
      CopyStarts i s s a (s.rdN (lsLoc s.curH off) 64) multi) ∧
    ((s.g a).toNat % 64 = 0 → s.cur.wait = .desc r → CopyStarts i s s a r multi) ∧
    ((s.g a).toNat % 64 ≠ 0 → ∃ t, exec i s = .next t ∧ KernelFault s t fALIGN (s.g a).toNat 0 0 0)


open Sys2Proof Sys2Proof.Machine Sys2Proof.Claims in
/-- R327: PERMIT writes the count before the change; a length of 0 clears the count and the window, another length sets the
window and raises the count, which stops at 255; a bound that is not a multiple of 4 is ALIGN and a window past the local
store is PERM.
R328: CTWAIT writes the set tags of its mask once one of them is set, CTWAIT.all once all are, both at once for a mask
of 0, and stall before (that a fault of the same thread for which the copy waits is taken at the CTWAIT is the model's
reading, log 72); CTFF writes the lowest set tag of the mask, or 64, and never waits; CTCLR clears the mask's tag and error
bits, which a WAIT of another thread then finds risen when they are set again (R399). -/
def Obligations.PermitAndTags : Prop :=
  (∀ (s : State) (d a b off len : Nat), d < 32 → s.cur.openG d = false → off = (s.g a).toNat % 65536 →
    len = (s.g a).toNat / 65536 % 131072 →
    (off % 4 = 0 → len % 4 = 0 → (len = 0 ∨ len ≤ 65536 ∧ off + len ≤ 65536) →
      ∃ t, exec (.permit d a b) s = .next t ∧ RegWritten s.cur t.cur d (BitVec.ofNat 64 s.cc.pcount) ∧
        { t.cur with g := s.cur.g, stk := s.cur.stk } = issued s.cur 4 ∧ t = { s with cores := t.cores } ∧
        t.cc = { s.cc with
          threads := t.cc.threads
          permit := if len = 0 then none else some (off, len)
          pcount := if len = 0 then 0 else min (s.cc.pcount + (s.g b).toNat % 256) 255 }) ∧
    (off % 4 ≠ 0 ∨ len % 4 ≠ 0 → ∃ t, exec (.permit d a b) s = .next t ∧ KernelFault s t fALIGN 0 0 0 0) ∧
    (off % 4 = 0 → len % 4 = 0 → len ≠ 0 → 65536 < off + len →
      ∃ t, exec (.permit d a b) s = .next t ∧ KernelFault s t fPERM 0 0 0 0)) ∧
  ∀ (s : State) (d a : Nat), d < 32 → s.cur.openG d = false →
    (s.g a = 0 ∨ s.cc.ctag &&& s.g a ≠ 0 → ∃ t, exec (.ctwait d a) s = .next t ∧ Wrote s t d 4 (s.cc.ctag &&& s.g a)) ∧
    (s.cc.ctag &&& s.g a = s.g a → ∃ t, exec (.ctwaitAll d a) s = .next t ∧ Wrote s t d 4 (s.g a)) ∧
    (∀ i, (i = .ctwait d a ∧ s.g a ≠ 0 ∧ s.cc.ctag &&& s.g a = 0) ∨ (i = .ctwaitAll d a ∧ s.cc.ctag &&& s.g a ≠ s.g a) →
      ∃ t, exec i s = .next t ∧ StallsClosing s t fun p =>
        (∃ c ∈ s.cc.copies, c.slot = s.curSlot ∧ (s.g a).getLsbD c.tag = true) ∧ FaultWaits s (fun _ => true) p) ∧
    (∃ t v, exec (.ctff d a) s = .next t ∧ Wrote s t d 4 (BitVec.ofNat 64 v) ∧
      ((s.cc.ctag &&& s.g a = 0 ∧ v = 64) ∨
        (v < 64 ∧ (s.cc.ctag &&& s.g a).getLsbD v = true ∧ ∀ k, k < v → (s.cc.ctag &&& s.g a).getLsbD k = false))) ∧
    (∃ t, exec (.ctclr a) s = .next t ∧ t = { s with cores := t.cores } ∧ t.cur = issued s.cur 4 ∧
      t.cc = { s.cc with ctag := s.cc.ctag &&& ~~~(s.g a), ctagErr := s.cc.ctagErr &&& ~~~(s.g a), threads := t.cc.threads } ∧
      ∀ k t0 m e x o, k ≠ s.curSlot → (s.thr s.curH k).wait = .waitSince t0 m e x o →
        (t.thr s.curH k).wait = .waitSince t0 (m &&& ~~~(s.g a)) e x o)

/-! ### Chapters 16 and 17: vector instructions -/

namespace Sys2Proof.Claims

open Machine

/-- Lane `i` of `n` bytes of vector register `r` of the issuing thread (R329). -/
def vlane (s : State) (r n i : Nat) : Nat := (s.cur.rdV r).toNat / 256 ^ (n * i) % 256 ^ n

/-- Lane `i` of `n` bytes is active under predicate `p`; p0 reads as all-true (R330). -/
def Active (s : State) (p n i : Nat) : Bool := decide (p = 0) || (s.cur.rdP p).getLsbD (i * n)

/-- A lane as a signed value of `w` bits, and the `w`-bit lane of a signed value. -/
def S (w x : Nat) : Int := (BitVec.ofNat w x).toInt
def L (w : Nat) (z : Int) : Nat := (BitVec.ofInt w z).toNat

/-- A signed value clamped to the range of `w` bits. -/
def clampS (w : Nat) (z : Int) : Int := max (-(2 ^ (w - 1) : Int)) (min z (2 ^ (w - 1) - 1))

/-- The instruction wrote vector register `d`, its lane `i` of `n` bytes with `g i`, and did nothing else but issue. -/
def VWrote (s t : State) (d len n : Nat) (g : Nat → Nat) : Prop :=
  (∀ i, i < 256 / n → vlane t d n i = g i) ∧ (∀ m, m ≠ d → t.cur.rdV m = s.cur.rdV m) ∧
    { t.cur with v := s.cur.v } = issued s.cur len ∧ OnlyThread s t

/-- The instruction wrote predicate register `d`, its bit `j` with `g j` (p0 discards), and did nothing else but issue. -/
def PWrote (s t : State) (d : Nat) (g : Nat → Bool) : Prop :=
  (d ≠ 0 → ∀ j, j < 256 → (t.cur.rdP d).getLsbD j = g j) ∧ (∀ m, m ≠ d ∨ d = 0 → t.cur.rdP m = s.cur.rdP m) ∧
    { t.cur with p := s.cur.p } = issued s.cur 4 ∧ OnlyThread s t

/-- What a lane reduction does to an accumulator, and where it starts (R338). -/
def reduce (op w x y : Nat) : Nat :=
  match op with
  | 0 => (x + y) % 2 ^ w
  | 1 => if S w x ≤ S w y then x else y
  | 2 => if S w x ≤ S w y then y else x
  | 3 => if x ≤ y then x else y
  | 4 => if x ≤ y then y else x
  | 5 => x &&& y
  | 6 => x ||| y
  | _ => x ^^^ y

def reduceFrom (op w : Nat) : Nat :=
  match op with
  | 1 => 2 ^ (w - 1) - 1
  | 2 => 2 ^ (w - 1)
  | 3 => 2 ^ w - 1
  | 5 => 2 ^ w - 1
  | _ => 0

/-- The reduction of the active lanes below `k`. -/
def reduced (s : State) (op n p a k : Nat) : Nat :=
  ((List.range k).filter (Active s p n)).foldl (fun acc i => reduce op (8 * n) acc (vlane s a n i)) (reduceFrom op (8 * n))

/-- The lanes that an integer vector instruction writes: destination, length, lane size, predicate, merge or zero, and the
value of an active lane (R333, R334, R336 to R338, R247). -/
def vecResult (i : Instr) (s : State) : Option (Nat × Nat × Nat × Nat × Nat × (Nat → Nat)) :=
  let op := fun d a b p z t len (f : Nat → Nat → Nat → Nat) =>
    some (d, len, 2 ^ t, p, z, fun k => f (8 * 2 ^ t) (vlane s a (2 ^ t) k) (vlane s b (2 ^ t) k) % 256 ^ 2 ^ t)
  match i with
  | .vmov d _ b p z t => op d b b p z t 4 fun _ _ y => y
  | .vadd d a b p z t => op d a b p z t 4 fun w x y => L w (S w x + S w y)
  | .vsub d a b p z t => op d a b p z t 4 fun w x y => L w (S w x - S w y)
  | .vmul d a b p z t => op d a b p z t 4 fun _ x y => x * y
  | .vmulh d a b p z t => op d a b p z t 4 fun w x y => L w (S w x * S w y / 2 ^ w)
  | .vmulhU d a b p z t => op d a b p z t 4 fun w x y => x * y / 2 ^ w
  | .vmin d a b p z t => op d a b p z t 4 fun w x y => L w (min (S w x) (S w y))
  | .vmax d a b p z t => op d a b p z t 4 fun w x y => L w (max (S w x) (S w y))
  | .vminU d a b p z t => op d a b p z t 4 fun _ x y => if x ≤ y then x else y
  | .vmaxU d a b p z t => op d a b p z t 4 fun _ x y => if x ≤ y then y else x
  | .vaddSat d a b p z t => op d a b p z t 4 fun w x y => L w (clampS w (S w x + S w y))
  | .vsubSat d a b p z t => op d a b p z t 4 fun w x y => L w (clampS w (S w x - S w y))
  | .vand d a b p z t => op d a b p z t 4 fun _ x y => x &&& y
  | .vor d a b p z t => op d a b p z t 4 fun _ x y => x ||| y
  | .vxor d a b p z t => op d a b p z t 4 fun _ x y => x ^^^ y
  | .vshl d a b p z t => op d a b p z t 4 fun w x y => x * 2 ^ (y % w)
  | .vshr d a b p z t => op d a b p z t 4 fun w x y => x / 2 ^ (y % w)
  | .vsar d a b p z t => op d a b p z t 4 fun w x y => L w (S w x / 2 ^ (y % w))
  | .vabs d a p z t => op d a a p z t 4 fun w x _ => L w (S w x).natAbs
  | .vabsSat d a p z t => op d a a p z t 4 fun w x _ => L w (clampS w (S w x).natAbs)
  | .vbcast d a p z t => some (d, 4, 2 ^ t, p, z, fun _ => (s.g a).toNat % 256 ^ 2 ^ t)
  | .vins d a b t =>
    some (d, 4, 2 ^ t, 0, 0, fun k => if k = (s.g b).toNat then (s.g a).toNat % 256 ^ 2 ^ t else vlane s d (2 ^ t) k)
  | .vperm d a b p z t =>
    some (d, 4, 2 ^ t, p, z, fun k =>
      if vlane s b (2 ^ t) k < 256 / 2 ^ t then vlane s a (2 ^ t) (vlane s b (2 ^ t) k) else 0)
  | .vscan d a p z t o => some (d, 4, 2 ^ t, p, z, fun k => reduced s o (2 ^ t) p a (k + 1))
  | .vmov16 d b g => op d d b g 0 0 2 fun _ _ y => y
  | .vadd16 d b g => op d d b g 0 2 2 fun w x y => L w (S w x + S w y)
  | .vsub16 d b g => op d d b g 0 2 2 fun w x y => L w (S w x - S w y)
  | .vmul16 d b g => op d d b g 0 2 2 fun _ x y => x * y
  | .vand16 d b g => op d d b g 0 2 2 fun _ x y => x &&& y
  | .vor16 d b g => op d d b g 0 2 2 fun _ x y => x ||| y
  | .vxor16 d b g => op d d b g 0 2 2 fun _ x y => x ^^^ y
  | .vmin16 d b g => op d d b g 0 2 2 fun w x y => L w (min (S w x) (S w y))
  | .vmax16 d b g => op d d b g 0 2 2 fun w x y => L w (max (S w x) (S w y))
  | .vshl16 d b g => op d d b g 0 2 2 fun w x y => x * 2 ^ (y % w)
  | .vsar16 d b g => op d d b g 0 2 2 fun w x y => L w (S w x / 2 ^ (y % w))
  | _ => none

/-- The smaller or larger of two codes, −0 below +0, a NaN giving way to a number (R348). -/
def fpPick (big : Bool) (f : Fmt) (x y : Nat) : Nat :=
  let a := f.read x
  let b := f.read y
  if a.isNan then (if b.isNan then f.nanCode else y)
  else if b.isNan then x
  else if a.lt b then (if big then y else x)
  else if b.lt a then (if big then x else y)
  else if (x.testBit (f.width - 1)) = big then y else x

/-- The lanes that a floating-point vector instruction writes (R347, R348, R247). -/
def fpLanes (i : Instr) (s : State) : Option (Nat × Nat × Nat × Nat × Nat × (Nat → Nat)) :=
  let op := fun d a b p z t len (f : Fmt → Nat → Nat → Nat → Nat) =>
    let fm := if t = 0 then bf16 else if t = 1 then fp16 else fp32
    let n := if t ≤ 1 then 2 else 4
    some (d, len, n, p, z, fun k => f fm (vlane s a n k) (vlane s b n k) (vlane s d n k) % 256 ^ n)
  let add := fun (f : Fmt) x y (_ : Nat) => f.round .rne false ((f.read x).add (f.read y))
  let sub := fun (f : Fmt) x y (_ : Nat) => f.round .rne false ((f.read x).add (f.read y).neg)
  let mul := fun (f : Fmt) x y (_ : Nat) => f.round .rne false ((f.read x).mul (f.read y))
  match i with
  | .vfadd d a b p z t => op d a b p z t 4 add
  | .vfsub d a b p z t => op d a b p z t 4 sub
  | .vfmul d a b p z t => op d a b p z t 4 mul
  | .vfmin d a b p z t => op d a b p z t 4 fun f x y _ => fpPick false f x y
  | .vfmax d a b p z t => op d a b p z t 4 fun f x y _ => fpPick true f x y
  | .vfma d a b p z t np na => op d a b p z t 4 fun f x y w =>
    let pr := (f.read x).mul (f.read y)
    f.round .rne false ((if np = 1 then pr.neg else pr).add (if na = 1 then (f.read w).neg else f.read w))
  | .vfadd16 d b g => op d d b g 0 2 2 add
  | .vfsub16 d b g => op d d b g 0 2 2 sub
  | .vfmul16 d b g => op d d b g 0 2 2 mul
  | .vfmin16 d b g => op d d b g 0 2 2 fun f x y _ => fpPick false f x y
  | .vfmax16 d b g => op d d b g 0 2 2 fun f x y _ => fpPick true f x y
  | _ => none

/-- The bits that an integer comparison or predicate instruction writes: destination, lane size, predicate, merge or zero,
and the value of an active lane (R334, R335). -/
def predResult (i : Instr) (s : State) : Option (Nat × Nat × Nat × Nat × (Nat → Bool)) :=
  let cmp := fun d a b p z t (f : Nat → Nat → Nat → Bool) =>
    some (d, 2 ^ t, p, z, fun k => f (8 * 2 ^ t) (vlane s a (2 ^ t) k) (vlane s b (2 ^ t) k))
  let all := fun a k => Active s a 1 k
  match i with
  | .vcmpEq d a b p z t => cmp d a b p z t fun _ x y => decide (x = y)
  | .vcmpNe d a b p z t => cmp d a b p z t fun _ x y => decide (x ≠ y)
  | .vcmpLt d a b p z t => cmp d a b p z t fun w x y => decide (S w x < S w y)
  | .vcmpGe d a b p z t => cmp d a b p z t fun w x y => decide (S w y ≤ S w x)
  | .vcmpLtu d a b p z t => cmp d a b p z t fun _ x y => decide (x < y)
  | .vcmpGeu d a b p z t => cmp d a b p z t fun _ x y => decide (y ≤ x)
  | .pand d a b => some (d, 1, 0, 0, fun k => all a k && all b k)
  | .por d a b => some (d, 1, 0, 0, fun k => all a k || all b k)
  | .pxor d a b => some (d, 1, 0, 0, fun k => all a k != all b k)
  | .pnot d a => some (d, 1, 0, 0, fun k => !all a k)
  | .pfirst d a t => some (d, 2 ^ t, 0, 0, fun k => Active s a (2 ^ t) k && (List.range k).all fun j => !Active s a (2 ^ t) j)
  | .vbound d a b t => some (d, 2 ^ t, 0, 0, fun k => decide ((s.g a).toNat + k < (s.g b).toNat))
  | _ => none

/-- The bits that a floating-point comparison writes (R348). -/
def fpPreds (i : Instr) (s : State) : Option (Nat × Nat × Nat × Nat × (Nat → Bool)) :=
  let fcmp := fun d a b p z t (f : FVal → FVal → Bool) =>
    let fm := if t = 0 then bf16 else if t = 1 then fp16 else fp32
    let n := if t ≤ 1 then 2 else 4
    some (d, n, p, z, fun k => f (fm.read (vlane s a n k)) (fm.read (vlane s b n k)))
  match i with
  | .vfcmpEq d a b p z t => fcmp d a b p z t fun x y => x.eqv y
  | .vfcmpNe d a b p z t => fcmp d a b p z t fun x y => !x.eqv y
  | .vfcmpLt d a b p z t => fcmp d a b p z t fun x y => x.lt y
  | .vfcmpLe d a b p z t => fcmp d a b p z t fun x y => x.lt y || x.eqv y
  | .vfcmpGt d a b p z t => fcmp d a b p z t fun x y => y.lt x
  | .vfcmpGe d a b p z t => fcmp d a b p z t fun x y => y.lt x || x.eqv y
  | .vfcmpUn d a b p z t => fcmp d a b p z t fun x y => x.isNan || y.isNan
  | _ => none

/-- An instruction of majors 0x24 to 0x26 has joined its core's dispatch queue with what it captured (R136, R344); no
register has changed. -/
def Dispatched (s t : State) (i : Instr) (len : Nat) : Prop :=
  (∃ q, t.cc.dq = s.cc.dq ++ [q] ∧ q.i = i ∧ q.slot = s.curSlot ∧ q.ent = 0 ∧ q.nxm = s.cc.nxm ∧ q.pc = s.cur.pc) ∧
    t.cur = issued s.cur len ∧ t.mem = s.mem ∧ t.sr = s.sr ∧ ∀ h, h ≠ s.curH → t.core h = s.core h

/-- The span has nothing to do for the quad's cores, and may start what the issuing thread dispatches (R21, R69, R126, R136). -/
def SpanFree (s : State) : Prop :=
  (∀ h, h / 4 = s.curH / 4 → (s.core h).dq = []) ∧ s.cc.quiesce = false ∧ s.cc.replay = [] ∧ s.poolFatal = false ∧
    s.relocking ≠ some (dieOf s.curH)

/-- SPAN_ENTRY_START of the issuing thread's quad in state `t` gives `u`. -/
def SpanStarts (t u : State) : Prop := exec .spanEntryStart { t with params := [t.curH / 4] } = .next u

/-- The span wrote vector register `d`, its lane `i` of `n` bytes with `g i`, and nothing else; the queue is empty. -/
def SpanWroteV (t u : State) (d n : Nat) (g : Nat → Nat) : Prop :=
  (∀ i, i < 256 / n → vlane u d n i = g i) ∧ (∀ m, m ≠ d → u.cur.rdV m = t.cur.rdV m) ∧
    { u.cur with v := t.cur.v } = t.cur ∧ u.cc.dq = [] ∧ u.mem = t.mem ∧ u.sr = t.sr ∧ ∀ h, h ≠ t.curH → u.core h = t.core h

/-- The span wrote predicate register `d`, its bit `j` with `g j` (p0 discards), and nothing else; the queue is empty. -/
def SpanWroteP (t u : State) (d : Nat) (g : Nat → Bool) : Prop :=
  (d ≠ 0 → ∀ j, j < 256 → (u.cur.rdP d).getLsbD j = g j) ∧ (∀ m, m ≠ d ∨ d = 0 → u.cur.rdP m = t.cur.rdP m) ∧
    { u.cur with p := t.cur.p } = t.cur ∧ u.cc.dq = [] ∧ u.mem = t.mem ∧ u.sr = t.sr ∧ ∀ h, h ≠ t.curH → u.core h = t.core h

/-- The issuing thread's last window has its value, and nothing else has changed but the queue it came from. -/
def WindowGot (t u : State) (v : Nat) : Prop :=
  (∃ e, u.cur.pend.getLast? = some e ∧ e.missing = 0 ∧ e.value = v ∧ e.fault = none) ∧
    u.cur.pend.length = t.cur.pend.length ∧ u.cur.v = t.cur.v ∧ u.cur.g = t.cur.g ∧ u.cur.stk = t.cur.stk ∧ u.cur.pc = t.cur.pc ∧
    u.mem = t.mem ∧ u.sr = t.sr ∧ ∀ h, h ≠ t.curH → u.core h = t.core h

/-- A vector value from its lanes of `n` bytes, lowest first. -/
def laneSum (n : Nat) (f : Nat → Nat) : Nat := ((List.range (256 / n)).map fun k => f k % 256 ^ n * 256 ^ (n * k)).sum

/-- VDOT's result on the values of va, vb and vd, from R351 and R275: format 0 INT8, 1 INT4, 2 and 3 their complex forms,
4 E4M3, 5 E5M2, 6 BF16, 7 FP16. -/
def dotLanes (fmt : Nat) (sat nxm : Bool) (x y z : Nat) : Nat :=
  let el := fun (w v k : Nat) => S w (v / 2 ^ (w * k) % 2 ^ w)
  let i32 := fun (a : Int) => L 32 (if sat then clampS 32 a else a)
  let real := fun (w : Nat) => laneSum 4 fun k =>
    i32 ((List.range (32 / w)).foldl (fun a j => a + el w x (k * (32 / w) + j) * el w y (k * (32 / w) + j)) (el 32 z k))
  let cplx := fun (w : Nat) => laneSum 8 fun k =>
    let e := fun (v j : Nat) => el w v (k * (64 / w) + j)
    let re := (List.range (32 / w)).foldl (fun a j =>
      a + (e x (2 * j) * e y (2 * j) - e x (2 * j + 1) * e y (2 * j + 1))) (el 32 z (2 * k))
    let im := (List.range (32 / w)).foldl (fun a j =>
      a + (e x (2 * j) * e y (2 * j + 1) + e x (2 * j + 1) * e y (2 * j))) (el 32 z (2 * k + 1))
    i32 re + 2 ^ 32 * i32 im
  let flt := fun (f : Fmt) => laneSum 4 fun k =>
    let n := 32 / f.width
    let c := fun (v j : Nat) => f.read (v / 2 ^ (f.width * (k * n + j)) % 2 ^ f.width)
    fp32.round .rne sat (FVal.sum (fp32.read (z / 2 ^ (32 * k) % 2 ^ 32) :: (List.range n).map fun j => (c x j).mul (c y j)))
  match fmt with
  | 0 => real 8
  | 1 => real 4
  | 2 => cplx 8
  | 3 => cplx 4
  | 4 => flt (e4m3 nxm)
  | 5 => flt (e5m2 nxm)
  | 6 => flt bf16
  | _ => flt fp16

/-- VCLMUL's result on the values of va and vb (R352): in each 64-bit lane the low or the high half of the carry-less product. -/
def clmulLanes (hi : Bool) (x y : Nat) : Nat :=
  laneSum 8 fun k =>
    let u := x / 2 ^ (64 * k) % 2 ^ 64
    let v := y / 2 ^ (64 * k) % 2 ^ 64
    let p := (List.range 64).foldl (fun acc i => if v.testBit i then acc ^^^ (u <<< i) else acc) 0
    if hi then p / 2 ^ 64 else p % 2 ^ 64

/-- The scalar results of vector instructions (R335, R336, R338). -/
def vecScalar (i : Instr) (s : State) : Option (Nat × Word) :=
  match i with
  | .pcnt d a t => some (d, BitVec.ofNat 64 ((List.range (256 / 2 ^ t)).countP (Active s a (2 ^ t))))
  | .vqlen d => some (d, 256)
  | .vext d a b t =>
    some (d, if (s.g b).toNat < 256 / 2 ^ t then BitVec.ofNat 64 (vlane s a (2 ^ t) (s.g b).toNat) else 0)
  | .vextSx d a b t =>
    some (d, if (s.g b).toNat < 256 / 2 ^ t then (BitVec.ofNat (8 * 2 ^ t) (vlane s a (2 ^ t) (s.g b).toNat)).signExtend 64 else 0)
  | .vred d a p t op =>
    some (d, if op ≤ 2 then (BitVec.ofNat (8 * 2 ^ t) (reduced s op (2 ^ t) p a (256 / 2 ^ t))).signExtend 64
             else BitVec.ofNat 64 (reduced s op (2 ^ t) p a (256 / 2 ^ t)))
  | _ => none

/-- The elements of a vector load: destination, predicate, merge or zero, type, lookahead and the address of each lane
(R340). -/
def vecLoadForm (i : Instr) (s : State) : Option (Nat × Nat × Nat × Nat × Nat × (Nat → Nat)) :=
  match i with
  | .vld d a p z t la => some (d, p, z, t, la, fun k => ((s.g a).toNat + k * 2 ^ t) % 2 ^ 64)
  | .vlds d a p z t la => some (d, p, z, t, la, fun k => ((s.g a).toNat + k * (s.g (a + 1)).toNat) % 2 ^ 64)
  | .vgath d a b p z t la =>
    some (d, p, z, t, la, fun k => (((s.g a).toNat + S (8 * 2 ^ t) (vlane s b (2 ^ t) k) * (2 ^ t : Nat)) % (2 ^ 64 : Int)).toNat)
  | _ => none

/-- The elements of a vector store: data register, predicate, type and the address of each lane (R340). -/
def vecStoreForm (i : Instr) (s : State) : Option (Nat × Nat × Nat × (Nat → Nat)) :=
  match i with
  | .vst d a p t => some (d, p, t, fun k => ((s.g a).toNat + k * 2 ^ t) % 2 ^ 64)
  | .vsts d a b p t => some (d, p, t, fun k => ((s.g a).toNat + k * (s.g b).toNat) % 2 ^ 64)
  | .vscat d a b p t =>
    some (d, p, t, fun k => (((s.g a).toNat + S (8 * 2 ^ t) (vlane s b (2 ^ t) k) * (2 ^ t : Nat)) % (2 ^ 64 : Int)).toNat)
  | _ => none

end Sys2Proof.Claims

open Sys2Proof Sys2Proof.Machine Sys2Proof.Claims in
/-- R330, R331, R333, R334, R336 to R338, R247: every integer vector instruction writes each active lane of its destination
with its operation's value, keeps or zeroes the inactive ones, and changes no other register; while an open window has the
destination it is LOOKAHEAD. VSEL writes every lane, from va where its predicate is active and from vb elsewhere. -/
def Obligations.VectorIntegerLanes : Prop :=
  ∀ (i : Instr) (s : State), i.wf = true →
    (∀ d len n p z f, vecResult i s = some (d, len, n, p, z, f) →
      (s.cur.openV d = false → ∃ t, exec i s = .next t ∧
        VWrote s t d len n fun k => if Active s p n k then f k else if z = 1 then 0 else vlane s d n k) ∧
      (s.cur.openV d = true → ∃ t, exec i s = .next t ∧ UserTrap s t 3 0 0 s.cur.pc)) ∧
    (∀ d a b p t, i = .vsel d a b p t → s.cur.openV d = false →
      ∃ u, exec i s = .next u ∧ VWrote s u d 4 (2 ^ t) fun k => if Active s p (2 ^ t) k then vlane s a (2 ^ t) k else vlane s b (2 ^ t) k)

open Sys2Proof Sys2Proof.Machine Sys2Proof.Claims in
/-- R330, R344, R347, R348, R247: with room in the dispatch queue, every floating-point lane instruction joins it with what
it read at issue, and a full queue stalls it; when the span takes it, it writes each active lane with the exact operation
rounded once, VFMIN and VFMAX with the chosen operand's own bits, keeps or zeroes the inactive lanes, and changes nothing
else. While an open window has the destination it is LOOKAHEAD. -/
def Obligations.VectorFloatLanes : Prop :=
  ∀ (i : Instr) (s : State) (d len n p z : Nat) (f : Nat → Nat), i.wf = true → fpLanes i s = some (d, len, n, p, z, f) →
    (s.cur.openV d = false → s.cc.dq.length < 8 → ∃ t, exec i s = .next t ∧ Dispatched s t i len ∧
      (SpanFree s → ∃ u, SpanStarts t u ∧
        SpanWroteV t u d n fun k => if Active s p n k then f k else if z = 1 then 0 else vlane s d n k)) ∧
    (s.cur.openV d = false → 8 ≤ s.cc.dq.length → exec i s = .next s) ∧
    (s.cur.openV d = true → ∃ t, exec i s = .next t ∧ UserTrap s t 3 0 0 s.cur.pc)

open Sys2Proof Sys2Proof.Machine Sys2Proof.Claims in
/-- R330, R334, R335, R344, R348: every integer comparison and predicate instruction writes all the bits of each active lane
with its result at issue, keeps each bit of an inactive lane or clears it, discards a write to p0, and changes no other
register. Every floating-point comparison joins the dispatch queue with what it read, or stalls while that is full, and
writes its predicate in the same way when the span takes it. -/
def Obligations.VectorPredicates : Prop :=
  (∀ (i : Instr) (s : State) (d n p z : Nat) (f : Nat → Bool), i.wf = true → predResult i s = some (d, n, p, z, f) →
    ∃ t, exec i s = .next t ∧
      PWrote s t d fun j => if Active s p n (j / n) then f (j / n) else if z = 1 then false else (s.cur.rdP d).getLsbD j) ∧
  ∀ (i : Instr) (s : State) (d n p z : Nat) (f : Nat → Bool), i.wf = true → fpPreds i s = some (d, n, p, z, f) →
    (s.cc.dq.length < 8 → ∃ t, exec i s = .next t ∧ Dispatched s t i 4 ∧
      (SpanFree s → ∃ u, SpanStarts t u ∧
        SpanWroteP t u d fun j =>
          if Active s p n (j / n) then f (j / n) else if z = 1 then false else (s.cur.rdP d).getLsbD j)) ∧
    (8 ≤ s.cc.dq.length → exec i s = .next s)

open Sys2Proof Sys2Proof.Machine Sys2Proof.Claims in
/-- R335, R336, R338: PCNT, VQLEN, VEXT, VEXT.sx and VRED write their scalar result and nothing else; VRED with no active
lane gives the identity. -/
def Obligations.VectorScalarResults : Prop :=
  ∀ (i : Instr) (s : State) (d : Nat) (v : Word), i.wf = true → vecScalar i s = some (d, v) →
    (s.cur.openG d = false → ∃ t, exec i s = .next t ∧ Wrote s t d 4 v) ∧
    (s.cur.openG d = true → ∃ t, exec i s = .next t ∧ UserTrap s t 3 0 0 s.cur.pc)

open Sys2Proof Sys2Proof.Machine Sys2Proof.Claims in
/-- R344, R349, R350: VCVT joins the dispatch queue with what it read at issue; when the span takes it, it converts element i
at the source size into lane i at the destination size, an integer to an integer by extension and saturation or wrapping
and any other pair by one rounding under the mode; the lanes past the converted elements become 0. -/
def Obligations.VectorConvert : Prop :=
  ∀ (s : State) (d a src sat p z mode dst n c : Nat), (Instr.vcvt d a src sat p z mode dst).wf = true →
    n = (cfmt s.cc.nxm dst).width / 8 → c = (cfmt s.cc.nxm src).width / 8 → s.cur.openV d = false → s.cc.dq.length < 8 →
    ∃ t, exec (.vcvt d a src sat p z mode dst) s = .next t ∧ Dispatched s t (.vcvt d a src sat p z mode dst) 4 ∧
      (SpanFree s → ∃ u, SpanStarts t u ∧ SpanWroteV t u d n fun k =>
        if k < 256 / max c n then
          (if Active s p n k then
            (if 5 ≤ src ∧ 5 ≤ dst then
              (let x : Int := if src = 8 then (vlane s a c k : Int) else S (8 * c) (vlane s a c k)
               let lo : Int := if dst = 8 then 0 else -(2 ^ (8 * n - 1) : Int)
               let hi : Int := if dst = 8 then 255 else 2 ^ (8 * n - 1) - 1
               if sat = 1 then L (8 * n) (max lo (min x hi)) else L (8 * n) x)
             else (cfmt s.cc.nxm dst).write
               (if mode = 0 then .rne else if mode = 1 then .trunc else .stoch (draw (s.g 7).toNat k)) (sat = 1)
               ((cfmt s.cc.nxm src).read (vlane s a c k)) % 256 ^ n)
           else if z = 1 then 0 else vlane s d n k)
        else 0)

open Sys2Proof Sys2Proof.Machine Sys2Proof.Claims in
/-- R344, R351 to R353, R136, R137: VDOT and VCLMUL open a window on vd and dispatch to the span with their sources as
issue reads them, VSFN to the quad's special-function unit; no register changes until the window closes; a full pending
table stalls them, and an open window on vd is LOOKAHEAD. When the span takes the entry of a VDOT or VCLMUL, and when the
unit answers a VSFN, the window has the result: for VDOT.bf16 each FP32 accumulator plus the two products rounded once, for
the integer formats the sum saturated or wrapped, for VCLMUL the chosen half of each carry-less product.
R353, R354: the special values of the special functions in FP32, and the default NaN for every NaN input. -/
def Obligations.VectorDispatch : Prop :=
  (∀ (i : Instr) (s : State) (d la : Nat), i.wf = true →
    ((∃ a b f st, i = .vdot d a b f st la) ∨ (∃ a b h, i = .vclmul d a b h la) ∨ (∃ a f p z t, i = .vsfn d a f p z t la)) →
    (s.cur.openV d = false → s.cur.pend.length < 4 → s.cc.dq.length < 8 →
      ∃ t e, exec i s = .next t ∧ t.cur.pend.getLast? = some e ∧ e.dest = .vector d ∧ e.cnt = la ∧ e.missing = 1 ∧
        e.fault = none ∧ e.lpc = s.cur.pc ∧ t.cur.pend.length = s.cur.pend.length + 1 ∧ t.cur.v = s.cur.v ∧ t.cur.g = s.cur.g ∧
        t.cur.stk = s.cur.stk ∧ t.cur.pc = (issued s.cur 4).pc ∧ t.mem = s.mem ∧
        (∀ a b f st, i = .vdot d a b f st la → ∃ q, t.cc.dq = s.cc.dq ++ [q] ∧ q.i = i ∧ q.ent = e.id ∧ q.nxm = s.cc.nxm ∧
          q.args = [(s.cur.rdV a).toNat, (s.cur.rdV b).toNat, (s.cur.rdV d).toNat]) ∧
        (∀ a b h, i = .vclmul d a b h la → ∃ q, t.cc.dq = s.cc.dq ++ [q] ∧ q.i = i ∧ q.ent = e.id ∧
          q.args = [(s.cur.rdV a).toNat, (s.cur.rdV b).toNat]) ∧
        (∀ a f p z ty, i = .vsfn d a f p z ty la → ∃ q, (t.quad (s.curH / 4)).sfq = (s.quad (s.curH / 4)).sfq ++ [q] ∧
          q.h = s.curH ∧ q.slot = s.curSlot ∧ q.ent = e.id ∧
          ∀ k, k < 256 / (if ty ≤ 1 then 2 else 4) → Active s p (if ty ≤ 1 then 2 else 4) k = false →
            q.value / 256 ^ ((if ty ≤ 1 then 2 else 4) * k) % 256 ^ (if ty ≤ 1 then 2 else 4) =
              if z = 1 then 0 else vlane s d (if ty ≤ 1 then 2 else 4) k) ∧
        ((∀ a f p z ty, i ≠ .vsfn d a f p z ty la) → SpanFree s → ∃ u, SpanStarts t u ∧ u.cc.dq = [] ∧ WindowGot t u (match i with
          | .vdot _ a b fmt sat _ => dotLanes fmt (sat = 1) s.cc.nxm (s.cur.rdV a).toNat (s.cur.rdV b).toNat (s.cur.rdV d).toNat
          | .vclmul _ a b hi _ => clmulLanes (hi = 1) (s.cur.rdV a).toNat (s.cur.rdV b).toNat
          | _ => 0)) ∧
        (∀ a f p z ty, i = .vsfn d a f p z ty la → (∀ x ∈ s.accs, x.ent ≠ e.id) →
          (∀ x ∈ (s.quad (s.curH / 4)).sfq, x.ent ≠ e.id) →
          ∃ u, exec .longLatencyResult { t with params := [s.curH, s.curSlot, s.cur.pend.length] } = .next u ∧
            (u.quad (s.curH / 4)).sfq = (s.quad (s.curH / 4)).sfq ∧
            WindowGot t u (laneSum (if ty ≤ 1 then 2 else 4) fun k => if Active s p (if ty ≤ 1 then 2 else 4) k then
                sfn (if ty = 0 then bf16 else if ty = 1 then fp16 else fp32) f (vlane s a (if ty ≤ 1 then 2 else 4) k)
              else if z = 1 then 0 else vlane s d (if ty ≤ 1 then 2 else 4) k))) ∧
    (s.cur.openV d = false → 4 ≤ s.cur.pend.length → exec i s = .next s) ∧
    (s.cur.openV d = true → ∃ t, exec i s = .next t ∧ UserTrap s t 3 0 0 s.cur.pc)) ∧
  (∀ f, f < 8 → sfn fp32 f 0x7FC00000 = fp32.nanCode ∧ sfn fp32 f 0x7F800001 = fp32.nanCode) ∧
  [sfn fp32 0 0xFF800000, sfn fp32 0 0, sfn fp32 0 0x80000000, sfn fp32 0 0x7F800000, sfn fp32 0 0x43000000] =
    [0, 0x3F800000, 0x3F800000, 0x7F800000, 0x7F800000] ∧
  [sfn fp32 1 0xFF800000, sfn fp32 1 0, sfn fp32 1 0x80000000, sfn fp32 1 0x7F800000, sfn fp32 1 0xBF800000, sfn fp32 1 0x3F800000] =
    [fp32.nanCode, 0xFF800000, 0xFF800000, 0x7F800000, fp32.nanCode, 0] ∧
  [sfn fp32 2 0xFF800000, sfn fp32 2 0, sfn fp32 2 0x80000000, sfn fp32 2 0x7F800000] = [0x80000000, 0x7F800000, 0xFF800000, 0] ∧
  [sfn fp32 3 0xFF800000, sfn fp32 3 0, sfn fp32 3 0x80000000, sfn fp32 3 0x7F800000, sfn fp32 3 0xC0800000] =
    [fp32.nanCode, 0x7F800000, 0xFF800000, 0, fp32.nanCode] ∧
  [sfn fp32 4 0xFF800000, sfn fp32 4 0, sfn fp32 4 0x80000000, sfn fp32 4 0x7F800000] = [fp32.nanCode, 0, 0x80000000, fp32.nanCode] ∧
  [sfn fp32 5 0xFF800000, sfn fp32 5 0, sfn fp32 5 0x80000000, sfn fp32 5 0x7F800000] =
    [fp32.nanCode, 0x3F800000, 0x3F800000, fp32.nanCode] ∧
  [sfn fp32 6 0xFF800000, sfn fp32 6 0, sfn fp32 6 0x80000000, sfn fp32 6 0x7F800000] = [0xBF800000, 0, 0x80000000, 0x3F800000] ∧
  [sfn fp32 7 0xFF800000, sfn fp32 7 0, sfn fp32 7 0x80000000, sfn fp32 7 0x7F800000] = [0, 0x3F000000, 0x3F000000, 0x3F800000]


open Sys2Proof Sys2Proof.Machine Sys2Proof.Claims in
/-- R330, R340 to R342 in the core's own local store: VLD, VLDS and VGATH whose active elements are aligned and lie there
open one window on vd with each active lane's element and the inactive lanes kept or 0; no inactive lane is read, no
register and no byte changes. A misaligned active element is ALIGN at its address, the lowest such. -/
def Obligations.VectorLoads : Prop :=
  ∀ (i : Instr) (s : State) (d p z t la : Nat) (addr : Nat → Nat), i.wf = true →
    vecLoadForm i s = some (d, p, z, t, la, addr) → s.cur.openV d = false →
    (s.accReady = true → (∀ e ∈ s.cur.pend, e.fault = none) → s.cc.dq = [] → s.cc.slog = [] → s.cc.slogHeld = [] →
      s.cur.pend.length < 4 →
      (∀ k, k < 256 / 2 ^ t → Active s p (2 ^ t) k = true → addr k % 2 ^ t = 0 ∧ ∃ o, spaceOf (addr k) = .ls o) →
      ∃ u e, exec i s = .next u ∧ u.cur.pend.getLast? = some e ∧ e.dest = .vector d ∧ e.cnt = la ∧ e.missing = 0 ∧
        e.fault = none ∧ u.cur.v = s.cur.v ∧ u.cur.g = s.cur.g ∧ u.cur.stk = s.cur.stk ∧ u.cur.pc = (issued s.cur 4).pc ∧ u.mem = s.mem ∧
        ∀ k, k < 256 / 2 ^ t → e.value / 256 ^ (2 ^ t * k) % 256 ^ 2 ^ t =
          if Active s p (2 ^ t) k then s.rdN (lsLoc s.curH (addr k % 65536)) (2 ^ t)
          else if z = 1 then 0 else vlane s d (2 ^ t) k) ∧
    (∀ k, k < 256 / 2 ^ t → Active s p (2 ^ t) k = true → addr k % 2 ^ t ≠ 0 →
      (∀ j, j < 256 / 2 ^ t → Active s p (2 ^ t) j = true → addr j % 2 ^ t ≠ 0 → addr k ≤ addr j) →
      ∃ u, exec i s = .next u ∧ KernelFault s u fALIGN (addr k) 0 0 0)

open Sys2Proof Sys2Proof.Machine Sys2Proof.Claims in
/-- R330, R339 to R341, R343 in the core's own local store: VST, VSTS and VSCAT whose active elements are aligned and lie
there store each active lane at its element, the highest lane where several name one location, and change no other byte
and no register. A misaligned active element is ALIGN at the lowest such address with nothing stored. -/
def Obligations.VectorStores : Prop :=
  ∀ (i : Instr) (s : State) (d p t : Nat) (addr : Nat → Nat), i.wf = true → Memory.wf s.mem = true →
    vecStoreForm i s = some (d, p, t, addr) →
    (s.accReady = true → (∀ e ∈ s.cur.pend, e.fault = none) → s.cc.dq = [] → s.cc.slog = [] → s.cc.slogHeld = [] →
      (∀ k, k < 256 / 2 ^ t → Active s p (2 ^ t) k = true → addr k % 2 ^ t = 0 ∧ ∃ o, spaceOf (addr k) = .ls o) →
      ∃ u, exec i s = .next u ∧ { u.cur with acqs := s.cur.acqs } = issued s.cur 4 ∧ u.fe = s.fe ∧
        (∀ k, k < 256 / 2 ^ t → Active s p (2 ^ t) k = true →
          (∀ j, k < j → j < 256 / 2 ^ t → Active s p (2 ^ t) j = true → addr j ≠ addr k) →
          u.rdN (lsLoc s.curH (addr k % 65536)) (2 ^ t) = vlane s d (2 ^ t) k) ∧
        ∀ x, (∀ k, k < 256 / 2 ^ t → Active s p (2 ^ t) k = true →
            x < lsLoc s.curH (addr k % 65536) ∨ lsLoc s.curH (addr k % 65536) + 2 ^ t ≤ x) → u.rd8 x = s.rd8 x) ∧
    (∀ k, k < 256 / 2 ^ t → Active s p (2 ^ t) k = true → addr k % 2 ^ t ≠ 0 →
      (∀ j, j < 256 / 2 ^ t → Active s p (2 ^ t) j = true → addr j % 2 ^ t ≠ 0 → addr k ≤ addr j) →
      ∃ u, exec i s = .next u ∧ KernelFault s u fALIGN (addr k) 0 0 0)

/-! ### Chapters 18 and 19: tile instructions, the span, record mode and the reverse run -/

namespace Sys2Proof.Claims

open Machine

/-- Lookahead and named identifiers of each tile instruction of majors 0x30 to 0x32 (R356). -/
def tileOperands (i : Instr) : Option (Nat × List Nat) :=
  match i with
  | .tmma _ a b _ _ la | .tmmaSat _ a b _ _ la | .tmmac _ a b _ _ la | .tmmacSat _ a b _ _ la | .tmmx _ a b _ _ la =>
    some (la, [a, b])
  | .tadd _ a _ la | .tmul _ a _ la | .tst _ a _ _ la => some (la, [a])
  | .tact _ _ la | .tred _ _ la | .ttrn _ la | .tcvt _ _ _ la | .tzero _ _ la => some (la, [])
  | _ => none

/-- The identifier that an instruction writes through, which is TST's (R361). -/
def storeDest (i : Instr) : Option Nat := match i with | .tst _ a _ _ _ => some a | _ => none

/-- The shapes and formats that each tile instruction accepts at issue (R366, R367, R369, R370, R376). -/
def tileShape (i : Instr) (a b : Nat) : Prop :=
  let prod := fun n => idCols a = idRows b ∧ idCols a ≤ 4096 ∧ idRows a ≤ 64 ∧ idCols b ≤ n
  let f := idFmt a
  let g := idFmt b
  match i with
  | .tmma _ _ _ _ _ _ | .tmmaSat _ _ _ _ _ _ =>
    prod 64 ∧ (((f = 7 ∨ f = 8) ∧ (g = 7 ∨ g = 8)) ∨ (f = 9 ∧ g = 9) ∨ ((f = 3 ∨ f = 4) ∧ (g = 3 ∨ g = 4)) ∨
      (f = 2 ∧ g = 2) ∨ (f = 1 ∧ g = 1) ∨ (12 ≤ f ∧ 12 ≤ g))
  | .tmmac _ _ _ _ _ _ | .tmmacSat _ _ _ _ _ _ => prod 32 ∧ ((f = 10 ∧ g = 10) ∨ (f = 11 ∧ g = 11))
  | .tmmx _ _ _ _ _ _ => prod 64 ∧ f ≤ 2 ∧ g ≤ 2
  | .tadd _ _ _ _ | .tmul _ _ _ _ | .tst _ _ _ _ _ => idRows a ≤ 64 ∧ idCols a ≤ 64 ∧ f ≠ 10 ∧ f ≠ 11
  | _ => True

/-- The entry that the instruction captures for operand `n`, 0 where it names none. -/
def captured (s : State) (ids : List Nat) (n : Nat) : Nat :=
  match ids[n]? with | some k => (s.cur.rdD k).toNat | none => 0

/-- Every check at issue passes (R360 and the instruction's own). -/
def TileOk (s : State) (i : Instr) (ids : List Nat) : Prop :=
  (∀ k ∈ ids, s.identOk s.curH (s.cur.rdD k).toNat = true) ∧ tileShape i (captured s ids 0) (captured s ids 1)

/-- A dispatched instruction: the entry `e` at the end of the core's queue, a window that counts `la`, no register
changed, and the thread past the instruction. -/
def TileIssued (s t : State) (la : Nat) (e : DqEntry) : Prop :=
  t.cc.dq = s.cc.dq ++ [e] ∧ e.slot = s.curSlot ∧ e.nxm = s.cc.nxm ∧ e.pc = s.cur.pc ∧
    e.asid = s.asidOf s.curH s.curSlot ∧ e.tenant = s.tenantOf s.curH ∧ e.faulted = false ∧ e.filler = false ∧
    (∃ p, t.cur.pend.getLast? = some p ∧ p.id = e.ent ∧ p.cnt = la ∧ p.missing = 1 ∧ p.fault = none ∧ p.dest = .tile) ∧
    t.cur.pend.length = s.cur.pend.length + 1 ∧ (∀ p, t.cur.rdPhys p = s.cur.rdPhys p) ∧
    t.cur.pc = (issued s.cur 4).pc ∧ t.cc.acc = s.cc.acc ∧ t.cc.uprog = s.cc.uprog ∧
    t = { s with cores := t.cores, nextId := t.nextId } ∧ ∀ h, h ≠ s.curH → t.core h = s.core h

/-- The identifiers after the issue: GEN of the one written through is one more, and nothing else changes (R361). -/
def GenRaised (s t : State) (i : Instr) : Prop :=
  ∀ n, if storeDest i = some n then
      idGen (t.cur.rdD n).toNat = (idGen (s.cur.rdD n).toNat + 1) % 65536 ∧
        ∀ k, k < 64 → k ≠ 32 → k ≠ 33 → recField (t.cur.rdD n).toNat k 1 = recField (s.cur.rdD n).toNat k 1
    else t.cur.rdD n = s.cur.rdD n

/-- The flag fields of an instruction with flagged operands (R380). -/
def tileFlags (i : Instr) : Option (Nat × Option Nat) :=
  match i with
  | .tmma _ _ _ f g _ | .tmmaSat _ _ _ f g _ | .tmmac _ _ _ f g _ | .tmmacSat _ _ _ f g _ | .tmmx _ _ _ f g _ =>
    some (f, some g)
  | .tadd _ _ f _ | .tmul _ _ f _ => some (f, none)
  | _ => none

/-- The effective flag (R380). -/
def flagOf (f e : Nat) : Nat := if f ≠ 0 then f else if recField e 10 1 % 4 ≠ 0 then recField e 10 1 % 4 else 1

/-- Bytes padded to a multiple of 32. -/
def padded (n : Nat) : Nat := (n + 31) / 32 * 32

/-- Bytes of a saved operand: its rows without gaps, then its scale bytes (R382). -/
def savedBytes (e : Nat) : Nat :=
  idRows e * ((idCols e * fmtBits (idFmt e) + 7) / 8) + (if 12 ≤ idFmt e then idRows e * (idCols e / 32) else 0)

/-- PLEN of the record (R382). -/
def payloadBytes (i : Instr) (a b : Nat) : Nat :=
  (match tileFlags i with
   | some (f, g) => (if flagOf f a = 1 then padded (savedBytes a) else 0) +
       (match g with | some g => if flagOf g b = 1 then padded (savedBytes b) else 0 | none => 0)
   | none => 0) +
  (match i with
   | .tmul _ _ _ _ => padded (4 * (idRows a * idCols a))
   | .tact _ _ _ => 16384
   | .tred _ op _ => if op = 1 then 16384 else 0
   | _ => 0)

/-- The microprogrammed product with an operand that is not constant, and which (R384). -/
def notConstant (i : Instr) (a b : Nat) : Option Nat :=
  match i with
  | .tmmx _ _ _ f g _ => if flagOf f a ≠ 3 then some 1 else if flagOf g b ≠ 3 then some 2 else none
  | _ => none

/-- The sum over indices below `n`. -/
def sumBelow (n : Nat) (f : Nat → Int) : Int := ((List.range n).map f).foldl (· + ·) 0

/-- A 32-bit element as a two's-complement number, and the low 32 bits of a number. -/
def int32 (x : Nat) : Int := (BitVec.ofNat 32 x).toInt
def low32 (z : Int) : Nat := (BitVec.ofInt 32 z).toNat

/-- Core `h` of quad `s.param 0` is the first, after the one that the span served last, with an entry that may start, and
`e` is that entry (R136). -/
def Starts (s : State) (h : Nat) (e : DqEntry) : Prop :=
  (∃ pre post, s.spanOrder (s.param 0) = pre ++ h :: post ∧ ∀ m ∈ pre, s.nextEntry m = none) ∧ s.nextEntry h = some e

/-- The state in which the entry runs: the quad remembers whom it served. -/
def served (s : State) (h : Nat) : State := s.onQuad (s.param 0) fun x => { x with rot := h % 4 }

/-- The tile instruction's accumulator. -/
def tileOf (s : State) (h : Nat) (e : DqEntry) : Tile := (s.core h).acc.val (tileAcc e.i) {}

end Sys2Proof.Claims

open Sys2Proof Sys2Proof.Machine Sys2Proof.Claims in
/-- R360, R362: outside record mode a tile instruction whose identifiers and shapes pass enters the core's dispatch queue
with its entries, NXM and seed captured and its window open, and TST raises GEN of its identifier; a failing check is
PERM; where the queue is full, no window is free or an acquire holds the thread, it stalls. -/
def Obligations.TileIssue : Prop :=
  ∀ (i : Instr) (s : State) (la : Nat) (ids : List Nat), tileOperands i = some (la, ids) →
    (∀ n, storeDest i = some n → s.cur.openD n = false) →
    (TileOk s i ids → s.cc.recording = false →
      (s.spanBusy = false → ∃ t e, exec i s = .next t ∧ TileIssued s t la e ∧ e.i = i ∧ e.arg 0 = captured s ids 0 ∧
        e.arg 1 = captured s ids 1 ∧ e.arg 2 = (s.g 7).toNat ∧ e.arg 3 = 0 ∧ GenRaised s t i ∧ t.cc.adjPtr = s.cc.adjPtr) ∧
      (s.spanBusy = true → ∃ t, exec i s = .next t ∧ Stalled s t)) ∧
    (¬ TileOk s i ids → ∃ t, exec i s = .next t ∧ KernelFault s t fPERM 0 0 0 0 ∧ t.cc.dq = s.cc.dq)

open Sys2Proof Sys2Proof.Machine Sys2Proof.Claims in
/-- R382 to R384: in record mode the instruction also reserves 32 bytes and its payload at ADJ.PTR with the next sequence
number; where the log has no room it is the user trap ADJOVF with the bytes in NEED, and a TMMX with an operand that is not
constant is ADJNOADJ with the operand in OPND: neither is dispatched. -/
def Obligations.RecordReservation : Prop :=
  ∀ (i : Instr) (s : State) (la : Nat) (ids : List Nat) (a b : Nat), tileOperands i = some (la, ids) →
    a = captured s ids 0 → b = captured s ids 1 → (∀ n, storeDest i = some n → s.cur.openD n = false) → TileOk s i ids →
    s.cc.recording = true →
    (notConstant i a b = none → s.cc.adjPtr.toNat + (32 + payloadBytes i a b) ≤ s.cc.adjLimit.toNat → s.spanBusy = false →
      ∃ t e, exec i s = .next t ∧ TileIssued s t la e ∧ e.i = i ∧ e.arg 0 = a ∧ e.arg 1 = b ∧ e.arg 3 = 1 ∧
        e.arg 4 = s.cc.adjPtr.toNat ∧ e.arg 5 = wbits s.cc.adjCtl 63 32 ∧ e.arg 10 = payloadBytes i a b ∧
        t.cc.adjPtr = s.cc.adjPtr + BitVec.ofNat 64 (32 + payloadBytes i a b) ∧
        wbits t.cc.adjCtl 63 32 = (wbits s.cc.adjCtl 63 32 + 1) % 2 ^ 32 ∧ GenRaised s t i) ∧
    (notConstant i a b = none → s.cc.adjLimit.toNat < s.cc.adjPtr.toNat + (32 + payloadBytes i a b) →
      ∃ t, exec i s = .next t ∧ UserTrap s t 5 0 0 s.cur.pc ∧ wbits t.cc.adjStat 47 16 = (32 + payloadBytes i a b) % 2 ^ 32 ∧
        t.cc.dq = s.cc.dq ∧ t.cc.adjPtr = s.cc.adjPtr ∧ t.cc.adjCtl = s.cc.adjCtl) ∧
    (∀ n, notConstant i a b = some n → ∃ t, exec i s = .next t ∧ UserTrap s t 6 0 0 s.cur.pc ∧ wbits t.cc.adjStat 9 8 = n ∧
      t.cc.dq = s.cc.dq ∧ t.cc.adjPtr = s.cc.adjPtr ∧ t.cc.adjCtl = s.cc.adjCtl)

open Sys2Proof Sys2Proof.Machine Sys2Proof.Claims in
/-- R361, R368, at a 64-byte place in the core's own local store: TDESC opens its window with the image read, which at its
close becomes the entry with GEN one more than before; TDRD stores the entry's 64 bytes and nothing else; TUPROG dispatches
the doubleword it reads, or is PERM where an operation of it is not assigned. A misaligned address is ALIGN. -/
def Obligations.IdentifierTransfers : Prop :=
  ∀ (s : State) (n r la off : Nat), Memory.wf s.mem = true → MayIssue s {} → s.cc.slog = [] → s.cc.slogHeld = [] →
    s.cur.pend.length < 4 →
    spaceOf (s.g r).toNat = .ls off →
    ((s.g r).toNat % 64 = 0 →
      (s.cur.openD n = false → ∃ t, exec (.tdesc n r la) s = .next t ∧ t.mem = s.mem ∧ t.cur.pc = (issued s.cur 4).pc ∧
        (∀ p, t.cur.rdPhys p = s.cur.rdPhys p) ∧ t.cur.d = s.cur.d ∧ t.cur.pend.length = s.cur.pend.length + 1 ∧
        ∃ e, t.cur.pend.getLast? = some e ∧ e.dest = .ident n ∧ e.cnt = la ∧ e.missing = 0 ∧ e.fault = none ∧
          e.value = s.rdN (lsLoc s.curH off) 64 ∧
          ∀ th : Thread, idGen ((th.land e).rdD n).toNat = (idGen (th.rdD n).toNat + 1) % 65536 ∧
            ∀ k, k < 64 → k ≠ 32 → k ≠ 33 → recField ((th.land e).rdD n).toNat k 1 = s.rd8 (lsLoc s.curH off + k)) ∧
      (s.cur.openD n = true → ∃ t, exec (.tdesc n r la) s = .next t ∧ UserTrap s t 3 0 0 s.cur.pc) ∧
      (∃ t, exec (.tdrd n r la) s = .next t ∧ StoredAt s t (lsLoc s.curH off) 64 (s.cur.rdD n).toNat ∧ t.fe = s.fe ∧
        t.cur.pc = (issued s.cur 4).pc ∧ (∀ p, t.cur.rdPhys p = s.cur.rdPhys p) ∧ t.cur.d = s.cur.d ∧
        ∃ e, t.cur.pend.getLast? = some e ∧ e.dest = .none ∧ e.cnt = la ∧
          e.missing = (s.accs.filter fun a => decide (a.ent = s.nextId)).length)) ∧
    ((s.g r).toNat % 8 = 0 →
      ((∀ j < 4, s.rdN (lsLoc s.curH off) 8 / 2 ^ (16 * j + 12) % 16 ≤ 5 ∧ s.rdN (lsLoc s.curH off) 8 / 2 ^ (16 * j) % 64 = 0) →
        ∃ t e, exec (.tuprog r la) s = .next t ∧ TileIssued s t la e ∧ e.i = .tuprog r la ∧
          e.arg 0 = s.rdN (lsLoc s.curH off) 8) ∧
      ((∃ j < 4, 5 < s.rdN (lsLoc s.curH off) 8 / 2 ^ (16 * j + 12) % 16 ∨ s.rdN (lsLoc s.curH off) 8 / 2 ^ (16 * j) % 64 ≠ 0) →
        ∃ t, exec (.tuprog r la) s = .next t ∧ KernelFault s t fPERM 0 0 0 0)) ∧
    ((s.g r).toNat % 64 ≠ 0 → ∃ t, exec (.tdrd n r la) s = .next t ∧ KernelFault s t fALIGN (s.g r).toNat 0 0 0) ∧
    ((s.g r).toNat % 8 ≠ 0 → ∃ t, exec (.tuprog r la) s = .next t ∧ KernelFault s t fALIGN (s.g r).toNat 0 0 0)

open Sys2Proof Sys2Proof.Machine Sys2Proof.Claims in
/-- R379, R383, R385: TREC opens record mode, or is ADJOVF with NEED 0 where ADJ.PTR lies outside the log; TRECE closes it;
TMARK in record mode reserves 32 bytes and dispatches its header, and has no effect otherwise; TREV is dispatched with all
64 identifiers captured and is ILLEGAL in record mode; TLOGQ reads ADJ.PTR once the span has written every reserved
record. -/
def Obligations.RecordMode : Prop :=
  ∀ (s : State) (r la : Nat),
    (s.cc.recording = false → s.cc.adjBase.toNat ≤ s.cc.adjPtr.toNat → s.cc.adjPtr.toNat ≤ s.cc.adjLimit.toNat →
      ∃ t, exec .trec s = .next t ∧ t.cc.recording = true ∧ t.cc.adjPtr = s.cc.adjPtr ∧ t.cur = issued s.cur 4 ∧
        t = { s with cores := t.cores }) ∧
    (s.cc.recording = false → s.cc.adjPtr.toNat < s.cc.adjBase.toNat ∨ s.cc.adjLimit.toNat < s.cc.adjPtr.toNat →
      ∃ t, exec .trec s = .next t ∧ UserTrap s t 5 0 0 s.cur.pc ∧ wbits t.cc.adjStat 47 16 = 0 ∧ t.cc.recording = false) ∧
    (s.cc.recording = true → ∃ t, exec .trec s = .next t ∧ ThreadIs s t (issued s.cur 4)) ∧
    (∃ t, exec .trece s = .next t ∧ t.cc.recording = false ∧ wbits t.cc.adjCtl 63 1 = wbits s.cc.adjCtl 63 1 ∧
      t.cur = issued s.cur 4 ∧ t = { s with cores := t.cores }) ∧
    (s.cc.recording = false → ∃ t, exec (.tmark r) s = .next t ∧ ThreadIs s t (issued s.cur 4)) ∧
    (s.cc.recording = true → s.cc.adjPtr.toNat + 32 ≤ s.cc.adjLimit.toNat → s.dqFull = false → s.accReady = true →
      ∃ t e, exec (.tmark r) s = .next t ∧ t.cc.dq = s.cc.dq ++ [e] ∧ e.i = .tmark r ∧ e.arg 0 = (s.g r).toNat % 65536 ∧
        e.arg 4 = s.cc.adjPtr.toNat ∧ t.cc.adjPtr = s.cc.adjPtr + 32 ∧ t.cur = issued s.cur 4 ∧ t.mem = s.mem) ∧
    (s.cc.recording = true → s.cc.adjLimit.toNat < s.cc.adjPtr.toNat + 32 →
      ∃ t, exec (.tmark r) s = .next t ∧ UserTrap s t 5 0 0 s.cur.pc ∧ wbits t.cc.adjStat 47 16 = 32) ∧
    (s.cc.recording = false → s.spanBusy = false → ∃ t e, exec (.trev la) s = .next t ∧ TileIssued s t la e ∧ e.i = .trev la ∧
      ∀ k, k < 64 → e.arg k = (s.cur.rdD k).toNat) ∧
    (s.cc.recording = true → ∃ t, exec (.trev la) s = .next t ∧ KernelFault s t fILLEGAL 0 0 0 0) ∧
    (r < 32 → s.cur.openG r = false → s.cc.logOpen = false →
      ∃ t, exec (.tlogq r) s = .next t ∧ Wrote s t r 4 s.cc.adjPtr) ∧
    (s.cur.openG r = false → s.cc.logOpen = true → (∀ e ∈ s.cc.dq, e.faulted = false) → exec (.tlogq r) s = .next s)

open Sys2Proof Sys2Proof.Machine Sys2Proof.Claims in
/-- R360, R363, R365: the span starts an entry: with its operands read and its writes made, the tile takes the
instruction's result, every other tile keeps its contents, the entry leaves the queue and its window's part arrives; a
tile whose tag the instruction does not accept is PERM at the window's close, with the entry kept and the tile as it
was. An entry without tensor operands, outside record mode, needs no access and completes at once. -/
def Obligations.SpanExecutes : Prop :=
  ∀ (s s1 : State) (h : Nat) (e : DqEntry) (a b : TData), Starts s h e → (tileOpc e.i).isSome = true → e.filler = false →
    ((served s h).spanOperands h e = (s1, .ok (a, b)) →
      (∀ t2 ws s2, tileEffect e (tileOf s1 h e) (s1.core h).uprog a b = some (t2, ws) →
        s1.spanWrites h e (ws ++ (if e.recorded then tileRecord e (tileOf s1 h e) a b else [])) = (s2, .ok ()) →
        ∃ t, exec .spanEntryStart s = .next t ∧ tileOf t h e = t2 ∧
          (∀ k, k ≠ tileAcc e.i → (t.core h).acc.val k {} = (s2.core h).acc.val k {}) ∧
          (t.core h).dq = (s2.core h).dq.filter (fun d => decide (d.id ≠ e.id)) ∧ t.mem = s2.mem ∧
          (t.thr h e.slot).pend =
            (if e.orphan then (s2.thr h e.slot).pend else ((s2.thr h e.slot).arrive e.ent 0 2048 0).pend) ∧
          ∀ p, (t.thr h e.slot).rdPhys p = (s2.thr h e.slot).rdPhys p) ∧
      (tileEffect e (tileOf s1 h e) (s1.core h).uprog a b = none → e.ent ≠ 0 → e.orphan = false →
        ∃ t, exec .spanEntryStart s = .next t ∧ tileOf t h e = tileOf s1 h e ∧ t.mem = s1.mem ∧
          (∀ d ∈ (t.core h).dq, d.id = e.id → d.faulted = true) ∧
          ∀ p ∈ (t.thr h e.slot).pend, p.id = e.ent → p.fault = some (.kernel fPERM 0))) ∧
    (∀ t2, e.recorded = false → storeDest e.i = none → (∀ la ids, tileOperands e.i = some (la, ids) → ids = []) →
      tileEffect e (tileOf s h e) (s.core h).uprog { id := e.arg 0 } { id := e.arg 1 } = some (t2, []) → e.orphan = false →
      ∃ t, exec .spanEntryStart s = .next t ∧ tileOf t h e = t2 ∧ t.mem = s.mem ∧
        (t.core h).dq = (s.core h).dq.filter (fun d => decide (d.id ≠ e.id)) ∧
        (t.thr h e.slot).pend = ((s.thr h e.slot).arrive e.ent 0 2048 0).pend)

open Sys2Proof Sys2Proof.Machine Sys2Proof.Claims in
/-- R366 to R375: the results element by element. A wrapping integer product adds the whole sum of products modulo
2^32 however long the sum is; an FP32 product of at most 32 terms is rounded once; elements outside the region, and the
type tag, do not change; TACT.relu, TRED, TTRN, TCVT and TZERO as their rules say. -/
def Obligations.TileResults : Prop :=
  ∀ (e : DqEntry) (t : Tile) (u : Word) (a b : TData) (x i j f g la n m : Nat), i < 64 → j < 64 →
    (∀ (sat : Bool), e.i = (if sat then .tmmaSat x n m f g la else .tmma x n m f g la) → t.int = fmtInt (idFmt a.id) →
      ∃ r, tileEffect e t u a b = some (r, []) ∧ r.int = t.int ∧
        (¬ (i < idRows a.id ∧ j < idCols b.id) → r.at i j = t.at i j) ∧
        (i < idRows a.id → j < idCols b.id → 0 < idCols a.id →
          (t.int = true → sat = false →
            r.at i j = low32 (int32 (t.at i j) + sumBelow (idCols a.id) fun k => a.int i k * b.int k j)) ∧
          (t.int = false → idCols a.id ≤ 32 → r.at i j = fp32.round .rne sat
            (FVal.sum (fp32.read (t.at i j) :: (List.range (idCols a.id)).map fun k => (a.val e.nxm i k).mul (b.val e.nxm k j)))))) ∧
    (e.i = .tmmac x n m f g la → t.int = true → 0 < idCols a.id → 2 * j + 1 < 64 →
      ∃ r, tileEffect e t u a b = some (r, []) ∧ r.int = true ∧ (i < idRows a.id → j < idCols b.id →
        r.at i (2 * j) = low32 (int32 (t.at i (2 * j)) + sumBelow (idCols a.id) fun k => a.re i k * b.re k j - a.im i k * b.im k j) ∧
        r.at i (2 * j + 1) =
          low32 (int32 (t.at i (2 * j + 1)) + sumBelow (idCols a.id) fun k => a.re i k * b.im k j + a.im i k * b.re k j))) ∧
    (∀ (mul : Bool), e.i = (if mul then .tmul x n f la else .tadd x n f la) → (t.int = true → fmtInt (idFmt a.id) = true) →
      ∃ r, tileEffect e t u a b = some (r, []) ∧ r.int = t.int ∧
        (¬ (i < idRows a.id ∧ j < idCols a.id) → r.at i j = t.at i j) ∧
        (i < idRows a.id → j < idCols a.id →
          (t.int = true → r.at i j =
            low32 (if mul then int32 (t.at i j) * a.int i j else int32 (t.at i j) + a.int i j)) ∧
          (t.int = false → r.at i j = fp32.round .rne false
            (if mul then (fp32.read (t.at i j)).mul (a.val e.nxm i j) else (fp32.read (t.at i j)).add (a.val e.nxm i j))))) ∧
    (e.i = .tact x 0 la → ∃ r, tileEffect e t u a b = some (r, []) ∧ r.int = t.int ∧
      (t.int = true → r.at i j = if int32 (t.at i j) < 0 then 0 else t.at i j)) ∧
    (e.i = .tred x 0 la → t.int = true → ∃ r, tileEffect e t u a b = some (r, []) ∧ r.int = true ∧
      r.at i j = if j = 0 then low32 (sumBelow 64 fun k => int32 (t.at i k)) else 0) ∧
    (e.i = .tred x 1 la → t.int = true → ∃ r, tileEffect e t u a b = some (r, []) ∧ r.int = true ∧ (0 < j → r.at i j = 0) ∧
      (∃ k < 64, r.at i 0 = t.at i k) ∧ ∀ k < 64, int32 (t.at i k) ≤ int32 (r.at i 0)) ∧
    (e.i = .ttrn x la → ∃ r, tileEffect e t u a b = some (r, []) ∧ r.int = t.int ∧ r.at i j = t.at j i) ∧
    (e.i = .tcvt x n m la → ∃ r, tileEffect e t u a b = some (r, []) ∧ r.int = decide (n = 0) ∧
      (t.int = decide (n = 0) → r = t)) ∧
    (e.i = .tzero x n la → ∃ r, tileEffect e t u a b = some (r, []) ∧ r.int = decide (n = 1) ∧ r.at i j = 0) ∧
    (e.i = .tmmx x n m f g la → u = 0 → t.int = false →
      ∃ r, tileEffect e t u a b = some (r, []) ∧ r.int = false ∧ r.at i j = t.at i j)

open Sys2Proof Sys2Proof.Machine Sys2Proof.Claims in
/-- R365, R376, R388: an entry that stops, for a fault or a moving page, has written nothing: memory, full/empty bits,
accumulators, the inner-loop buffer and ADJ.PTR are as they were, for a forward instruction and for a record of a reverse
run. What TST writes lies in the rows and scale bytes of its tensor. R385: a reverse run that reaches the base stops with
DONE; a MARK header stops it with its mark id and the pointer below it; a FILLER is stepped over; a header that is not
valid is PERM at its address; a record whose operand has another generation is ADJSTALE with the operand in OPND, unless
ACCEPT is set, and stays unprocessed. -/
def Obligations.SpanStops : Prop :=
  (∀ (s s1 : State) (h : Nat) (e : DqEntry) (x : Option PFault),
    (s.spanForward h e = (s1, .stop x) ∨ s.spanReverse h e = (s1, .stop x)) →
    s1.mem = s.mem ∧ s1.fe = s.fe ∧ (s1.core h).acc = (s.core h).acc ∧ (s1.core h).uprog = (s.core h).uprog ∧
      (s1.core h).adjPtr = (s.core h).adjPtr ∧ s1.accs = s.accs) ∧
  (∀ (t : Tile) (a : Nat) (sat nxm : Bool) (md : Nat → RMode) (w : SWrite), w ∈ tileStore t a sat nxm md →
    ∃ r ∈ idRanges a, r.1 ≤ w.va ∧ w.va + w.size ≤ r.1 + r.2) ∧
  ∀ (s s1 : State) (h : Nat) (e : DqEntry) (top r : Nat), top = (s.core h).adjPtr.toNat →
    (top ≤ (s.core h).adjBase.toNat → ∃ t, s.spanReverse h e = (t, .done 0) ∧ wbits (t.core h).adjStat 3 0 = 1 ∧
      (t.core h).adjPtr = (s.core h).adjPtr ∧ (t.core h).acc = (s.core h).acc ∧ t.mem = s.mem) ∧
    ((s.core h).adjBase.toNat < top → (s.adjStat h 3 0 0).spanRead h e (top - 32) 32 = (s1, .ok r) →
      (hInvalid r (top - (s.core h).adjBase.toNat) = true →
        s.spanReverse h e = (s1, .stop (some (.kernel fPERM (top - 32))))) ∧
      (hInvalid r (top - (s.core h).adjBase.toNat) = false →
        (recField r 0 1 = 0xFF → ∃ t, s.spanReverse h e = (t, .done 0) ∧ (t.core h).adjPtr = BitVec.ofNat 64 (top - 32) ∧
          wbits (t.core h).adjStat 63 48 = recField r 16 2 ∧ wbits (t.core h).adjStat 3 0 = 2 ∧ t.mem = s.mem ∧
          (t.core h).acc = (s.core h).acc) ∧
        (recField r 0 1 = 0xFE → ∃ t, s.spanReverse h e = (t, .more) ∧
          (t.core h).adjPtr = BitVec.ofNat 64 (top - 32 - recField r 20 4) ∧ t.mem = s.mem ∧ (t.core h).acc = (s.core h).acc) ∧
        (recField r 0 1 < 0xFE → needA r = true → hFlA r ≠ 1 → (s.core h).adjCtl.getLsbD 1 = false →
          idGen (e.arg (recField r 4 1)) ≠ recField r 8 2 →
          ∃ t, s.spanReverse h e = (t, .stop (some (.user 7 0))) ∧ wbits (t.core h).adjStat 9 8 = 1 ∧
            (t.core h).adjPtr = (s.core h).adjPtr)))

namespace Sys2Proof.Claims

open Machine

/-- Element (i, j) of the accumulator that a record has saved (R382). -/
def savedEl (d : Rev) (i j : Nat) : Nat := d.x / 2 ^ (32 * (64 * i + j)) % 2 ^ 32

/-- Column `k` is the lowest of row `i` of the saved accumulator whose element equals the row's maximum, or the lowest NaN where
the maximum is a NaN, which is where every element is one (R348, R387). -/
def MaxColumn (int : Bool) (d : Rev) (i k : Nat) : Prop :=
  k < 64 ∧
    (int = true → (∀ m < 64, int32 (savedEl d i m) ≤ int32 (savedEl d i k)) ∧
      ∀ m < k, int32 (savedEl d i m) < int32 (savedEl d i k)) ∧
    (int = false →
      ((∀ m < 64, (fp32.read (savedEl d i m)).isNan = true) ∧ k = 0) ∨
      ((fp32.read (savedEl d i k)).isNan = false ∧
        (∀ m < 64, (fp32.read (savedEl d i k)).lt (fp32.read (savedEl d i m)) = false) ∧
        ∀ m < k, (fp32.read (savedEl d i m)).isNan = true ∨ (fp32.read (savedEl d i m)).lt (fp32.read (savedEl d i k)) = true))

end Sys2Proof.Claims

open Sys2Proof Sys2Proof.Machine Sys2Proof.Claims in
/-- R386, R387: the adjoints. On an integer tile the gradients of the operands of TMMA and TMMAC take the whole sums of products
modulo 2^32, those of TADD, TMUL and TST their elements; on an FP32 tile those of TMMA with a sum of at most 32 products, TADD and
TMUL are rounded once. A gradient column goes up to twice the 4,096 columns of an operand. The tile's own gradient is as the table
says, TRED.max's in the recorded row's lowest column that holds the maximum, and its tag becomes that of the forward tile. -/
def Obligations.Adjoints : Prop :=
  (∀ (r : Nat) (d : Rev) (i c : Nat), i < 4096 → c < 8192 →
    (hTagB r = true →
      (hOpc r ≤ 1 → (0 < hN r → newGradA r d i c =
          low32 (int32 (d.ga.code i c) + sumBelow (hN r) fun k => int32 (d.t.at i k) * d.b.int c k)) ∧
        (0 < hM r → newGradB r d i c =
          low32 (int32 (d.gb.code i c) + sumBelow (hM r) fun k => d.a.int k i * int32 (d.t.at k c)))) ∧
      (hOpc r = 2 ∨ hOpc r = 3 →
        (0 < hN r →
          newGradA r d i (2 * c) = low32 (int32 (d.ga.code i (2 * c)) + sumBelow (hN r) fun k =>
            int32 (d.t.at i (2 * k)) * d.b.re c k + int32 (d.t.at i (2 * k + 1)) * d.b.im c k) ∧
          newGradA r d i (2 * c + 1) = low32 (int32 (d.ga.code i (2 * c + 1)) + sumBelow (hN r) fun k =>
            int32 (d.t.at i (2 * k + 1)) * d.b.re c k - int32 (d.t.at i (2 * k)) * d.b.im c k)) ∧
        (0 < hM r →
          newGradB r d i (2 * c) = low32 (int32 (d.gb.code i (2 * c)) + sumBelow (hM r) fun k =>
            d.a.re k i * int32 (d.t.at k (2 * c)) + d.a.im k i * int32 (d.t.at k (2 * c + 1))) ∧
          newGradB r d i (2 * c + 1) = low32 (int32 (d.gb.code i (2 * c + 1)) + sumBelow (hM r) fun k =>
            d.a.re k i * int32 (d.t.at k (2 * c + 1)) - d.a.im k i * int32 (d.t.at k (2 * c))))) ∧
      (hOpc r = 8 → newGradA r d i c = low32 (int32 (d.ga.code i c) + int32 (d.t.at i c))) ∧
      (hOpc r = 9 → newGradA r d i c =
          low32 (int32 (d.ga.code i c) + int32 (d.t.at i c) * int32 (d.x / 2 ^ (32 * (i * hN r + c))))) ∧
      (hOpc r = 17 → newGradA r d i c = 0)) ∧
    (hTagB r = false →
      (hOpc r ≤ 1 → (0 < hN r → hN r ≤ 32 → newGradA r d i c = fp32.round .rne false
          (FVal.sum (fp32.read (d.ga.code i c) :: (List.range (hN r)).map fun k =>
            (fp32.read (d.t.at i k)).mul (d.b.val (hNxm r) c k)))) ∧
        (0 < hM r → hM r ≤ 32 → newGradB r d i c = fp32.round .rne false
          (FVal.sum (fp32.read (d.gb.code i c) :: (List.range (hM r)).map fun k =>
            (d.a.val (hNxm r) k i).mul (fp32.read (d.t.at k c)))))) ∧
      (hOpc r = 8 → newGradA r d i c =
        fp32.round .rne false ((fp32.read (d.ga.code i c)).add (fp32.read (d.t.at i c)))) ∧
      (hOpc r = 9 → newGradA r d i c = fp32.round .rne false ((fp32.read (d.ga.code i c)).add
        ((fp32.read (d.t.at i c)).mul (fp32.read (d.x / 2 ^ (32 * (i * hN r + c)) % 2 ^ 32))))) ∧
      (hOpc r = 17 → newGradA r d i c = 0))) ∧
  ∀ (r : Nat) (d : Rev) (i j : Nat), i < 64 → j < 64 →
    (newTile r d).int = hTagB r ∧
    (hOpc r ≤ 3 ∨ hOpc r = 8 → (newTile r d).at i j = d.t.at i j) ∧
    (hOpc r = 4 → (i < hM r → j < hN r → (newTile r d).at i j = 0) ∧
      (¬ (i < hM r ∧ j < hN r) → (newTile r d).at i j = d.t.at i j)) ∧
    (hOpc r = 9 → (i < hM r → j < hN r → (newTile r d).at i j =
        if hTagB r then low32 (int32 (d.t.at i j) * d.a.int i j)
        else fp32.round .rne false ((fp32.read (d.t.at i j)).mul (d.a.val (hNxm r) i j))) ∧
      (¬ (i < hM r ∧ j < hN r) → (newTile r d).at i j = d.t.at i j)) ∧
    (hOpc r = 10 → hTagB r = true → (newTile r d).at i j = if 0 < int32 (savedEl d i j) then d.t.at i j else 0) ∧
    (hOpc r = 11 → hXop r = 0 → (newTile r d).at i j = d.t.at i 0) ∧
    (hOpc r = 11 → hXop r = 1 → ∃ k, MaxColumn (hTagB r) d i k ∧
      ∀ j, j < 64 → (newTile r d).at i j = if j = k then d.t.at i 0 else 0) ∧
    (hOpc r = 12 → (newTile r d).at i j = d.t.at j i) ∧
    (hOpc r = 13 → decide (hXop r % 2 = 0) = hTagB r → (newTile r d).at i j = d.t.at i j) ∧
    (hOpc r = 16 → (newTile r d).at i j = 0) ∧
    (hOpc r = 17 → (gradA r = true → i < hM r → j < hN r → (newTile r d).at i j =
        if hTagB r then low32 (int32 (d.t.at i j) + int32 (d.ga.code i j))
        else fp32.round .rne false ((fp32.read (d.t.at i j)).add (fp32.read (d.ga.code i j)))) ∧
      (gradA r = false ∨ ¬ (i < hM r ∧ j < hN r) → (newTile r d).at i j = d.t.at i j))

/-! ### Chapter 20: system instructions -/

namespace Sys2Proof.Claims

open Machine

/-- The instructions marked K (R392). -/
def kernelOnly (i : Instr) : Bool :=
  match i with
  | .kzero _ | .lsclr _ _ | .svcr _ _ _ | .foffer _ _ _ | .fwithdraw _ _ _ | .faccept _ _ _ | .flend _ _ _
  | .frecall _ _ _ | .freturn _ _ _ => true
  | .fquery d _ => decide (d ≤ 29)
  | _ => false

/-- What MFS of a thread, core or die register returns to the issuing thread (R395, R396). -/
def lowRegister (s : State) (n : Nat) : Option Word :=
  match n with
  | 0x00 => some (s.dtime.val (dieOf s.curH) 0)
  | 0x01 => some (BitVec.ofNat 64 s.cc.sclk)
  | 0x02 => some (if s.cc.nxm then 1 else 0)
  | 0x03 => some s.cur.wbsp
  | 0x04 => some (BitVec.ofNat 64 s.cur.wprog)
  | 0x05 => some (BitVec.ofNat 64 (s.cur.low * 65536 + s.cur.base))
  | 0x06 => some s.cur.rep
  | 0x07 => some s.cur.utvec
  | 0x08 => some s.cc.ctag
  | 0x09 => some s.cc.ctagErr
  | 0x0B => some (BitVec.ofNat 64 s.cc.msgDisc)
  | 0x10 => some s.cc.adjBase
  | 0x11 => some s.cc.adjLimit
  | 0x12 => some s.cc.adjPtr
  | 0x13 => some s.cc.adjCtl
  | 0x14 => some s.cc.adjStat
  | 0x15 => some s.cur.limit
  | 0x19 => some s.cur.trap.pc
  | 0x1A => some s.cur.trap.info
  | 0x1B => some s.cur.trap.lpc
  | 0x1C => some s.cur.trap.rep
  | _ => none

/-- The issuing thread after MTS of a thread register at user level (R394 and the registers' own maps). -/
def threadAfterMts (th : Thread) (n : Nat) (v : Word) : Thread :=
  match n with
  | 0x03 => { th with wbsp := v }
  | 0x04 => { th with wprog := v.toNat % 32 }
  | 0x06 => { th with rep := v &&& 0x7FFFC0 }
  | 0x07 => { th with utvec := v &&& 0x01FFFFFFFFFFFFFC }
  | 0x19 => { th with trap := { th.trap with pc := v } }
  | _ => th

/-- Its core after MTS of a core register. -/
def coreAfterMts (c : Core) (n : Nat) (v : Word) : Core :=
  match n with
  | 0x02 => { c with nxm := v.getLsbD 0 }
  | 0x10 => { c with adjBase := v &&& ~~~31 }
  | 0x11 => { c with adjLimit := v &&& ~~~31 }
  | 0x12 => { c with adjPtr := v &&& ~~~31 }
  | 0x13 => { c with adjCtl := (v &&& 0xFFFFFFFF00000002) ||| (c.adjCtl &&& 1) }
  | _ => c

/-- Registers above 0x03F that a write only stores into, with their writable bits. -/
def plainRegister (n : Nat) : Option Word :=
  match n with
  | 0x40 => some 0x0000FFFFFFFFFF00
  | 0x51 => some 0x0000FFFFFFFF0000
  | 0x61 => some 0xFFFFFFFFFFFF0000
  | 0x82 => some 0xFFFFFFFFFFFFFFFF
  | 0x83 => some 0x00000000FFFFFFFF
  | 0xA1 => some 0x01FFFFFFFFFF0000
  | 0xA5 => some 0x00000000FFFFFFFF
  | 0xA7 => some 0x00000000FFFFFFFF
  | 0xA8 => some 0xFFFFFFFFFFFFFFFF
  | 0xB1 => some 0x0000FFFFFFFF0000
  | 0xB2 => some 0x000000000000000F
  | 0xB4 => some 0xFFFFFFFFFFFFFFFF
  | 0xB8 => some 0x0000FFFFFFFF0000
  | 0xC8 => some 0x0000FFFFFFFF0000
  | 0xC9 => some 0x0000FFFFFFFF0000
  | 0xE1 => some 0x01FFFFFFFFFFFFFC
  | _ => none

/-- A thread slot that has been freed: no register, no window, only its channels (R146, R319). -/
def Freed (th th' : Thread) : Prop :=
  th'.st = .free ∧ th'.pend = [] ∧ (∀ p, th'.rdPhys p = 0) ∧ th'.chans = th.chans ∧ th'.offers = th.offers

/-- The value that WAIT writes: its four bits (R399); `past` says that its time has already been found to have passed. -/
def WaitValue (s : State) (t0 : Nat) (ctag x v : Word) (past : Bool) : Prop :=
  v.toNat < 16 ∧
    (v.getLsbD 0 = true ↔ past = true ∨ x ≠ 0 ∧ x.toNat * 65536 ≤ (s.dt (dieOf s.curH) + 2 ^ 64 - t0) % 2 ^ 64) ∧
    (v.getLsbD 1 = true ↔ ∃ c < 8, s.cur.chans.val c [] ≠ []) ∧
    (v.getLsbD 2 = true ↔ s.cc.ctag &&& ~~~ctag ≠ 0) ∧
    (v.getLsbD 3 = true ↔ s.kernel = true ∧ s.cc.ipend &&& s.cc.imask ≠ 0)

/-- The transaction of each frame instruction. -/
def frameForm (i : Instr) : Option (Tx × Nat × Nat × Nat) :=
  match i with
  | .foffer d a b => some (.offer, d, a, b)
  | .fwithdraw d a b => some (.withdraw, d, a, b)
  | .faccept d a b => some (.accept, d, a, b)
  | .flend d a b => some (.lend, d, a, b)
  | .frecall d a b => some (.recall, d, a, b)
  | .freturn d a b => some (.ret, d, a, b)
  | _ => none

end Sys2Proof.Claims

open Sys2Proof Sys2Proof.Machine Sys2Proof.Claims in
/-- R391 to R395: an instruction marked K is PRIV at user level. MFS of an assigned register, permitted at its level and in
range, writes what the register reads as and nothing else; an unassigned number and an index on a register that is no array
are ILLEGAL, a kernel register at user level PRIV, and an index past the end PERM. -/
def Obligations.SpecialRegisterReads : Prop :=
  (∀ (i : Instr) (s : State), kernelOnly i = true → s.kernel = false → ∃ t, exec i s = .next t ∧ KernelFault s t fPRIV 0 0 0 0) ∧
  ∀ (s : State) (d a c n : Nat), d < 32 →
    (srLen n = none → ∃ t, exec (.mfs d a c n) s = .next t ∧ KernelFault s t fILLEGAL 0 0 0 0) ∧
    (∀ len, srLen n = some len →
      (c ≠ 0 → len = 1 → ∃ t, exec (.mfs d a c n) s = .next t ∧ KernelFault s t fILLEGAL 0 0 0 0) ∧
      (c = 0 ∨ len ≠ 1 →
        (0x40 ≤ n → s.kernel = false → ∃ t, exec (.mfs d a c n) s = .next t ∧ KernelFault s t fPRIV 0 0 0 0) ∧
        (n < 0x40 ∨ s.kernel = true → s.cur.openG d = false →
          (len ≤ (s.g a + BitVec.ofNat 64 c).toNat → ∃ t, exec (.mfs d a c n) s = .next t ∧ KernelFault s t fPERM 0 0 0 0) ∧
          ((s.g a + BitVec.ofNat 64 c).toNat < len → ∃ t v, exec (.mfs d a c n) s = .next t ∧ Wrote s t d 4 v ∧
            v = s.readSr s.curH s.curSlot n (s.g a + BitVec.ofNat 64 c).toNat ∧ ∀ x, lowRegister s n = some x → v = x))))

open Sys2Proof Sys2Proof.Machine Sys2Proof.Claims in
/-- R393, R394: MTS closes every window, then writes the fields of a thread's or core's register that are writable and
nothing else; a user-level MTS of any other register than those R394 names is PRIV; a package register's write waits for
the `.sys` release and stores the writable bits, and no other special register changes. That PRIV comes before the windows close,
and then the index's PERM, the fence and the write, is the model's reading (log 49), and so are the writable bits of those package
registers for which the manual gives no map (log 11, PRESUMED). -/
def Obligations.SpecialRegisterWrites : Prop :=
  ∀ (s s0 : State) (d a c n len : Nat), srLen n = some len → (c = 0 ∨ len ≠ 1) → WindowsClose s s0 →
    (s.kernel = false → n ∉ [0x02, 0x03, 0x04, 0x06, 0x07, 0x10, 0x11, 0x12, 0x13, 0x19] →
      ∃ t, exec (.mts d a c n) s = .next t ∧ KernelFault s t fPRIV 0 0 0 0) ∧
    ((s0.g a + BitVec.ofNat 64 c).toNat < len →
      (n ∈ [0x02, 0x03, 0x04, 0x06, 0x07, 0x10, 0x11, 0x12, 0x13, 0x19] → (s.kernel = false ∨ n ≠ 0x19) →
        ∃ t, exec (.mts d a c n) s = .next t ∧ t.cur = threadAfterMts (issued s0.cur 4) n (s0.g d) ∧
          { t.cc with threads := [] } = { coreAfterMts s0.cc n (s0.g d) with threads := [] } ∧
          (∀ k, k ≠ s.curSlot → t.thr s.curH k = s0.thr s.curH k) ∧ t = { s0 with cores := t.cores } ∧
          ∀ h, h ≠ s.curH → t.core h = s0.core h) ∧
      (s.kernel = true → n = 0x15 → ∃ t, exec (.mts d a c n) s = .next t ∧
        t.cur = { issued s0.cur 4 with limit := s0.g d, cyc := 0 } ∧ OnlyThread s0 t) ∧
      (s.kernel = true → n = 0x1C → ∃ t, exec (.mts d a c n) s = .next t ∧
        t.cur = { issued s0.cur 4 with trap := { s0.cur.trap with rep := s0.g d &&& 0x7FFFC0 } } ∧ OnlyThread s0 t) ∧
      (s.kernel = true → n = 0x23 → ∃ t, exec (.mts d a c n) s = .next t ∧
        t.cur = { issued s0.cur 4 with asid := (s0.g d).toNat % 65536 } ∧ OnlyThread s0 t) ∧
      (∀ m, plainRegister n = some m → s.kernel = true → FenceDone s0 4 (fun _ => true) →
        ∃ t, exec (.mts d a c n) s = .next t ∧ t.cur = issued s0.cur 4 ∧
          t.srv n (s0.g a + BitVec.ofNat 64 c).toNat = s0.g d &&& m ∧
          (∀ k i, k < 4096 → i < 65536 → (k ≠ n ∨ i ≠ (s0.g a + BitVec.ofNat 64 c).toNat) → t.srv k i = s0.srv k i) ∧
          t = { s0 with cores := t.cores, sr := t.sr })) ∧
    (len ≤ (s0.g a + BitVec.ofNat 64 c).toNat → userMts n = true ∨ s.kernel = true →
      ∃ t, exec (.mts d a c n) s = .next t ∧ KernelFault s0 t fPERM 0 0 0 0)

open Sys2Proof Sys2Proof.Machine Sys2Proof.Claims in
/-- R397, R398: TRAP and BRK close every window and take causes 12 and 11, returning to the next instruction, TRAP with its
operand in INFO; RFT outside a handler is ILLEGAL, with an odd return address ALIGN, and otherwise restores REPCNT and the
saved windows, clears ACT and continues at TRAP.PC with every scalar register as the handler left it, and R153: the entry
whose fault was taken is issued again. That RFT first closes windows of the handler that the saved ones leave no place for
is the model's choice (log 68). -/
def Obligations.TrapAndReturn : Prop :=
  (∀ (s s0 : State) (a : Nat), WindowsClose s s0 →
    (∃ t, exec (.trap a) s = .next t ∧ UserTrap s0 t 12 (s0.g a) 0 (s0.cur.pc + 4)) ∧
    (∃ t, exec .brk s = .next t ∧ UserTrap s0 t 11 0 0 (s0.cur.pc + 4))) ∧
  ∀ (s : State),
    (s.cur.trap.act = false → ∃ t, exec .rft s = .next t ∧ KernelFault s t fILLEGAL 0 0 0 0) ∧
    (s.cur.trap.act = true → s.cur.trap.pc.getLsbD 0 = true →
      ∃ t, exec .rft s = .next t ∧ KernelFault s t fALIGN s.cur.trap.pc.toNat 0 0 0) ∧
    (s.cur.trap.act = true → s.cur.trap.pc.getLsbD 0 = false → 4 < s.cur.trap.pend.length + s.cur.pend.length →
      ∃ t, exec .rft s = .next t ∧ Stalled s t) ∧
    (s.cur.trap.act = true → s.cur.trap.pc.getLsbD 0 = false → s.cur.trap.pend.length + s.cur.pend.length ≤ 4 →
      ∃ t, exec .rft s = .next t ∧ t.cur.pc = s.cur.trap.pc ∧
      t.cur.rep = s.cur.trap.rep ∧ t.cur.trap.act = false ∧ (∀ p, t.cur.rdPhys p = s.cur.rdPhys p) ∧ t.mem = s.mem ∧
      (∀ i e c x, s.cur.trap.ent = i + 1 → s.cur.trap.pend[i]? = some e → e.fault = some (.kernel c x) →
        ∃ e', t.cur.pend[i]? = some e' ∧ e'.id = e.id ∧ e'.dest = e.dest ∧ e'.fault = none ∧ e.missing + e.retry.length ≤ e'.missing ∧
          t.accs.length = s.accs.length + e.retry.length) ∧
      (s.cur.trap.ent = 0 → t.cur.supp = decide (s.cur.trap.cause = 10 ∨ s.cur.trap.cause = 4) ∧
        t.cur.pend = s.cur.trap.pend ++ s.cur.pend.map fun e => { e with cnt := e.cnt - 1 }))

open Sys2Proof Sys2Proof.Machine Sys2Proof.Claims in
/-- R141 to R146, R399: HALT and HALT.K free the slot and keep the other threads; SPAWN starts a thread on the lowest free
slot with its operand in w0, or writes all ones; GANG arrives for a size it allows, is ILLEGAL where its core or its interval is
in a gang already and PERM where a live core of the interval is no member; SPLIT leaves the gang; WAIT writes the
conditions that hold or waits from now on; YIELD only issues. -/
def Obligations.ThreadControl : Prop :=
  (∀ (s s0 : State) (d a b lg : Nat), WindowsClose s s0 → d < 32 → s0.cur.st = .active →
    (s0.slogPending s0.curH s0.curSlot = false → s0.cc.haltEx s0.curSlot = false →
      (∃ t, exec .halt s = .next t ∧ Freed s0.cur t.cur ∧ (∀ k, k ≠ s.curSlot → t.thr s.curH k = s0.thr s.curH k) ∧
        t.cc.haltK = none ∧ t.mem = s0.mem) ∧
      (∃ t, exec (.haltK a) s = .next t ∧ Freed s0.cur t.cur ∧ (∀ k, k ≠ s.curSlot → t.thr s.curH k = s0.thr s.curH k) ∧
        t.cc.haltK = (if (s0.g a).toNat < 2 ^ 44 then some ((s0.g a).toNat / 2 ^ 32, (s0.g a).toNat % 2 ^ 32) else none) ∧
        t.mem = s0.mem)) ∧
    ((s0.g a).toNat % 4 = 0 →
      (∀ k, s0.cc.freeSlot = some k → ∃ t, exec (.spawn d a b) s = .next t ∧ RegWritten s0.cur t.cur d (BitVec.ofNat 64 k) ∧
        (t.thr s.curH k).st = .active ∧ (t.thr s.curH k).pc = s0.g a ∧ (t.thr s.curH k).readG 8 = s0.g b ∧
        (∀ p, p ≠ 8 → (t.thr s.curH k).rdPhys p = 0) ∧ (t.thr s.curH k).asid = s0.cur.asid ∧
        t.cur.pc = (issued s0.cur 4).pc ∧ t.mem = s0.mem) ∧
      (s0.cc.freeSlot = none → ∃ t, exec (.spawn d a b) s = .next t ∧ Wrote s0 t d 4 (BitVec.allOnes 64))) ∧
    ((s0.g a).toNat % 4 ≠ 0 → ∃ t, exec (.spawn d a b) s = .next t ∧ KernelFault s0 t fALIGN (s0.g a).toNat 0 0 0) ∧
    (1 ≤ lg → lg ≤ 6 → s0.cur.wait = .none → s0.cc.gangBusy s0.curSlot = false →
      (∀ m ∈ s0.liveIn (2 ^ lg * (s0.curH / 2 ^ lg), 2 ^ lg), s0.member s0.gangPart m = true) → s0.gangClash s0.curH (2 ^ lg) = false →
      ∃ t, exec (.gang lg) s = .next t ∧ ThreadIs s0 t { s0.cur with wait := .gang (2 ^ lg) }) ∧
    (1 ≤ lg → lg ≤ 6 → s0.cur.wait = .none → s0.cc.gangBusy s0.curSlot = true ∨ s0.gangClash s0.curH (2 ^ lg) = true →
      ∃ t, exec (.gang lg) s = .next t ∧ KernelFault s0 t fILLEGAL 0 0 0 0) ∧
    (1 ≤ lg → lg ≤ 6 → s0.cur.wait = .none → s0.cc.gangBusy s0.curSlot = false → s0.gangClash s0.curH (2 ^ lg) = false →
      (∃ m ∈ s0.liveIn (2 ^ lg * (s0.curH / 2 ^ lg), 2 ^ lg), s0.member s0.gangPart m = false) →
      ∃ t, exec (.gang lg) s = .next t ∧ KernelFault s0 t fPERM 0 0 0 0) ∧
    (s0.cc.gang = none → ∃ t, exec .split s = .next t ∧ ThreadIs s0 t (issued s0.cur 4)) ∧
    (∀ g, s0.cc.gang = some g → g.slot = s0.curSlot → ∃ t, exec .split s = .next t ∧ t.cc.gang = none ∧
      t.cur.inGang = false ∧ { t.cur with inGang := s0.cur.inGang } = issued s0.cur 4 ∧ t.mem = s0.mem)) ∧
  (∀ (s : State) (lg : Nat), lg = 0 ∨ 6 < lg → ∃ t, exec (.gang lg) s = .next t ∧ KernelFault s t fILLEGAL 0 0 0 0) ∧
  (∀ (s : State) (d a : Nat) (v : Word), d < 32 → s.cur.openG d = false →
    (s.cur.wait = .none → WaitValue s (s.dt (dieOf s.curH)) s.cc.ctag (s.g a) v false →
      (v ≠ 0 → ∃ t, exec (.wait d a) s = .next t ∧ Wrote s t d 4 v) ∧
      (v = 0 → ∃ t, exec (.wait d a) s = .next t ∧
        ThreadIs s t { s.cur with wait := .waitSince (s.dt (dieOf s.curH)) s.cc.ctag d (s.g a) false })) ∧
    (∀ t0 ctag x past, s.cur.wait = .waitSince t0 ctag d x past → WaitValue s t0 ctag x v past →
      (v ≠ 0 → ∃ t, exec (.wait d a) s = .next t ∧ Wrote s t d 4 v) ∧ (v = 0 → exec (.wait d a) s = .next s))) ∧
  ∀ (s : State), ∃ t, exec .yield s = .next t ∧ ThreadIs s t (issued s.cur 4)

open Sys2Proof Sys2Proof.Machine Sys2Proof.Claims in
/-- R400 to R403: INVX drops the named translations and instruction lines, and with a bad control word writes BADARG; at user
level it may clear the instruction lines of its own address space (IONLY), which drops no translation and waits for nothing, and
any other form is PRIV. While an access that may use a dropped translation, of the whole space or tenant (the model's reading, log
81), is not yet performed, it waits for those it found. KZERO empties a key slot; LSCLR clears an idle core's local store, accumulators,
registers and channels, with the deck shares of the quad's fused cores where it is the lowest member of its partition there, and
writes its status otherwise; SVCR acts on a parked thread, with REPLACE setting the core's PART.EXCL bit or, of a member, starting
its exclusion (R96, R160), and writes its status otherwise. All but the user-level INVX of one system core's thread, with its
`.sys` fence done where the rule asks for one. -/
def Obligations.Maintenance : Prop :=
  (∀ (s : State) (d a b : Nat), d < 32 →
    (s.kernel = false → ¬ (ixIonly (s.g b) = true ∧ wbits (s.g b) 15 0 = s.asidOf s.curH s.curSlot) →
      ∃ t, exec (.invx d a b) s = .next t ∧ KernelFault s t fPRIV 0 0 0 0) ∧
    (s.kernel = true ∨ ixIonly (s.g b) = true ∧ wbits (s.g b) 15 0 = s.asidOf s.curH s.curSlot →
      (s.cur.openG d = true → ∃ t, exec (.invx d a b) s = .next t ∧ UserTrap s t 3 0 0 s.cur.pc) ∧
      (s.cur.openG d = false →
        (ixBad (s.g a) (s.g b) = true → ∃ t, exec (.invx d a b) s = .next t ∧ Wrote s t d 4 2) ∧
        (ixBad (s.g a) (s.g b) = false → s.cur.wait = .none →
          ((∀ c ∈ s.accs, ixWaits (s.g b) c = false) → (∀ p ∈ s.cores, p.2.slog = [] ∧ ∀ e ∈ p.2.dq, e.started = false) →
            ∃ t, exec (.invx d a b) s = .next t ∧ RegWritten s.cur t.cur d 0 ∧ t.cur.pc = (issued s.cur 4).pc ∧
              t.xls = (if ixIonly (s.g b) then s.xls else s.xls.filter fun x => !ixNames (s.g a) (s.g b) x) ∧ t.mem = s.mem ∧
              (∀ q, ∀ l ∈ (t.quad q).icache, l ∈ (s.quad q).icache ∧ s.ixSpace (s.g b) l.asid = false) ∧
              (ixIonly (s.g b) = true → ∀ q, ∀ l ∈ (s.quad q).icache, l.asid ≠ wbits (s.g b) 15 0 → l ∈ (t.quad q).icache)) ∧
          ((∃ c ∈ s.accs, ixWaits (s.g b) c = true) →
            ∃ t ids, exec (.invx d a b) s = .next t ∧ t.cur = { s.cur with wait := .inval ids } ∧ t.mem = s.mem ∧
              (∀ c ∈ s.accs, ixWaits (s.g b) c = true → c.id ∈ ids) ∧
              t.xls = s.xls.filter fun x => !ixNames (s.g a) (s.g b) x))))) ∧
  ∀ (s : State) (d a b h k : Nat), d < 32 → s.cur.openG d = false → s.kernel = true →
    (FenceDone s 4 (fun _ => true) → ∃ t, exec (.kzero a) s = .next t ∧ t.keys.val ((s.g a).toNat % 256) {} = {} ∧
      (∀ n, n ≠ (s.g a).toNat % 256 → t.keys.val n {} = s.keys.val n {}) ∧ t.cur = issued s.cur 4 ∧ t.mem = s.mem) ∧
    (h = (s.g a).toNat % 8192 →
      (8192 ≤ (s.g a).toNat ∨ s.live h = false ∨ s.isSys h = true → ∃ t, exec (.lsclr d a) s = .next t ∧ Wrote s t d 4 2) ∧
      ((s.g a).toNat < 8192 → s.live h = true → s.isSys h = false →
        ((s.core h).share ≠ none ∨ (∃ j < 4, (s.thr h j).st ≠ .free) → ∃ t, exec (.lsclr d a) s = .next t ∧ Wrote s t d 4 1) ∧
        ((s.core h).share = none → (∀ j < 4, (s.thr h j).st = .free) →
          ∃ t, exec (.lsclr d a) s = .next t ∧ RegWritten s.cur t.cur d 0 ∧
            (∀ x, lsLoc h 0 ≤ x → x < lsLoc h 0 + 65536 → t.rd8 x = 0 ∧ t.full x = false) ∧
            (t.core h).acc = [] ∧ (t.core h).uprog = 0 ∧ (t.core h).adjCtl = 0 ∧ (t.core h).adjPtr = 0 ∧ (t.core h).ctag = 0 ∧
            (t.core h).permit = none ∧ (t.core h).retain = none ∧ (∀ j c, (t.thr h j).chans.val c [] = []) ∧
            ∀ j f, s.partOf h = some j → s.member j h = true →
              (∀ m, m / 4 = h / 4 → m < h → s.member j m = false) → f / 4 = h / 4 → s.partOf f = some j → s.live f = false →
              ∀ x, deckLoc (f / 4) (f % 4 * 0x20000) ≤ x → x < deckLoc (f / 4) (f % 4 * 0x20000) + 0x20000 →
                t.rd8 x = 0 ∧ t.full x = false))) ∧
    (h = (s.g a).toNat % 8192 → k = (s.g a).toNat / 2 ^ 16 % 4 → s.cur.st = .active →
      (s.live h = false → ∃ t, exec (.svcr d a b) s = .next t ∧ Wrote s t d 4 2) ∧
      (s.live h = true → s.g a = BitVec.ofNat 64 (h + k * 2 ^ 16 + (s.g a).toNat / 2 ^ 24 % 4 * 2 ^ 24) →
        ((s.g a).toNat / 2 ^ 24 % 4 = 1 → (s.g b).getLsbD 0 = true →
          ∃ t, exec (.svcr d a b) s = .next t ∧ KernelFault s t fALIGN (s.g b).toNat 0 0 0) ∧
        ((s.g a).toNat / 2 ^ 24 % 4 ≠ 1 ∨ (s.g b).getLsbD 0 = false →
          ((∀ c, (s.thr h k).st ≠ .parked c) ∨ (s.thr h k).saved = true → ∃ t, exec (.svcr d a b) s = .next t ∧ Wrote s t d 4 1) ∧
          (∀ c, (s.thr h k).st = .parked c → (s.thr h k).saved = false → FenceDone s 4 (fun _ => true) →
            ((s.g a).toNat / 2 ^ 24 % 4 = 0 → ∃ t, exec (.svcr d a b) s = .next t ∧ RegWritten s.cur t.cur d 0 ∧
              (t.thr h k).st = .active ∧ (t.thr h k).pc = (s.thr h k).pc ∧ ∀ p, (t.thr h k).rdPhys p = (s.thr h k).rdPhys p) ∧
            ((s.g a).toNat / 2 ^ 24 % 4 = 1 → ∃ t, exec (.svcr d a b) s = .next t ∧ RegWritten s.cur t.cur d 0 ∧
              (t.thr h k).st = .active ∧ (t.thr h k).pc = s.g b ∧ ∀ p, (t.thr h k).rdPhys p = (s.thr h k).rdPhys p) ∧
            ((s.g a).toNat / 2 ^ 24 % 4 = 2 → ∃ t, exec (.svcr d a b) s = .next t ∧ RegWritten s.cur t.cur d 0 ∧
              Freed (s.thr h k) (t.thr h k)) ∧
            ((s.g a).toNat / 2 ^ 24 % 4 = 3 → ∃ t, exec (.svcr d a b) s = .next t ∧ RegWritten s.cur t.cur d 0 ∧
              ((s.core h).retain = none → (t.thr h k).st = (s.thr h k).st) ∧
              (s.exclWaits h = false → s.partOf h = none → t.excl h = true) ∧
              ∀ j, s.exclWaits h = false → s.partOf h = some j → s.excl h = false → h ∉ s.exclBusy → (s.part j).resizing = false →
                (s.member j h = false → t.excl h = true) ∧
                (s.member j h = true → h ∈ t.exclBusy ∧ t.excl h = false ∧
                  ((s.core h).share ≠ none → (t.core h).quiesce = true)))))))

open Sys2Proof Sys2Proof.Machine Sys2Proof.Claims in
/-- R81, R82, R404, R405: a frame instruction whose fence is done runs its transaction as ACCEL and writes the result, at
once or, for FOFFER and FRETURN, when the revocation it started has ended; FACCEPT waits while the frame's last holder is
still being revoked (the model's reading of R85, log 75); FQUERY writes the result and the entry; LAUNCH
rings the doorbell of its queue; FCINC adds to its counter and raises its clock, once no earlier acquire is on its way (the model's reading, log 84); FCWAIT stalls below its bound and then
acquires; FCREAD reads. A queue or counter past its limit is PERM. -/
def Obligations.FramesQueuesCounters : Prop :=
  (∀ (i : Instr) (s : State) (t : Tx) (d a b : Nat) (r : State × Word × Bool), frameForm i = some (t, d, a, b) → d < 32 →
    s.kernel = true → s.cur.openG d = false → r = s.transact t 1 (s.g a) (s.g b) (fun _ => .thread s.curH s.curSlot) →
    (FenceDone s 4 (fun _ => true) → (t = .accept → s.revoking ((s.g a).toNat % 2 ^ 32) = false) →
      ∃ u, exec i s = .next u ∧ u.frames = r.1.frames ∧
        (if r.2.2 then u.cur.wait = .frameTx s.nextId r.2.1 0 0 ∧ u.cur.pc = r.1.cur.pc
         else RegWritten r.1.cur u.cur d r.2.1 ∧ u.cur.pc = (issued r.1.cur 4).pc ∧ u.mem = r.1.mem)) ∧
    (FenceDone s 4 (fun _ => true) → t = .accept → s.revoking ((s.g a).toNat % 2 ^ 32) = true → exec i s = .next s) ∧
    (∀ id res e0 e1, s.cur.wait = .frameTx id res e0 e1 → (∀ r ∈ s.revokes, r.id ≠ id) →
      ∃ u, exec i s = .next u ∧ Wrote s u d 4 res)) ∧
  (∀ (s : State) (d a : Nat), d ≤ 29 → s.kernel = true → s.cur.openG d = false → s.cur.openG (d + 1) = false →
    s.cur.openG (d + 2) = false → FenceDone s 4 (fun _ => true) →
    ∃ u, exec (.fquery d a) s = .next u ∧ OnlyThread s u ∧ u.cur.pc = (issued s.cur 4).pc ∧
      (d ≠ 0 → u.g d = (s.query (s.g a) 0).1) ∧ u.g (d + 1) = (s.query (s.g a) 0).2.1 ∧ u.g (d + 2) = (s.query (s.g a) 0).2.2 ∧
      ∀ p, p ≠ s.cur.phys d → p ≠ s.cur.phys (d + 1) → p ≠ s.cur.phys (d + 2) → u.cur.rdPhys p = s.cur.rdPhys p) ∧
  ∀ (s : State) (d a b : Nat), d < 32 → s.cur.openG d = false →
    (s.kernel = true → (s.counterOf (s.g a) = none ↔ 65536 ≤ (s.g a).toNat) ∧ (s.queueOf (s.g a) = none ↔ 4096 ≤ (s.g a).toNat)) ∧
    (s.queueOf (s.g a) = none → ∃ t, exec (.launch d a b) s = .next t ∧ KernelFault s t fPERM 0 0 0 0) ∧
    (∀ q r, s.queueOf (s.g a) = some q → FenceDone s 4 (fun _ => true) → r = s.doorbell q ((s.g b).toNat % 2 ^ 32) →
      ∃ t, exec (.launch d a b) s = .next t ∧ RegWritten r.1.cur t.cur d (BitVec.ofNat 64 r.2) ∧ t.mem = r.1.mem ∧
        t.sr = r.1.sr ∧ t.cur.pc = (issued r.1.cur 4).pc) ∧
    (s.counterOf (s.g a) = none → (∃ t, exec (.fcinc a b) s = .next t ∧ KernelFault s t fPERM 0 0 0 0) ∧
      (∃ t, exec (.fcwait d a b) s = .next t ∧ KernelFault s t fPERM 0 0 0 0) ∧
      (∃ t, exec (.fcread d a) s = .next t ∧ KernelFault s t fPERM 0 0 0 0)) ∧
    (∀ n, s.counterOf (s.g a) = some n → n < 65536 →
      (s.cc.clockEx = true → ∃ t, exec (.fcinc a b) s = .next t ∧ KernelFault s t fCLOCKEX 0 0 0 0) ∧
      (s.cc.clockEx = false → s.relWaits = true → exec (.fcinc a b) s = .next s) ∧
      (s.cc.clockEx = false → s.relWaits = false → FenceDone s 4 (fun _ => true) → ∃ t, exec (.fcinc a b) s = .next t ∧
        t.srv 0xA8 n = s.srv 0xA8 n + s.g b ∧ t.cc.sclk = s.cc.sclk + 1 ∧
        t.fcClk.val n 0 = max (s.fcClk.val n 0) (s.cc.sclk + 1) ∧ t.cur = issued s.cur 4 ∧ t.mem = s.mem) ∧
      ((s.srv 0xA8 n).toNat < (s.g b).toNat → exec (.fcwait d a b) s = .next s) ∧
      ((s.g b).toNat ≤ (s.srv 0xA8 n).toNat → ∃ t, exec (.fcwait d a b) s = .next t ∧
        RegWritten s.cur t.cur d (s.srv 0xA8 n) ∧ t.cc.sclk = max s.cc.sclk (s.fcClk.val n 0) ∧
        t.cur.pc = (issued s.cur 4).pc ∧ t = { s with cores := t.cores }) ∧
      (∃ t, exec (.fcread d a) s = .next t ∧ Wrote s t d 4 (s.srv 0xA8 n)))

/-! ### Chapters 1, 8 and 28: resets, clock plans, time, the parapet and the keystone -/

namespace Sys2Proof.Claims

open Machine

/-- `CLK.STAT` for an outcome (R20). -/
def clkOutcome (code harm sock band : Nat) : Word := BitVec.ofNat 64 (code + band * 2 ^ 28 + sock * 2 ^ 32 + harm * 2 ^ 40)

/-- Harmonic `n` of `f` kHz lies in the band (R17). -/
def Struck (b : Nat × Nat) (n f : Nat) : Prop := b.2 ≠ 0 ∧ b.1 ≤ n * f ∧ n * f ≤ b.2

/-- A plan passes every check of R17. -/
def PlanPasses (r : Nat) : Prop :=
  recField r 0 4 = 0x434C4B31 ∧ recField r 6 2 ≤ 1 ∧ 192 ≤ recField r 4 2 ∧ recField r 4 2 ≤ 208 ∧
    (∀ i < 20, 1600 ≤ recField r (8 + 2 * i) 2 ∧ recField r (8 + 2 * i) 2 ≤ 2000) ∧
    (∀ j < 16, recField r (52 + 8 * j) 4 ≠ 0 → recField r (48 + 8 * j) 4 ≤ recField r (52 + 8 * j) 4) ∧
    ∀ j < 16, ∀ n, 1 ≤ n → n ≤ 64 → ¬ Struck (recField r (48 + 8 * j) 4, recField r (52 + 8 * j) 4) n (500 * recField r 4 2) ∧
      ∀ i < 20, ¬ Struck (recField r (48 + 8 * j) 4, recField r (52 + 8 * j) 4) n (500 * recField r (8 + 2 * i) 2)

/-- The address of the plan, which the accelerator kernel may read: in an OWNED or FREE frame of its own, in the clear
(R19, R84). -/
def PlanReadable (s : State) (a : Nat) : Prop :=
  a = s.srf 0x40 0 47 8 * 256 ∧ isHbm a = true ∧ (s.frame (a / 65536)).owner = 1 ∧ (s.frame (a / 65536)).state ≤ 1 ∧
    (s.frame (a / 65536)).tenant = 0 ∧ (s.frame (a / 65536)).prot = false ∧ s.poison.contains (a / 256) = false ∧ s.bitErr = []

/-- Nothing makes the next reset publish another harvest map (R11). -/
def MapStands (s : State) : Prop :=
  s.failing = [] ∧ ∀ p ∈ s.sr, p.1 / 65536 ≠ 0x20 ∧ (p.1 / 65536 = 0xB0 → 8 ≤ p.1 % 65536)

/-- The answer is the only change (R36). -/
def Answers (s t : State) (l : List Nat) : Prop := t = { s with out := s.out ++ [.doe l] }

end Sys2Proof.Claims

open Sys2Proof Sys2Proof.Machine Sys2Proof.Claims in
/-- R11 to R37, R431, R432: what the events of the package do. A cold reset leaves every register at its cold value and
device memory as bring-up leaves it, host and pool memory as they were; a warm reset ends every thread and keeps device
memory, the frame record and DTIME; a clock plan is applied where it passes the checks of R17 and reported where it does
not, socket by socket; a time unit locks, counts its failures and wraps, and the locked units read a new role's state; the parapet
sets and clears its conditions; the keystone answers. The model's own choices here: the cold values that the manual does not give
(log 1) and what unlisted memory holds (log 3); that the clocks come back at once when the last throttle ends (log 78); what PAR.CAP
drops and the bytes of measurement 4 (log 79); the codes and layout of the SPDM messages (log 11), and that any part of the
certificate chain is answered (log 6). -/
def Obligations.PackageEvents : Prop :=
  ∀ (s : State),
    (∃ t, exec .coldReset s = .next t ∧ t.cores = [] ∧ t.quads = [] ∧ t.accs = [] ∧ t.xls = [] ∧ t.keys = [] ∧ t.frames = [] ∧ t.dtime = [] ∧
      (∀ h ∈ s.failing, t.live h = false) ∧ t.fwRecovery = !s.fwValid ∧
      (s.failing = [] → (∀ n i, n ≠ 0x46 → i < 65536 → t.srv n i = srReset n i) ∧ t.srv 0x46 0 = (if s.tripCause then 8 else 0) ∧
        (Memory.wf s.mem = true → ∀ x, t.rd8 x = if x < 2 ^ 64 ∧ isPool x = false then (memInit x).toNat else s.rd8 x))) ∧
    (s.params = [] → s.mig = none → ∃ t, exec .warmReset s = .next t ∧ (∀ h k, (t.thr h k).st = .free) ∧ t.accs = [] ∧ t.xls = [] ∧
      t.keys = [] ∧ t.frames = s.frames ∧ t.dtime = s.dtime ∧ t.bootDue = true ∧ t.fwRecovery = !s.fwValid ∧
      (MapStands s → Memory.wf s.mem = true →
        (∀ x, x < 2 ^ 52 → t.rd8 x = s.rd8 x) ∧ ∀ x, 2 ^ 52 ≤ x → x < 2 ^ 64 → t.rd8 x = 0)) ∧
    (∀ a, s.load = none → PlanReadable s a → PlanPasses (s.rdN a 176) →
      ∃ t p, exec .clkLoad s = .next t ∧ t.plan = p ∧ p.ref = recField (s.rdN a 176) 4 2 ∧
        (∀ i < 20, p.freq.getD i 0 = recField (s.rdN a 176) (8 + 2 * i) 2) ∧ t.freq = s.freq ∧
        (p.ref = s.plan.ref → (∀ i < 20, p.freq.getD i 0 = s.freq.getD i 0) → t.srv 0x42 0 = 2) ∧
        (∀ i < 20, p.freq.getD i 0 ≠ s.freq.getD i 0 → t.srv 0x42 0 = 1)) ∧
    (∀ a, s.load = none → PlanReadable s a → recField (s.rdN a 176) 0 4 ≠ 0x434C4B31 →
      ∃ t, exec .clkLoad s = .next t ∧ t.srv 0x42 0 = clkOutcome 3 0 0 0 ∧ t.plan = s.plan ∧ t.load = none) ∧
    (s.load ≠ none → ∃ t, exec .clkLoad s = .next t ∧ t.srv 0x42 0 = s.srv 0x42 0 ||| 0x100 ∧ t.load = s.load ∧ t.plan = s.plan) ∧
    (∀ l i j rest, s.load = some l → l.todo = i :: j :: rest → ∃ t, exec .passengerRelock s = .next t ∧
      t.freq = s.freq.set i (l.plan.freq.getD i 0) ∧ t.load = some { l with todo := j :: rest } ∧ t.sr = s.sr) ∧
    (∀ l i, s.load = some l → l.todo = [i] → l.owner = 0 → ∃ t, exec .passengerRelock s = .next t ∧
      t.freq = s.freq.set i (l.plan.freq.getD i 0) ∧ t.load = none ∧ t.srv 0x42 0 = 2 ||| (s.srv 0x42 0 &&& 0x100)) ∧
    (s.param 0 < 12 → s.role ≤ 1 → ∃ t, exec .ptpExchange s = .next t ∧ t.dtime = s.dtime ∧
      t.tstat.val (s.param 0) 0 = BitVec.ofNat 64 (s.param 2 % 2 ^ 32 * 2 ^ 32 + (s.role + 1)) ∧ t.tfail.val (s.param 0) 0 = 0 ∧
      ∀ u, u ≠ s.param 0 → t.tstat.val u 0 = s.tstat.val u 0) ∧
    (s.param 0 = 12 → s.role ≠ 2 → exec .ptpExchangeFail s = .next s) ∧
    (s.param 0 < 12 ∨ s.param 0 = 12 ∧ s.role = 2 → ∃ t, exec .ptpExchangeFail s = .next t ∧ t.tfail.val (s.param 0) 0 = s.tfail.val (s.param 0) 0 + 1 ∧
      t.dtime = s.dtime ∧ wbits (t.tstat.val (s.param 0) 0) 63 32 = s.param 1 % 2 ^ 32 ∧
      (s.tfail.val (s.param 0) 0 < 3 → wbits (t.tstat.val (s.param 0) 0) 1 0 = wbits (s.tstat.val (s.param 0) 0) 1 0) ∧
      (3 ≤ s.tfail.val (s.param 0) 0 → ∀ u, u = s.param 0 ∨ (s.param 0 = 12 ∧ u < 12) → wbits (t.tstat.val u 0) 1 0 = 3)) ∧
    (s.dt (s.param 0) = 2 ^ 64 - 1 → ∃ t, exec .dtimeWrap s = .next t ∧ t.dt (s.param 0) = 0 ∧
      t.twrap.val (s.param 0) 0 = s.twrap.val (s.param 0) 0 + 1) ∧
    (s.param 0 % 4 ≠ 3 → ∃ t, exec .timeRoleWrite s = .next t ∧
      (t.srv 0x44 0 = if ∀ p ∈ s.ports, p.2.state = 3 then BitVec.ofNat 64 (s.param 0) &&& 0x3F03 else s.srv 0x44 0) ∧
      ((∀ p ∈ s.ports, p.2.state = 3) → ∀ u ≤ 12, wbits (t.tstat.val u 0) 1 0 =
        if wbits (s.tstat.val u 0) 1 0 = 1 ∨ wbits (s.tstat.val u 0) 1 0 = 2 then s.param 0 % 4 + 1
        else wbits (s.tstat.val u 0) 1 0)) ∧
    (∀ m left, (s.thr (s.param 0) (s.param 1)).wait = .tokens m left → s.param 2 ∈ left →
      s.tokenReady (dieOf (s.param 0)) m (s.param 2) = true → ∃ t, exec .fenceTokenReturn s = .next t ∧
        (t.thr (s.param 0) (s.param 1)) = { s.thr (s.param 0) (s.param 1) with wait := .tokens m (left.erase (s.param 2)) } ∧
        t = { s with cores := t.cores }) ∧
    (s.param 0 ≤ 2 → ∃ t, exec .parapetThrottle s = .next t ∧ (t.srv 0x46 0).getLsbD (s.param 0) = true ∧
      wbits (t.srv 0x46 0) 63 32 = (wbits (s.srv 0x46 0) 63 32 +
        if (s.srv 0x46 0).getLsbD (s.param 0) then 0 else 1) % 2 ^ 32 ∧
      (∀ d, d ∈ t.gated ↔ d < 8 ∧ (s.param 1).testBit d = true ∧ ∀ f, 1600 ≤ f → f < t.freq.getD d 0 →
        ∃ b ∈ s.plan.band, ∃ n, 1 ≤ n ∧ n ≤ 64 ∧ Struck b n (500 * f)) ∧
      ∀ i, t.freq.getD i 0 ≤ s.freq.getD i 0) ∧
    (s.param 0 ≤ 2 → ∃ t, exec .throttleEnd s = .next t ∧ (t.srv 0x46 0).getLsbD (s.param 0) = false ∧
      ((∀ c ≤ 2, c ≠ s.param 0 → (s.srv 0x46 0).getLsbD c = false) → s.load = none → t.gated = [] ∧ t.freq = s.plan.freq)) ∧
    (∃ t, exec .temperatureTrip s = .next t ∧ t = { s with powered := false, tripCause := true }) ∧
    (∃ t, exec .parCapWrite s = .next t ∧
      t.srv 0x45 0 = BitVec.ofNat 64 (max 600 (min (s.param 0 % 2048) 1800))) ∧
    (∃ t, exec .spdmGetVersion s = .next t ∧ Answers s t [0x04, 0x12]) ∧
    (∃ t, exec .spdmGetCapabilities s = .next t ∧ Answers s t [0x61, 0x12]) ∧
    (∃ t, exec .spdmNegotiateAlgorithms s = .next t ∧ Answers s t [0x63, 3072, 256]) ∧
    (∃ t d, exec .spdmGetDigests s = .next t ∧ Answers s t [0x01, d]) ∧
    (∃ t l, exec .spdmGetCertificate s = .next t ∧ Answers s t (0x02 :: l) ∧ l.length = s.param 1) ∧
    (∃ t x, exec .spdmChallenge s = .next t ∧ Answers s t [0x03, s.param 0, x]) ∧
    (s.param 0 = 1 → ∃ t x, exec .spdmGetMeasurements s = .next t ∧ Answers s t [0x60, 1, shaOf s.fwImage s.fwLen, x]) ∧
    (s.param 0 = 4 → ∃ t x, exec .spdmGetMeasurements s = .next t ∧
      Answers s t [0x60, 4, shaOf (min (s.srf 0x45 0 10 0) s.fwCap) 8, x]) ∧
    (5 < s.param 0 ∨ s.param 0 = 0 → ∃ t, exec .spdmGetMeasurements s = .next t ∧ Answers s t [0x7F, 0x01]) ∧
    (∃ t, exec .spdmKeyExchange s = .next t ∧ Answers s t [0x7F, 0x07]) ∧
    (s.fwRecovery = true → s.param 1 = 1 → s.fwCounter ≤ s.param 0 → ∃ t, exec .fwRecoveryImage s = .next t ∧
      t.fwVersion = s.param 0 ∧ t.fwCounter = s.param 0 ∧ t.fwLen = s.param 2 ∧ t.fwImage = s.param 3 ∧
      t.fwValid = true ∧ t.fwRecovery = false) ∧
    (s.fwRecovery = false ∨ s.param 1 = 0 ∨ s.param 0 < s.fwCounter → exec .fwRecoveryImage s = .next s)

/-! ### Chapter 2: ports, remote accesses, collectives, ingest and the pool -/

namespace Sys2Proof.Claims

open Machine

/-- The frame entry admits an inbound access of tenant `t` (R45). -/
def Admits (e : Frame) (t : Nat) : Prop :=
  e.owner = 1 ∧ (e.state = 1 ∨ e.state = 3) ∧ e.exported = true ∧ e.tenant = t

/-- The elements at place `i` of width `z` bytes of some contributions. -/
def elements (z i : Nat) (cs : List Nat) : List Nat := cs.map fun c => c / 256 ^ (z * i) % 256 ^ z

/-- A flow rule's action and ring, or the port's default, for a frame (R59, R61). -/
def FrameAction (s : State) (p f act ring : Nat) : Prop :=
  (∃ i r, s.ruleFor p f = some (i, r) ∧ act = recField r 0 1 ∧ ring = recField r 2 1) ∨
    (s.ruleFor p f = none ∧ act = (if (s.srv 0x63 p).getLsbD 63 then 2 else 1) ∧ ring = s.srf 0x63 p 7 0)

/-- Only one count of `ING.PSTAT` has risen (R57). -/
def Counted (s t : State) (p c : Nat) : Prop := t = s.setSr 0x64 (4 * p + c) (s.srv 0x64 (4 * p + c) + 1)

/-- No granule's next read fails its CRC check, and no table of R68 or R180 is exposed. -/
def Calm (s : State) : Prop := s.bitErr = [] ∧ s.srv 0xC2 0 = 0 ∧ s.srv 0x68 0 = 0

/-- A place of device memory in the clear, whose home takes accesses now and whose granule is not poisoned. -/
def Clear (s : State) (pa : Nat) : Prop :=
  isHbm pa = true ∧ s.moving pa = false ∧ s.homeRuns pa = true ∧ (s.frame (pa / 65536)).prot = false ∧
    s.poison.contains (pa / 256) = false

/-- An engine of a die finds a virtual address at `pa`, through a cached translation that grants both rights. -/
def EngSees (s : State) (die asid ten va pa : Nat) : Prop :=
  Clear s pa ∧ spaceOf va = .global ∧ s.relocking ≠ some die ∧ pa % 64 = va % 64 ∧ ∃ x, s.xls.find? (fun e => e.covers (8 * die) asid ten va) = some x ∧ pa = x.at va ∧ x.rd = true ∧ x.w = true

/-- The head of tenant `t`'s collective queue is the descriptor `d` at virtual address `va`, physical address `pa` (R46, R47). -/
def CollAt (s : State) (t va pa d : Nat) : Prop :=
  s.collEn t = true ∧ s.engStill t = false ∧ va = s.collVa t + 64 + 64 * (s.collIdx.val t 0 % 2 ^ s.collLog t) ∧ d = s.rdN pa 64 ∧
    EngSees s (engDie t) (s.collAsid t) t va pa ∧
    ∃ h, EngSees s (engDie t) (s.collAsid t) t (s.collVa t) h ∧ s.rdN h 8 ≠ s.collIdx.val t 0 ∧
      (s.rdN h 8 + 2 ^ 64 - s.collIdx.val t 0) % 2 ^ 64 ≤ 2 ^ s.collLog t

/-- A descriptor of the tenant has completed with STATUS `st` at `ps`: FCINC is added to its counter (R46). -/
def Ended (s t : State) (ten d ps st : Nat) : Prop :=
  t.rdN ps 8 = st ∧ ∀ i, s.fcOf ten (cdFc d) = some i → t.srv 0xA8 i = s.srv 0xA8 i + BitVec.ofNat 64 (cdInc d)

/-- An open ALLREDUCE whose DST lies in one line at `pd`, and whose STATUS at `ps`. -/
def CollSees (s : State) (c : Coll) (pd ps : Nat) : Prop :=
  Memory.wf s.mem = true ∧ Calm s ∧ s.engStill c.tenant = false ∧ 0 < cdLen c.desc ∧ cdDst c.desc % 64 + cdLen c.desc ≤ 64 ∧
    EngSees s (engDie c.tenant) c.asid c.tenant (cdDst c.desc) pd ∧ EngSees s (engDie c.tenant) c.asid c.tenant (c.slotVa + 48) ps

/-- Every flit of a port, and every one that waits, belongs to no collective operation. -/
def NoColl (s : State) (p : Nat) : Prop := (∀ f ∈ (s.port p).replay, f.coll = 0) ∧ ∀ f ∈ s.flitWait, f.coll = 0

/-- The reduction of an ALLREDUCE's contributions, element by element (R49). -/
def reducedValue (d : Nat) (cs : List Nat) : Nat :=
  (List.range (cdLen d / elemSize (cdType d))).foldr (fun i v => reduceAt (cdType d) (cdRed d) i cs % 256 ^ elemSize (cdType d) +
    256 ^ elemSize (cdType d) * v) 0

end Sys2Proof.Claims

open Sys2Proof Sys2Proof.Machine Sys2Proof.Claims in
/-- R39 to R45: the link layer delivers a good flit in its sequence and answers any other with a negative acknowledgement;
a replay sends the flits from the one named on, and the ninth failure takes the port DOWN (how failures are counted is the model's
reading, log 45); a port trains, comes UP unless the peer has this package's node id, goes DOWN and is disabled as FAB.PCTL says.
The flits that a port going DOWN has not had acknowledged go over another port to the same peer, as many as its buffer of 256 has
room for, and the rest wait; with no such port a store among them is counted, and an access that waits for its answer takes POISON
at its window. An inbound access is refused where the frame does not admit it and performed otherwise, with no race record checked
or changed (R203). Nothing arrives by a port whose die relocks (R21). -/
def Obligations.LinkEvents : Prop :=
  ∀ (s : State) (p : Nat), p = s.param 0 →
    (∀ f, f = s.param 1 % 2 ^ 2048 → (s.port p).state = 2 → s.relocking ≠ some (16 + p / 16) →
      (flitOk f = true → f % 4096 = (s.port p).rxSeq → s.flitWait = [] → ∃ t, exec .linkFlitReceive s = .next t ∧
        (t.port p).rxSeq = ((s.port p).rxSeq + 1) % 4096 ∧ t.out = s.out ∧ t.delivered = s.delivered ++ [(p, f)] ∧
        ∀ r, r ∈ (t.port p).replay ↔ r ∈ (s.port p).replay ∧ 2048 ≤ (f / 4096 % 4096 + 4096 - r.seq) % 4096) ∧
      (flitOk f = false ∨ f % 4096 ≠ (s.port p).rxSeq →
        ∃ t, exec .linkFlitReceive s = .next t ∧ t = { s with out := s.out ++ [.nak p (s.port p).rxSeq] })) ∧
    (∀ fs, fs = (s.port p).replay.filter (fun r => decide ((r.seq + 4096 - s.param 1) % 4096 < 2048)) → (s.port p).state = 2 →
      (∃ r ∈ (s.port p).replay, r.seq = s.param 1) →
      (¬ ((s.port p).nak = some (s.param 1) ∧ 8 ≤ (s.port p).failed) → ∃ t, exec .flitReplay s = .next t ∧
        t.out = s.out ++ fs.map (fun r => .flit p r.flit) ∧ (t.port p).retries = ((s.port p).retries + fs.length) % 2 ^ 32 ∧
        (t.port p).replay = (s.port p).replay ∧ (t.port p).state = 2) ∧
      ((s.port p).nak = some (s.param 1) → 8 ≤ (s.port p).failed → NoColl s p →
        ∃ t, exec .flitReplay s = .next t ∧ (t.port p).state = 0)) ∧
    ((s.port p).state = 1 ∨ (s.port p).state = 2 → NoColl s p →
      ∃ t, exec .linkDown s = .next t ∧ (t.port p).state = 0 ∧ (t.port p).replay = [] ∧
        (∀ q, s.otherPort p = some q → s.relocking ≠ some (portSocket q) →
          (t.port q).replay.length + t.flitWait.length =
            (s.port q).replay.length + (s.port p).replay.length + s.flitWait.length ∧
          (t.port q).replay.length ≤ max 256 (s.port q).replay.length ∧
          ((s.port q).replay.length + (s.port p).replay.length ≤ 256 → t.flitWait = s.flitWait)) ∧
        (∀ f a, s.otherPort p = none → (s.port p).replay = [f] → s.flitWait = [] → f.addr = some a → s.srv 0x54 0 = 0 →
          t.srv 0x54 0 = 1 ∧ t.srv 0x55 0 = BitVec.ofNat 64 a) ∧
        (∀ f a, s.otherPort p = none → (s.port p).replay = [f] → s.flitWait = [] → f.addr = none → f.acc ≠ 0 →
          s.acc? f.acc = some a → a.gone = true → t.acc? f.acc = none ∧
            ∀ e ∈ (t.thr a.h a.slot).pend, e.id = a.ent → e.fault.isSome = true ∧
              ((∀ e0 ∈ (s.thr a.h a.slot).pend, e0.fault = none) → e.fault = some (.kernel fPOISON a.va)))) ∧
    (p < 64 → (s.port p).state = 1 → s.param 1 % 2 ^ 19 ≠ s.srf 0x50 0 18 0 → ∃ t, exec .linkTrainingDone s = .next t ∧
      (t.port p).state = 2 ∧ (t.port p).peer = s.param 1 % 2 ^ 19 ∧ (t.port p).peerPort = s.param 2 % 64 ∧ (t.port p).retries = 0) ∧
    (s.param 1 % 2 ^ 19 = s.srf 0x50 0 18 0 → exec .linkTrainingDone s = .next s) ∧
    (p < 64 → ∃ t, exec .portEnable s = .next t ∧ t.srv 0x56 p = 1 ∧
      (t.port p).state = if (s.port p).state = 3 then 1 else (s.port p).state) ∧
    (p < 64 → NoColl s p → ∃ t, exec .portDisable s = .next t ∧ t.srv 0x56 p = 0 ∧ (t.port p).state = 3 ∧ (t.port p).replay = []) ∧
    ((s.port p).state = 0 → (s.srv 0x56 p).getLsbD 0 = true → ∃ t, exec .portRetrainTimer s = .next t ∧ (t.port p).state = 1) ∧
    (∃ t, exec .fabNodeWrite s = .next t ∧
      t.srv 0x50 0 = if ∀ q ∈ s.ports, q.2.state = 3 then BitVec.ofNat 64 (s.param 0) &&& 0x7FFFF else s.srv 0x50 0) ∧
    (s.moving (s.param 1) = false → s.homeRuns (s.param 1) = true → s.relocking ≠ some (portSocket (s.param 5)) → ¬ (isHbm (s.param 1) = true ∧ Admits (s.frame (s.param 1 / 65536)) (s.param 0)) →
      ∃ t, exec .remoteAccessInbound s = .next t ∧ t = { s with out := s.out ++ [.remote [2]] }) ∧
    (Calm s → Clear s (s.param 1) → Admits (s.frame (s.param 1 / 65536)) (s.param 0) → s.param 1 % 65536 + s.param 3 ≤ 65536 →
      s.relocking ≠ some (portSocket (s.param 5)) →
      (s.param 2 = 0 → ∃ t, exec .remoteAccessInbound s = .next t ∧
        t.out = s.out ++ [.remote [0, s.rdN (s.param 1) (s.param 3)]] ∧ t.mem = s.mem ∧ t.race = s.race) ∧
      (s.param 2 = 1 → Memory.wf s.mem = true → ∃ t, exec .remoteAccessInbound s = .next t ∧ t.out = s.out ++ [.remote [1]] ∧ t.race = s.race ∧
        StoredAt s t (s.param 1) (s.param 3) (s.param 4 % 256 ^ s.param 3)))

open Sys2Proof Sys2Proof.Machine Sys2Proof.Claims in
/-- R46 to R69: a collective queue is enabled with its index at 0; a descriptor that passes its checks opens its operation
with SRC's bytes read and one that does not completes with BADDESC; a sum is modulo the element's width; an operation ends
with its status; a PUT that arrives is refused or written; a frame is counted or delivered by the rule it takes; a rule
load reads, checks and replaces one rule; rings, back-pressure and the pool as their rules say. An engine whose I/O die relocks
stands still (R21). The model's own choices here: that BADDESC raises the counter too (log 42); what a poisoned record or SRC gives,
and the clock of a timeout (log 43); the abutment at which an engine translates, and that it reaches the global space alone (log
44); where a ring's region lies and what a refused part of it reads as (log 14). -/
def Obligations.EngineEvents : Prop :=
  ∀ (s : State) (x : Nat), x = s.param 0 →
    (1 ≤ x → x < 256 → ∀ w : Word, w = BitVec.ofNat 64 (s.param 1) → ∃ t, exec .collQbWrite s = .next t ∧
      (s.collEn x = false → wbits (t.srv 0x58 x) 56 12 = wbits w 56 12 ∧
        (t.collEn x = true ↔ w.getLsbD 63 = true ∧ (s.srv 0x80 x).getLsbD 63 = true ∧ 6 ≤ s.collLog x ∧ s.collLog x ≤ 16) ∧
        (t.collEn x = true → t.collIdx.val x 0 = 0)) ∧
      (s.collEn x = true → wbits (t.srv 0x58 x) 56 12 = wbits (s.srv 0x58 x) 56 12 ∧ t.collEn x = w.getLsbD 63 ∧
        t.collIdx = s.collIdx)) ∧
    (∀ va pa d, Calm s → CollAt s x va pa d → s.badDesc x d = true → EngSees s (engDie x) (s.collAsid x) x (va + 48) (pa + 48) →
      Memory.wf s.mem = true → ∃ t, (if cdOp d = 1 then exec .collPut s = .next t else exec .collAllreduce s = .next t) ∧
        Ended s t x d (pa + 48) 4 ∧ t.collIdx.val x 0 = (s.collIdx.val x 0 + 1) % 2 ^ 64) ∧
    (∀ va pa d src, Calm s → CollAt s x va pa d → s.badDesc x d = false → cdSrc d % 64 + cdLen d ≤ 64 → s.mayLeave = true →
      EngSees s (engDie x) (s.collAsid x) x (cdSrc d) src →
      (∀ ms rank tmo, cdOp d = 0 → s.group x (cdGroup d) = some (ms, rank, tmo) →
        ∃ t c, exec .collAllreduce s = .next t ∧ t.colls = s.colls ++ [c] ∧ c.desc = d ∧ c.put = false ∧ c.members = ms ∧
          c.rank = rank ∧ c.tenant = x ∧ c.asid = s.collAsid x ∧ c.slotVa = va ∧ c.deadline = s.ns (collUnit x) + tmo ∧
          c.contrib = toBytes (s.rdN src (cdLen d)) (cdLen d) ∧ t.collIdx.val x 0 = (s.collIdx.val x 0 + 1) % 2 ^ 64 ∧
          (s.routed = true → ∀ m ∈ ms.eraseIdx rank, Out.contribution m x (cdGroup d) c.seq c.contrib ∈ t.out)) ∧
      (cdOp d = 1 → s.routed = true → ∃ t c, exec .collPut s = .next t ∧ t.colls = s.colls ++ [c] ∧ c.desc = d ∧ c.put = true ∧
        c.tenant = x ∧ c.contrib = toBytes (s.rdN src (cdLen d)) (cdLen d) ∧
        Out.put (cdNode d) x (cdKey d) (cdDst d) c.contrib ∈ t.out ∧ t.collIdx.val x 0 = (s.collIdx.val x 0 + 1) % 2 ^ 64)) ∧
    (∀ s1 s2 s3 va d ms rank tmo v, s.collHead x = .desc s1 va d → s2 = (s1.collTaken x).checkRead (s1.groupAt (cdGroup d)) 4160 →
      cdOp d = 0 → s2.badDesc x d = false → s2.group x (cdGroup d) = some (ms, rank, tmo) → s2.collSrc x d = .ok s3 v →
      s3.mayLeave = true → ∃ t c, exec .collAllreduce s = .next t ∧ t.colls = s3.colls ++ [c] ∧ c.desc = d ∧ c.put = false ∧
        c.members = ms ∧ c.rank = rank ∧ c.tenant = x ∧ c.deadline = s3.ns (collUnit x) + tmo ∧ c.contrib = toBytes v (cdLen d)) ∧
    (∀ s1 s3 va d v, s.collHead x = .desc s1 va d → cdOp d = 1 → (s1.collTaken x).badDesc x d = false →
      (s1.collTaken x).collSrc x d = .ok s3 v →
      (s3.routed = false → exec .collPut s = .next ((s3.collFinish x (s.collAsid x) va d 5).getD s)) ∧
      (s3.routed = true → s3.mayLeave = true → ∃ t c, exec .collPut s = .next t ∧ t.colls = s3.colls ++ [c] ∧ c.desc = d ∧
        c.put = true ∧ c.tenant = x ∧ c.contrib = toBytes v (cdLen d))) ∧
    (∀ i cs, reduceAt 2 0 i cs = (elements 4 i cs).foldl (· + ·) 0 % 2 ^ 32 ∧
      reduceAt 3 0 i cs = (elements 8 i cs).foldl (· + ·) 0 % 2 ^ 64) ∧
    (∀ c pd ps cs, s.colls.find? (fun c => decide (c.id = x) && !c.put) = some c → s.params.length = c.members.length + 1 →
      2 ≤ s.params.length → CollSees s c pd ps →
      cs = (s.params.drop 2).take (s.param 1) ++ [ofBytes c.contrib] ++ (s.params.drop 2).drop (s.param 1) →
      ∃ t, exec .allreduceComplete s = .next t ∧ t.colls = s.colls.filter (fun y => decide (y.id ≠ x)) ∧ Ended s t c.tenant c.desc ps 1 ∧
        (pd + cdLen c.desc ≤ ps ∨ ps + 8 ≤ pd → t.rdN pd (cdLen c.desc) = reducedValue c.desc cs % 256 ^ cdLen c.desc)) ∧
    (∀ c pd ps, s.colls.find? (fun c => decide (c.id = x) && !c.put) = some c → CollSees s c pd ps →
      (∃ t, exec .collMemberLost s = .next t ∧ t.colls = s.colls.filter (fun y => decide (y.id ≠ x)) ∧ Ended s t c.tenant c.desc ps 2) ∧
      (reached 48 (s.ns (collUnit c.tenant)) c.deadline = true → ∃ t, exec .collTimeout s = .next t ∧
        t.colls = s.colls.filter (fun y => decide (y.id ≠ x)) ∧ Ended s t c.tenant c.desc ps 3)) ∧
    (s.bitErr = [] → s.engStill x = false → s.keyRec x (s.param 1) (s.param 2) (s.param 3) = none →
      ∃ t, exec .putReceive s = .next t ∧ t = { s with out := s.out ++ [.remote [6]] }) ∧
    (∀ r pd n, Calm s → s.engStill x = false → Memory.wf s.mem = true → s.keyRec x (s.param 1) (s.param 2) n = some r → n = s.param 3 → 0 < n →
      (recField r 0 8 + s.param 2) % 64 + n ≤ 64 → EngSees s (engDie x) (recField r 16 2) x (recField r 0 8 + s.param 2) pd →
      ∃ t, exec .putReceive s = .next t ∧ t.out = s.out ++ [.remote [1]] ∧ StoredAt s t pd n (s.param 4 % 256 ^ n) ∧
        t.srv 0xA8 (recField r 20 2) = s.srv 0xA8 (recField r 20 2) + BitVec.ofNat 64 (recField r 24 8)) ∧
    (∀ c ps, s.colls.find? (fun c => decide (c.id = x) && c.put) = some c →
      c.lost = true ∨ s.param 1 = 1 ∨ s.param 1 = 5 ∨ s.param 1 = 6 → s.engStill c.tenant = false → Calm s → Memory.wf s.mem = true → EngSees s (engDie c.tenant) c.asid c.tenant (c.slotVa + 48) ps →
      ∃ t, exec .putComplete s = .next t ∧ t.colls = s.colls.filter (fun y => decide (y.id ≠ x)) ∧
        Ended s t c.tenant c.desc ps (if c.lost then 5 else s.param 1)) ∧
    (x < 8 → s.ethStill x = false →
      (s.param 2 = 0 → ∃ t, exec .ethFrameReceive s = .next t ∧ Counted s t x 0) ∧
      (s.param 2 ≠ 0 → 9216 < s.param 3 → ∃ t, exec .ethFrameReceive s = .next t ∧ Counted s t x 1) ∧
      (∀ act ring, s.param 2 ≠ 0 → s.param 3 ≤ 9216 → (∀ h ∈ s.ingHeld, h.1 ≠ x) → FrameAction s x (s.param 1) act ring →
        (act ≠ 2 → ∃ t, exec .ethFrameReceive s = .next t ∧ Counted s t x 3) ∧
        (act = 2 → s.ringEn ring = false → ∃ t, exec .ethFrameReceive s = .next t ∧ Counted s t x 2) ∧
        (act = 2 → s.ringEn ring = true → s.ringHold ring = true → ∃ t, exec .ethFrameReceive s = .next t ∧
          t.rings = s.rings ∧ t.mem = s.mem ∧ ∃ h, t.ingHeld = s.ingHeld ++ [(x, h)]) ∧
        (act = 2 → s.ringEn ring = true → s.ringHold ring = false → s.param 3 + 32 ≤ 2 ^ s.ringSlot ring →
          (s.ring ring).head - (s.ring ring).tailSeen < 2 ^ s.ringLog ring →
          ∃ t, exec .ethFrameReceive s = .next t ∧ (t.ring ring).head = (s.ring ring).head + 1 ∧
            (t.ring ring).drop = (s.ring ring).drop))) ∧
    (s.ringEn x = true → s.ringHold x = false → (∀ p < 8, s.ethStill p = true → (s.portRings p).contains x = false) →
      ∃ t, exec .ingTailReread s = .next t ∧ (t.ring x).tailSeen = (s.ingRead x 8).2 ∧
      (t.ring x).head = (s.ring x).head) ∧
    ((x, s.param 1) ∈ s.xoff → (∃ r ∈ s.prioRings x (s.param 1), s.ringHigh r = true) → ∃ t, exec .pfcXoffResend s = .next t ∧
      t = { s with out := s.out ++ [.pfc x (s.param 1) 0xFFFF] }) ∧
    (s.ruleLoad = none → ∃ t, exec .ingRuleLoad s = .next t ∧ t.ruleLoad = some (x / 256 % 8, x % 256) ∧ t.srv 0x67 0 = 1) ∧
    (s.ruleLoad ≠ none → exec .ingRuleLoad s = .next s) ∧
    (∀ p r, s.ruleLoad = some (p, r) → s.bitErr = [] →
      (s.ownRec (s.srf 0x65 p 47 14 * 16384 + 64 * r) 64 = none → ∃ t, exec .ruleLoadComplete s = .next t ∧ t.ruleLoad = none ∧
        t.srv 0x67 0 = 3 ∧ t.rules = s.rules) ∧
      (∀ y, s.ownRec (s.srf 0x65 p 47 14 * 16384 + 64 * r) 64 = some y → ∃ t, exec .ruleLoadComplete s = .next t ∧ t.ruleLoad = none ∧
        (ruleBad y = true → t.srv 0x67 0 = 2 ∧ t.rules = s.rules) ∧
        (ruleBad y = false → t.srv 0x67 0 = 0 ∧ t.rules.val (p * 256 + r) 0 = BitVec.ofNat 512 y ∧
          ∀ k, k ≠ p * 256 + r → t.rules.val k 0 = s.rules.val k 0))) ∧
    (x < 256 → ∃ t, exec .ingRctlWrite s = .next t ∧ (t.ringEn x = true ↔ (s.param 1).testBit 63 = true ∧
      s.param 1 / 2 ^ 48 % 256 ≠ 0 ∧ 11 ≤ s.param 1 / 2 ^ 44 % 16 ∧ s.param 1 / 2 ^ 44 % 16 ≤ 14 ∧ 4 ≤ s.param 1 / 2 ^ 39 % 32 ∧
      s.param 1 / 2 ^ 39 % 32 ≤ 20 ∧ s.param 1 / 2 ^ 31 % 256 ≠ 0 ∧ s.param 1 / 2 ^ 23 % 256 < s.param 1 / 2 ^ 31 % 256 ∧
      s.param 1 % 4096 ≠ 0)) ∧
    (∃ t, exec .poolHclr s = .next t ∧ t = { s with poolRd := s.poolRd.del x, poolWr := s.poolWr.del x }) ∧
    (∃ t, exec .poolFailure s = .next t ∧ (∀ p, p ∈ t.poolFailed ↔ p ∈ s.poolFailed ∨ x ≤ p ∧ p < x + s.param 1) ∧
      (s.poolFatal = true → t.poolFatal = true) ∧ ∀ h k, t.thr h k = s.thr h k)

/-! ### Chapter 3: the host command window and the frame record -/

namespace Sys2Proof.Claims

open Machine

/-- The operations of the command window, with their codes (R74); BADOP stands for every other code. -/
def hostCommands : List (Instr × Nat) :=
  [(.hcwNop, 0), (.hcwFoffer, 1), (.hcwFwithdraw, 2), (.hcwFaccept, 3), (.hcwFlend, 4), (.hcwFrecall, 5), (.hcwFreturn, 6),
    (.hcwFquery, 7), (.hcwClkplan, 16), (.hcwFwchunk, 17), (.hcwVfreset, 18), (.hcwKboot, 19), (.hcwEvreplay, 32),
    (.hcwCmdstat, 33), (.hcwAmsg, 48), (.hcwBadop, 0xFFFF)]

/-- The window may fetch its next command (R73, R75, R76). -/
def MayFetch (s : State) : Prop :=
  s.cmdBusy = false ∧ (∀ c ∈ s.cmds, c.started = true ∨ c.done = true) ∧ (s.hc hCTL).getLsbD 0 = true ∧
    (s.hc hCCI).toNat < (s.hc hCPI).toNat ∧ s.evHost.waiting.length < 256

/-- The 64 bytes of the next command (R73). -/
def nextCommand (s : State) : Nat :=
  s.rdN (hostLoc ((s.hc hCRB).toNat + 64 * ((s.hc hCCI).toNat % 2 ^ wbits (s.hc hCRS) 4 0))) 64

/-- The state after the fetch of a command. -/
def fetched (s : State) : State := s.setHc hCCI (BitVec.ofNat 64 ((s.hc hCCI).toNat + 1))

/-- The command with its six arguments. -/
def commandOf (r op : Nat) : Cmd :=
  { hseq := recField r 0 8, op := op, args := (List.range 6).map fun i => BitVec.ofNat 64 (recField r (16 + 8 * i) 8) }

/-- The state after the acceptance of a command: `HCW.ACC` echoes its HSEQ and the journal holds it (R75). -/
def accepted (s : State) (c : Cmd) : State :=
  let j := s.cmds ++ [c]
  { (fetched s).setHc hACC (BitVec.ofNat 64 c.hseq) with
    cmds := (j.drop (j.length - 4096)).map fun x : Cmd => if x.hseq = c.hseq then { x with started := true } else x }

/-- The next command is accepted, with the operation `op` (R75). -/
def Next (s : State) (op : Nat) (c : Cmd) (u : State) : Prop :=
  MayFetch s ∧ cmdOp (nextCommand s) = op ∧ recField (nextCommand s) 0 8 = (s.hc hACC).toNat + 1 ∧
    c = commandOf (nextCommand s) op ∧ u = accepted s c

/-- The transactions of the window. -/
def hostTransactions : List (Instr × Nat × Tx) :=
  [(.hcwFoffer, 1, .offer), (.hcwFwithdraw, 2, .withdraw), (.hcwFaccept, 3, .accept), (.hcwFlend, 4, .lend),
    (.hcwFrecall, 5, .recall), (.hcwFreturn, 6, .ret)]

/-- An argument that R80 does not allow the transaction. -/
def argBad (t : Tx) (p a : Nat) : Prop :=
  match t with
  | .accept => 256 ≤ a ∨ (p = 0 ∧ a ≠ 0)
  | .lend => 512 ≤ a ∨ (p = 1 ∧ a % 256 ≠ 0)
  | .recall => a < 1000 ∨ 10 ^ 9 < a
  | .offer | .withdraw | .ret => a ≠ 0

/-- The issuer and the states that the table of R81 requires. -/
def issuerRight (t : Tx) (p : Nat) (e : Frame) : Prop :=
  match t with
  | .accept => (p = 0 ∧ e.owner = 1) ∨ (p = 1 ∧ e.owner = 0)
  | .ret => e.borrower = p + 1
  | .offer | .withdraw | .lend | .recall => e.owner = p
def stateRight (t : Tx) (e : Frame) : Prop :=
  match t with
  | .offer => e.state = 0 ∨ e.state = 1
  | .withdraw | .accept => e.state = 2
  | .lend => e.state = 1
  | .recall => e.state = 3
  | .ret => e.state = 3 ∨ e.state = 4

/-- The status of a transaction: the first of R82 that applies. -/
def StatusIs (t : Tx) (p f x a : Nat) (e : Frame) (st : Nat) : Prop :=
  let causes : List (Nat × Prop) :=
    [(1, 8388608 ≤ f), (2, argBad t p a), (3, e.owner = 2), (4, e.state = 6), (5, e.state = 5), (6, x ≠ 0 ∧ x ≠ e.seq),
      (7, ¬ issuerRight t p e), (8, ¬ stateRight t e), (9, (t = .offer ∨ t = .lend) ∧ e.prot = true)]
  (st = 0 ∧ ∀ c : Nat × Prop, c ∈ causes → ¬ c.2) ∨
    ∃ (i : Nat) (c : Nat × Prop), causes[i]? = some c ∧ c.1 = st ∧ c.2 ∧
      ∀ (j : Nat) (d : Nat × Prop), j < i → causes[j]? = some d → ¬ d.2

/-- SEQ of an entry after a committed transaction (R79). -/
def seqAfter (n : Nat) : Nat := if n = 0xFFFFFFFF then 1 else n + 1

/-- The entry that a successful transaction commits (R81). -/
def entryAfter (t : Tx) (p now a : Nat) (e : Frame) : Frame :=
  let e' := { e with seq := seqAfter e.seq }
  match t with
  | .offer => { e' with state := 2, rvk := p + 1 }
  | .withdraw => { e' with state := 1 }
  | .accept => { e' with owner := p, state := 1, tenant := a % 256, watch := false, exported := false }
  | .lend => { e' with state := 3, borrower := (if p = 0 then 2 else 1), lro := a.testBit 8, bten := a % 256 }
  | .recall => { e' with state := 4, deadline := (now + a) % 2 ^ 40 }
  | .ret => { e' with state := 1, borrower := 0, bten := 0, rvk := p + 1 }

/-- Only the entry of frame `f` has changed, to `e`. -/
def EntryIs (s t : State) (f : Nat) (e : Frame) : Prop := t.frame f = e ∧ ∀ g, g ≠ f → t.frame g = s.frame g

/-- A revocation of party `p`'s mappings of frame `f` has started: every abutment and the host port owes its
acknowledgement (R83); `notes` are the events that follow the last one. -/
def Revoking (s t : State) (f p : Nat) (notes : List (Nat × EvRec)) : Prop :=
  ∃ r, t.revokes = s.revokes ++ [r] ∧ r.frame = f ∧ r.party = p ∧ r.left = List.range 65 ∧ r.notes = notes

/-- An event record of a kind, a status and values. -/
def note (kind status : Nat) (vals : List Word) : EvRec := { kind := kind, status := status, vals := vals }

/-- A record of the kind and values is the event ring's (R76). -/
def Recorded (g : EvRing) (kind status : Nat) (vals : List Word) : Prop :=
  ∃ r ∈ g.journal, r.kind = kind ∧ r.status = status ∧ r.vals = vals ∧ r.flags = 0

/-- The outcome of the frame check of R84 for party `p` and tenant `t`, through a leaf or access that writes when `w`. -/
def CheckIs (e : Frame) (lpt : Bool) (p t : Nat) (w : Bool) (c : Chk) : Prop :=
  let owns := p = e.owner ∧ (e.state = 0 ∨ e.state = 1 ∨ e.state = 3 ∨ e.state = 4) ∧ (e.tenant = 0 ∨ e.tenant = t) ∧
    ¬ (e.prot = true ∧ t = 0)
  let borrows := p + 1 = e.borrower ∧ (e.state = 3 ∨ e.state = 4) ∧ (e.bten = 0 ∨ e.bten = t)
  let table := e.owner = 2 ∧ lpt = true ∧ t = 0
  (e.state = 6 → c = .refuse fPOISON) ∧
    (e.state ≠ 6 → table → c = if w then .refuse fPERM else .grant true) ∧
    (e.state ≠ 6 → ¬ table → owns → c = .grant false) ∧
    (e.state ≠ 6 → ¬ table → ¬ owns → borrows → c = .grant e.lro) ∧
    (e.state ≠ 6 → ¬ table → ¬ owns → ¬ borrows →
      (p + 1 = e.rvk ∨ e.state = 2 ∨ e.state = 5 → c = .refuse fREVOKED) ∧
      (¬ (p + 1 = e.rvk ∨ e.state = 2 ∨ e.state = 5) → c = .refuse fPERM))

end Sys2Proof.Claims

open Sys2Proof Sys2Proof.Machine Sys2Proof.Claims in
/-- R18, R37, R70 to R77, R87, R97, R158: the command window. A fetched command whose HSEQ follows `HCW.ACC` is accepted and
executed once, one at or below it completes as DUPLICATE and one above as SEQGAP; each operation completes with the
status and values of its rule; a completion is the next record of the event ring; the window's registers are written as
R72 says. The model's own choices here: the statuses BADARG 2, BUSY 5 and BADSTATE 8 of KBOOT and what a register without a map
stores (log 11), the effect of REGISTER_WRITE (log 14), CLKPLAN's STATUS (log 77), that a good enable clears BADCFG (log 32), that
FACCEPT waits for a revocation of its frame's last holder (log 75), and the HDM decoder's registers (log 76). -/
def Obligations.HostCommands : Prop :=
  (∀ r, cmdOp r = 0xFFFF ↔ recField r 10 6 ≠ 0 ∨ ∀ p ∈ hostCommands, p.2 ≠ 0xFFFF → p.2 ≠ recField r 8 2) ∧
  (∀ (s : State) (q st : Nat) (vals : List Word), s.evHost.lostSince = 0 →
    (s.completed q st vals).evHost.issued = s.evHost.issued + 1 ∧
    (∃ r ∈ (s.completed q st vals).evHost.journal, r.dseq = s.evHost.issued + 1 ∧ r.hseq = BitVec.ofNat 64 q ∧ r.kind = 0 ∧
      r.status = st ∧ r.vals = vals) ∧
    ∀ c ∈ (s.completed q st vals).cmds, c.hseq = q → c.done = true ∧ c.status = st ∧ c.recorded = true) ∧
  (∀ (s : State), ∀ p ∈ hostCommands, MayFetch s → (p.2 = 19 → s.scrubHeld = false) → cmdOp (nextCommand s) = p.2 →
    recField (nextCommand s) 0 8 ≠ (s.hc hACC).toNat + 1 →
    exec p.1 s = .next ((fetched s).completion (recField (nextCommand s) 0 8)
      (if recField (nextCommand s) 0 8 ≤ (s.hc hACC).toNat then 16 else 17) [])) ∧
  (∀ (s u : State) (op : Nat) (c : Cmd) (q : Nat) (a0 a1 : Word), Next s op c u → q = c.hseq → a0 = c.arg 0 → a1 = c.arg 1 →
    (op = 0 → exec .hcwNop s = .next (u.completed q 0 [0])) ∧
    (op = 0xFFFF → exec .hcwBadop s = .next (u.completed q 18 [])) ∧
    (op = 3 → u.txWaits .accept a0 = true → ∃ t, exec .hcwFaccept s = .next t ∧ t = { u with cmds := t.cmds } ∧
      ∀ y ∈ t.cmds, y.hseq = q → y.started = false) ∧
    (∀ x ∈ hostTransactions, op = x.2.1 → u.txWaits x.2.2 a0 = false → ∀ s1 res w,
      u.transact x.2.2 0 a0 a1 (fun res => .command q [res]) = (s1, res, w) →
      (w = false → exec x.1 s = .next (s1.completed q (wbits res 7 0) [res])) ∧
      (w = true → ∃ t, exec x.1 s = .next t ∧ t = { s1 with cmds := t.cmds } ∧
        ∀ y ∈ t.cmds, y.hseq = q → y.done = true ∧ y.status = wbits res 7 0)) ∧
    (op = 7 → exec .hcwFquery s =
      .next (u.completed q (wbits (u.query a0 a1).1 7 0) [(u.query a0 a1).1, 0, (u.query a0 a1).2.1, (u.query a0 a1).2.2])) ∧
    (op = 16 → u.load ≠ none → exec .hcwClkplan s = .next (u.completed q 5 [u.srv 0x42 0])) ∧
    (op = 16 → u.load = none → u.hostOk a0.toNat 176 = true → ∀ r, r = u.rdN (hostLoc a0.toNat) 176 → a0.toNat % 256 = 0 →
      (recField r 0 4 ≠ 0x434C4B31 → exec .hcwClkplan s =
        .next ((u.setSr 0x42 0 (clkOutcome 3 0 0 0)).completed q 0 [clkOutcome 3 0 0 0])) ∧
      (PlanPasses r → ∃ t, exec .hcwClkplan s = .next t ∧ t.plan.ref = recField r 4 2 ∧
        ∀ i < 20, t.plan.freq.getD i 0 = recField r (8 + 2 * i) 2)) ∧
    (op = 16 → u.load = none → u.hostOk a0.toNat 176 = false → exec .hcwClkplan s =
      .next ((u.setSr 0x42 0 (clkOutcome 3 0 0 0)).completed q 0 [clkOutcome 3 0 0 0])) ∧
    (op = 17 → u.hostOk a0.toNat a1.toNat = true → s.param 2 = 0 → exec .hcwFwchunk s =
      .next (({ u with fwParts := u.fwParts ++ [((c.arg 2).toNat, a1.toNat, u.rdN (hostLoc a0.toNat) a1.toNat)] } :
        State).completed q 0 [0])) ∧
    (op = 17 → u.hostOk a0.toNat a1.toNat = true → s.param 2 ≠ 0 → s.param 1 = 1 → u.fwCounter ≤ s.param 0 → ∃ t, exec .hcwFwchunk s = .next t ∧
      t.fwVersion = s.param 0 ∧ t.fwCounter = s.param 0 ∧ t.fwValid = true ∧ t.fwParts = []) ∧
    (op = 17 → u.hostOk a0.toNat a1.toNat = true → s.param 2 ≠ 0 → s.param 1 = 0 ∨ s.param 0 < u.fwCounter → ∃ t, exec .hcwFwchunk s = .next t ∧
      t.fwImage = u.fwImage ∧ t.fwVersion = u.fwVersion ∧ t.fwCounter = u.fwCounter ∧ t.fwParts = []) ∧
    (op = 18 → wbits a0 7 0 = 0 ∨ u.tenEn (wbits a0 7 0) = false → exec .hcwVfreset s = .next (u.completed q 2 [2])) ∧
    (op = 18 → wbits a0 7 0 ≠ 0 → u.tenEn (wbits a0 7 0) = true → u.tenState (wbits a0 7 0) ≠ 2 →
      ∃ t, exec .hcwVfreset s = .next t ∧ t.tenState (wbits a0 7 0) = 2 ∧ ∃ r ∈ t.vfResets, r.1 = wbits a0 7 0 ∧ r.2.2 = [q]) ∧
    (op = 19 → s.scrubHeld = false → a0.toNat % 65536 ≠ 0 ∨ a1.toNat % 65536 ≠ 0 ∨ a1 = 0 ∨ 2 ^ 28 < a1.toNat ∨ (c.arg 2).toNat % 4 ≠ 0 ∨
      a1.toNat ≤ (c.arg 2).toNat → exec .hcwKboot s = .next (u.completed q 2 [2])) ∧
    (s.scrubHeld = true → exec .hcwKboot s = .next s) ∧
    (op = 19 → s.scrubHeld = false → a0.toNat % 65536 = 0 → a1.toNat % 65536 = 0 → a1 ≠ 0 → a1.toNat ≤ 2 ^ 28 → (c.arg 2).toNat % 4 = 0 →
      (c.arg 2).toNat < a1.toNat →
      (u.sysRuns = true → exec .hcwKboot s = .next (u.completed q 8 [8])) ∧
      (u.sysRuns = false → u.hostOk a0.toNat a1.toNat = true → a1.toNat / 65536 + 17 ≤ (u.freeFrames 0 (a1.toNat / 65536 + 17) 8388608).length →
        ∃ t, exec .hcwKboot s = .next t ∧ (t.thr (t.svcCore 0) 0).st = .active ∧
          (t.thr (t.svcCore 0) 0).pc = BitVec.ofNat 64 (2 ^ 40 + (c.arg 2).toNat) ∧
          (t.thr (t.svcCore 0) 0).readG 1 = a1 ∧ (t.thr (t.svcCore 0) 0).readG 2 = 0)) ∧
    (op = 32 → ∀ g rs, g = u.evHost → rs = g.journal.filter (fun r => decide (a0.toNat < r.dseq)) →
      (∀ r ∈ g.journal.head?, r.dseq ≤ a0.toNat + 1) → g.journal ≠ [] ∨ g.issued ≤ a0.toNat →
      ∃ w, exec .hcwEvreplay s =
          .next (({ u with evHost := { g with waiting := w } } : State).completed q 0 [BitVec.ofNat 64 rs.length]) ∧
        w.length = g.waiting.length + rs.length ∧ (∀ x, x ∈ w ↔ x ∈ g.waiting ∨ ∃ r ∈ rs, x = { r with flags := 1 }) ∧
        (g.waiting.Pairwise (fun x y => x.dseq ≤ y.dseq) → w.Pairwise (fun x y => x.dseq ≤ y.dseq))) ∧
    (op = 33 → (∀ x ∈ u.cmds, x.hseq ≠ a0.toNat) → exec .hcwCmdstat s = .next (u.completed q 0 [0])) ∧
    (op = 33 → ∀ x, (u.cmds.find? fun x => decide (x.hseq = a0.toNat)) = some x →
      exec .hcwCmdstat s = .next (u.completed q 0 [BitVec.ofNat 64 (if x.done then 2 + 256 * x.status else 1)])) ∧
    (op = 48 → 3840 ≤ u.evAcc.waiting.length → exec .hcwAmsg s = .next (u.completed q 5 [0])) ∧
    (op = 48 → u.evAcc.waiting.length < 3840 → u.evAcc.lostSince = 0 → ∃ t, exec .hcwAmsg s = .next t ∧
      t.evAcc.issued = u.evAcc.issued + 1 ∧ ∃ r ∈ t.evAcc.journal, r.dseq = u.evAcc.issued + 1 ∧ r.kind = 7 ∧ r.hseq = a0 ∧
        r.vals = c.args.drop 1)) ∧
  ∀ (s : State) (v n : Nat), v = s.param 0 → n = s.param 0 →
    (v.testBit 0 = true → (s.hc hCTL).getLsbD 0 = false →
      (4 ≤ wbits (s.hc hCRS) 4 0 ∧ wbits (s.hc hCRS) 4 0 ≤ 16 ∧ 4 ≤ wbits (s.hc hERS) 4 0 ∧ wbits (s.hc hERS) 4 0 ≤ 16 ∧
        wbits (s.hc hCRB) 11 0 = 0 ∧ wbits (s.hc hERB) 11 0 = 0 →
        ∃ t, exec .hcwEnable s = .next t ∧ t.hc hCTL = (BitVec.ofNat 64 v &&& 0x7FF0003) ∧ t.hc hCPI = 0 ∧ t.hc hCCI = 0 ∧
          t.hc hSTAT = 0 ∧ t.hc hACC = s.hc hACC) ∧
      (wbits (s.hc hCRS) 4 0 < 4 ∨ 16 < wbits (s.hc hCRS) 4 0 ∨ wbits (s.hc hERS) 4 0 < 4 ∨ 16 < wbits (s.hc hERS) 4 0 ∨
        wbits (s.hc hCRB) 11 0 ≠ 0 ∨ wbits (s.hc hERB) 11 0 ≠ 0 →
        ∃ t, exec .hcwEnable s = .next t ∧ (t.hc hCTL).getLsbD 0 = false ∧ t.hc hSTAT = 4 ∧ t.hc hCPI = s.hc hCPI)) ∧
    (v.testBit 0 = false → ∃ t, exec .hcwDisable s = .next t ∧ t = { s with hcw := t.hcw } ∧ (t.hc hCTL).getLsbD 0 = false ∧
      ∀ o, o ≠ hCTL → t.hc o = s.hc o) ∧
    (∃ t, exec .hcwEciWrite s = .next t ∧ t.hc hECI = BitVec.ofNat 64 v ∧ ∀ o, o ≠ hECI → t.hc o = s.hc o) ∧
    (n = 0x2000 → ∀ w : Word, w = BitVec.ofNat 64 (s.param 2) →
      (s.param 1 ≤ 1 → ∃ t, exec .registerWrite s = .next t ∧ t = { s with hdmRegs := t.hdmRegs } ∧
        t.hdmRegs = if (s.hdmRegs.val 2 0).getLsbD 10 then s.hdmRegs else s.hdmRegs.put (s.param 1) w) ∧
      (s.param 1 = 2 → ∃ t, exec .registerWrite s = .next t ∧ t = { s with hdmRegs := t.hdmRegs, hdmBase := t.hdmBase } ∧
        (t.hdmBase = if w.getLsbD 9 = true ∧ s.hdmRegs.val 1 0 = 0x8000000000 ∧ (s.hdmRegs.val 0 0).toNat % 2 ^ 28 = 0 then
          some (s.hdmRegs.val 0 0).toNat else none) ∧
        ((t.hdmRegs.val 2 0).getLsbD 10 = true ↔ t.hdmBase.isSome = true) ∧
        ((t.hdmRegs.val 2 0).getLsbD 11 = true ↔ w.getLsbD 9 = true ∧ t.hdmBase = none))) ∧
    (n = 0x1018 → ∃ t, exec .registerWrite s = .next t ∧ t = { s with hcw := t.hcw } ∧ t.hc hCPI = BitVec.ofNat 64 (s.param 2)) ∧
    (n ∈ [0x1008, 0x1010, 0x1030, 0x1038] → (s.hc hCTL).getLsbD 0 = true → exec .registerWrite s = .next s) ∧
    (n ∈ [0x1008, 0x1030] → (s.hc hCTL).getLsbD 0 = false → ∃ t, exec .registerWrite s = .next t ∧
      t.hc (n - 0x1000) = BitVec.ofNat 64 (s.param 2)) ∧
    (n ∈ [0x1010, 0x1038] → (s.hc hCTL).getLsbD 0 = false → ∃ t, exec .registerWrite s = .next t ∧
      t.hc (n - 0x1000) = BitVec.ofNat 64 (s.param 2 % 32)) ∧
    (0x40 ≤ n → n < 0x1000 → ∀ len, srLen n = some len →
      (s.param 1 < len → ∀ i w, i = s.param 1 → w = BitVec.ofNat 64 (s.param 2) →
        (n ∉ [0x59, 0x63, 0x81, 0x84, 0x90, 0x98, 0x99, 0xC1] → exec .registerWrite s = .next (s.storeSr n i w)) ∧
        (n = 0x63 → exec .registerWrite s = .next (s.storeSr n i w).pfc) ∧
        (n = 0x59 → exec .registerWrite s =
          .next (if i = 0 ∨ s.collEn i = true then s else s.setSr 0x59 i (w &&& 0x0000FFFF0000001F))) ∧
        (n = 0x81 ∨ n = 0x84 → exec .registerWrite s = .next (if s.tenEn i then s
          else s.setSr n i (w &&& if n = 0x81 then 0x0000FFFFFFFF0001 else 0xFFFFFFFFFFFF0000))) ∧
        (n = 0x90 → exec .registerWrite s = .next { s with keyData := s.keyData.put i w }) ∧
        (n = 0x98 ∨ n = 0x99 → exec .registerWrite s = .next (if s.scrubState = 1 ∨ s.scrubState = 2 then s
          else s.setSr n 0 (w &&& if n = 0x98 then 0x0000FFFFFFFF0000 else 0xFFFFFF))) ∧
        (n = 0xC1 → exec .registerWrite s = .next (s.setSr 0xC1 0 (s.srv 0xC1 0 &&& ~~~w)))) ∧
      (len ≤ s.param 1 → exec .registerWrite s = .next s))

open Sys2Proof Sys2Proof.Machine Sys2Proof.Claims in
/-- R79 to R87: the frame record. A transaction returns the first status of R82 that applies and changes nothing, or
commits the entry of R81 with SEQ + 1 and starts its revocation and its event; FQUERY returns the entry; an overrun and
a retirement commit theirs; an acknowledgement drops the frame's translations and ends the revocation with the last; the
frame check of R84 admits or refuses, at the host port with poison and a REFUSED event; the accelerator kernel's ring
takes its registers. The model's own choices here: that OFFERED and RETURNED follow the last acknowledgement, and what
BORROWER, BTEN and RVK read after a retirement and the STATUS of the borrower's OVERRUN record (log 75); that a line which the
host takes for modification needs write permission (log 31); the writable bits of FREC.AEVB (log 11). -/
def Obligations.FrameRecord : Prop :=
  (∀ (s : State) (t : Tx) (p : Nat) (req a : Word) (after : Word → AfterRevoke) (s1 : State) (res : Word) (w : Bool) (f : Nat),
    p ≤ 1 → f = req.toNat % 2 ^ 32 → s.transact t p req a after = (s1, res, w) →
    ∃ st, StatusIs t p f (req.toNat / 2 ^ 32) a.toNat (s.frame f) st ∧
      (st ≠ 0 → s1 = s ∧ w = false ∧ res = BitVec.ofNat 64 ((if st = 1 then 0 else (s.frame f).seq) * 2 ^ 32 + st)) ∧
      (st = 0 → EntryIs s s1 f (entryAfter t p (s.ns 8) a.toNat (s.frame f)) ∧
        res = BitVec.ofNat 64 (seqAfter (s.frame f).seq * 2 ^ 32) ∧ (w = true ↔ t = .offer ∨ t = .ret) ∧
        (w = true → Revoking s s1 f p (if t = .offer then [(1 - p, note 1 0 [BitVec.ofNat 64 f, res])]
          else [((s.frame f).owner, note 3 0 [BitVec.ofNat 64 f, res])])) ∧ (w = false → s1.revokes = s.revokes) ∧
        (t = .recall → p = 0 → s.evAcc.waiting.length < 3840 → Recorded s1.evAcc 2 0 [BitVec.ofNat 64 f, res]) ∧
        (t = .recall → p = 1 → s.evHost.waiting.length < 3840 → Recorded s1.evHost 2 0 [BitVec.ofNat 64 f, res]))) ∧
  (∀ (s : State) (req a : Word) (f : Nat) (e : Frame), f = req.toNat % 2 ^ 32 → e = s.frame f →
    (8388608 ≤ f → s.query req a = (1, 0, 0)) ∧
    (f < 8388608 → a ≠ 0 → s.query req a = (BitVec.ofNat 64 (e.seq * 2 ^ 32 + 2), 0, 0)) ∧
    (f < 8388608 → a = 0 → req.toNat / 2 ^ 32 ≠ 0 → req.toNat / 2 ^ 32 ≠ e.seq →
      s.query req a = (BitVec.ofNat 64 (e.seq * 2 ^ 32 + 6), 0, 0)) ∧
    (f < 8388608 → a = 0 → req.toNat / 2 ^ 32 = 0 ∨ req.toNat / 2 ^ 32 = e.seq →
      ∃ lo hi, s.query req a = (BitVec.ofNat 64 (e.seq * 2 ^ 32), lo, hi) ∧
        (e.bten < 256 → e.deadline < 2 ^ 40 → lo.toNat = e.deadline * 2 ^ 24 + e.bten * 2 ^ 16) ∧
        (e.bten < 256 → e.deadline < 2 ^ 40 → e.seq < 2 ^ 32 → e.key < 256 → e.tenant < 256 → e.rvk < 4 → e.borrower < 4 →
          e.owner < 4 → e.state < 8 →
          wbits hi 31 0 = e.seq ∧ wbits hi 39 32 = e.key ∧ wbits hi 47 40 = e.tenant ∧ hi.getLsbD 51 = e.lro ∧
          hi.getLsbD 52 = e.exported ∧ hi.getLsbD 53 = e.watch ∧ hi.getLsbD 54 = e.prot ∧ wbits hi 56 55 = e.rvk ∧
          wbits hi 58 57 = e.borrower ∧ wbits hi 60 59 = e.owner ∧ wbits hi 63 61 = e.state))) ∧
  (∀ (s : State) (f p t : Nat) (w : Bool), CheckIs (s.frame f) (s.lptFrame f) p t w (s.frameCheck f p t w)) ∧
  (∀ (s : State) (r : Revoke) (who : Nat), who = s.param 1 → (s.revokes.find? fun r => decide (r.id = s.param 0)) = some r →
    who ∈ r.left → r.after = .nothing → ∃ t, exec .revocationAck s = .next t ∧
      (∀ x ∈ t.xls, ¬ (who < 64 ∧ x.abut = who ∧ x.pa / 65536 = r.frame)) ∧
      (s.ackReady r.frame who = true → r.left ≠ [who] → t.revokes = s.revokes.map fun x =>
        if x.id = r.id then { x with left := x.left.erase who } else x) ∧
      (s.ackReady r.frame who = true → r.left = [who] → (t.revokes = s.revokes.filter fun x => decide (x.id ≠ r.id)) ∧
        ∀ k st vals, (r.notes = [(0, note k st vals)] → s.evHost.waiting.length < 3840 → Recorded t.evHost k st vals) ∧
          (r.notes = [(1, note k st vals)] → s.evAcc.waiting.length < 3840 → Recorded t.evAcc k st vals)) ∧
      (s.ackReady r.frame who = false → t.revokes = s.revokes)) ∧
  (∀ (s : State) (f : Nat) (e : Frame), f = s.param 0 → e = s.frame f → f < 8388608 →
    (e.state = 4 → reached 40 (s.ns 8) e.deadline = true → e.borrower = 1 ∨ e.borrower = 2 →
      ∃ t, exec .recallDeadlineExpiry s = .next t ∧
        EntryIs s t f { e with state := 1, borrower := 0, bten := 0, rvk := e.borrower, seq := seqAfter e.seq } ∧
        Revoking s t f (e.borrower - 1) [(e.owner, note 3 19 [BitVec.ofNat 64 f, BitVec.ofNat 64 (seqAfter e.seq * 2 ^ 32 + 19)])] ∧
        (e.borrower = 1 → t.hc hOVR = s.hc hOVR + 1 ∧ t.srv 0x72 0 = s.srv 0x72 0) ∧
        (e.borrower = 2 → t.srv 0x72 0 = s.srv 0x72 0 + 1 ∧ t.hc hOVR = s.hc hOVR)) ∧
    (e.state ≠ 6 → e.owner ≠ 2 → ∃ t, exec .frameRetire s = .next t ∧
      EntryIs s t f { e with state := 6, borrower := 0, bten := 0, rvk := 0, seq := seqAfter e.seq } ∧ Revoking s t f 2 [] ∧
      (s.evHost.waiting.length < 3840 → Recorded t.evHost 6 0 [BitVec.ofNat 64 f, BitVec.ofNat 64 (seqAfter e.seq * 2 ^ 32)]))) ∧
  (∀ (s : State) (b a hpa op l : Nat), hpa = s.param 0 → op = s.param 1 → s.hdmBase = some b → hpa = b + a → a < 2 ^ 39 →
    s.moving a = false → s.relocking ≠ some 16 → s.homeRuns a = true → l = 64 * (a / 64) →
    (op = 1 → s.hostDirty.contains (a / 64) = true → s.param 3 = 2 ^ 64 - 1 → Memory.wf s.mem = true →
      (s.frame (a / 65536)).prot = false → ∃ t, exec .hostCxlMemAccess s = .next t ∧
        StoredAt s t l 64 (s.param 2 % 2 ^ 512) ∧ t.hostDirty = s.hostDirty.erase (a / 64)) ∧
    ((∀ c ∈ s.hostChk, c.1 ≠ a / 65536) → s.hostDirty.contains (a / 64) = false →
    (s.frameCheck (a / 65536) 0 0 (decide (op ≠ 0)) = .grant false → (s.frame (a / 65536)).prot = false →
      (op = 0 → Calm s → ∃ t, exec .hostCxlMemAccess s = .next t ∧
        t.out = s.out ++ [.hostRead hpa (s.rdN l 64) (s.poison.contains (l / 256))] ∧ t.mem = s.mem) ∧
      (op = 1 → s.param 3 = 2 ^ 64 - 1 → Memory.wf s.mem = true → ∃ t, exec .hostCxlMemAccess s = .next t ∧
        StoredAt s t l 64 (s.param 2 % 2 ^ 512))) ∧
    (∀ c, s.frameCheck (a / 65536) 0 0 (decide (op ≠ 0)) = .refuse c → s.evHost.waiting.length < 3840 →
      ∃ t, exec .hostCxlMemAccess s = .next t ∧
        (Memory.wf s.mem = true → ∀ x, x < 2 ^ 64 → t.rd8 x = s.rd8 x) ∧
        Recorded t.evHost 5 (if c = fREVOKED then 10 else if c = fPERM then 11 else 12) [BitVec.ofNat 64 (a / 65536)]))) ∧
  ∀ (s : State),
    (∃ t, exec .frecAevconWrite s = .next t ∧ t.srv 0x76 0 = BitVec.ofNat 64 (s.param 0)) ∧
    (∃ t, exec .frecAevConfigWrite s = .next t ∧ t.srv 0x73 0 = BitVec.ofNat 64 (s.param 0 % 2 ^ 48 / 65536 * 65536) ∧
      t.srv 0x74 0 = BitVec.ofNat 64 (s.param 1 % 32))

/-! ### Chapter 4: tenants, partitions, key slots and the scrub engine -/

namespace Sys2Proof.Claims

open Machine

/-- No number lies in both ranges. -/
def Apart (a n b m : Nat) : Prop := ∀ i, ¬ (a ≤ i ∧ i < a + n ∧ b ≤ i ∧ i < b + m)

/-- A write that sets EN passes the checks of R89. -/
def TenantFits (s : State) (t : Nat) (v : Word) : Prop :=
  wbits v 54 48 ≤ 64 ∧ wbits v 47 36 + wbits v 54 48 ≤ 4096 ∧ 256 * (wbits v 26 19 + wbits v 35 27) ≤ 65536 ∧
    (v.getLsbD 7 = true → (s.keys.val (wbits v 15 8) {}).loaded = true) ∧
    ∀ u < 256, u ≠ t → s.tenEn u = true →
      Apart (wbits v 47 36) (wbits v 54 48) (s.srf 0x80 u 47 36) (s.srf 0x80 u 54 48) ∧
      Apart (wbits v 26 19) (wbits v 35 27) (s.srf 0x80 u 26 19) (s.srf 0x80 u 35 27) ∧
      (v.getLsbD 7 = true → (s.srv 0x80 u).getLsbD 7 = true → s.srf 0x80 u 15 8 ≠ wbits v 15 8)

/-- The outcome of the checks of R92: the first that fails. -/
def IntervalStat (s : State) (j b n st : Nat) : Prop :=
  let range := n = 0 ∨ 8192 < b + n
  let overlap := ∃ i < 64, i ≠ j ∧ s.partEn i = true ∧ ¬ Apart b n (s.srf 0x89 i 12 0) (s.srf 0x8A i 13 0)
  let member := ∃ h, b ≤ h ∧ h < b + n ∧ s.live h = true ∧ s.excl h = false ∧ s.isSys h = false
  (range → st = 1) ∧ (¬ range → overlap → st = 2) ∧ (¬ range → ¬ overlap → ¬ member → st = 3) ∧
    (¬ range → ¬ overlap → member → st = 0)

/-- The change of the bit of core `x` to `b` waits, in the place of one that waited already (R96). -/
def Later (s : State) (x : Nat) (b : Bool) : State :=
  { s with exclWait := (s.exclWait.filter fun c => decide (c.1 ≠ x)) ++ [(x, b)] }

/-- A key of four doublewords, the least significant first (R99). -/
def keyOf (s : State) (i : Nat) : Nat :=
  (s.keyData.val i 0).toNat + 2 ^ 64 * (s.keyData.val (i + 1) 0).toNat + 2 ^ 128 * (s.keyData.val (i + 2) 0).toNat +
    2 ^ 192 * (s.keyData.val (i + 3) 0).toNat

/-- The scrub engine may read the list's frame (R102). -/
def ListFrame (s : State) (f : Nat) : Prop := f < 8388608 ∧ (s.frame f).owner = 1 ∧ (s.frame f).state ≤ 1

/-- The status of an entry that the scrub engine takes (R103); 0 for a frame that it marks. -/
def MarkStat (s : State) (a f st : Nat) : Prop :=
  let e := s.frame f
  (¬ ListFrame s (a / 65536) ∨ s.poisoned a = true ∨ 8388608 ≤ f → st = 1) ∧
    (ListFrame s (a / 65536) → s.poisoned a = false → f < 8388608 →
      (e.owner = 2 → st = 3) ∧ (e.owner ≠ 2 → e.state = 6 → st = 4) ∧ (e.owner ≠ 2 → e.state = 5 → st = 5) ∧
      (e.owner ≠ 2 → e.owner ≠ 1 → e.state < 5 → st = 7) ∧ (e.owner = 1 → 1 < e.state → e.state < 5 → st = 8) ∧
      (e.owner = 1 → e.state ≤ 1 → st = 0))

end Sys2Proof.Claims

open Sys2Proof Sys2Proof.Machine Sys2Proof.Claims in
/-- R89 to R105: a tenant is enabled by a write that passes its checks, and reset by one that clears EN or by a
function-level reset: its launches stop, then its queues, collectives, rings, counters and generation end with it. A
partition takes an interval that passes the checks of R92, resizes once its leaving cores are free, and is disabled when
nothing uses it; a write of GO during a resize is ignored; a core leaves its partition before its bit of `PART.EXCL` reads 1, and
of the changes that wait for a core the last one counts. A key slot takes keys once. The scrub engine marks its list's frames,
writes them with zeros and frees them. The model's own choices here: that a clear during an exclusion is done after it (log 59),
that a disable commits the resize in progress (log 80), and that a LOADED slot is BUSY before equal keys are BADARG (log 11). -/
def Obligations.TenantEvents : Prop :=
  ∀ (s : State) (x : Nat) (v : Word), x = s.param 0 → v = BitVec.ofNat 64 (s.param 1) →
    (0 < x → x < 256 → s.tenEn x = false → v.getLsbD 63 = true →
      (TenantFits s x v → ∃ t, exec .tenCfgEnable s = .next t ∧ t = { s with sr := t.sr } ∧
        t.srv 0x80 x = (v &&& 0x007FFFFFFFF8FF80) ||| 0xA000000000000000) ∧
      (¬ TenantFits s x v → exec .tenCfgEnable s = .next s)) ∧
    (0 < x → x < 256 → s.tenEn x = true → s.tenState x ≠ 2 → ∀ e, e = Instr.vfFlr ∨ e = Instr.tenCfgDisable ∧ v.getLsbD 63 = false →
      ∃ t, exec e s = .next t ∧ t.tenState x = 2 ∧ t.tenEn x = true ∧
        (∀ l ∈ t.launches, l.tenant = x → l.stopping = 3 ∧ l.saved = false) ∧
        (∀ l ∈ s.launches, l.tenant ≠ x → (∀ m ∈ s.launches, m.tenant = x → ¬ (m.q = l.q ∧ m.lhead = l.lhead)) → l ∈ t.launches)) ∧
    (x < 256 → s.tenState x = 2 → s.tenGone x = true → x ∉ s.sweeps → ∃ t, exec .vfResetComplete s = .next t ∧
      t.tenEn x = false ∧ t.tenState x = 0 ∧ (∀ l ∈ t.launches, l.tenant ≠ x) ∧ (∀ c ∈ t.colls, c.tenant ≠ x) ∧
      (∀ i < s.srf 0x80 x 54 48, t.srf 0xA0 (s.srf 0x80 x 47 36 + i) 63 61 = 0 ∧ t.srf 0xA0 (s.srf 0x80 x 47 36 + i) 23 16 = 0) ∧
      (∀ r < 256, s.ringTen r = x → t.ringEn r = false) ∧
      (∀ i, i < 65536 → 256 * s.srf 0x80 x 26 19 ≤ i → i < 256 * (s.srf 0x80 x 26 19 + s.srf 0x80 x 35 27) → t.srv 0xA8 i = 0) ∧
      t.srf 0xDA x 7 0 = (s.srf 0xDA x 7 0 + 1) % 256 ∧ t.frames = s.frames ∧ t.keys = s.keys ∧
      ∀ h r, (t.core h).retain = some r → r.tenant ≠ x) ∧
    (x < 64 → s.partEn x = false → v.getLsbD 63 = true → ∃ t st, exec .partEnable s = .next t ∧ t.srf 0x88 x 60 58 = st ∧
      IntervalStat s x (wbits v 12 0) (wbits v 27 14) st ∧
      (st = 0 → t.partEn x = true ∧ t.srf 0x89 x 12 0 = wbits v 12 0 ∧ t.srf 0x8A x 13 0 = wbits v 27 14) ∧
      (st ≠ 0 → t.partEn x = false ∧ t.srv 0x89 x = s.srv 0x89 x ∧ t.srv 0x8A x = s.srv 0x8A x)) ∧
    (x < 64 → s.partEn x = true → (s.part x).resizing = false → v.getLsbD 62 = true → ∃ t st, exec .partResize s = .next t ∧
      t.srf 0x88 x 60 58 = st ∧ IntervalStat s x (wbits v 12 0) (wbits v 27 14) st ∧ t.partEn x = true ∧
      t.srv 0x89 x = s.srv 0x89 x ∧ t.srv 0x8A x = s.srv 0x8A x ∧
      (st = 0 → (t.srv 0x88 x).getLsbD 61 = true ∧ (t.part x).resizing = true ∧ (t.part x).newBase = wbits v 12 0 ∧
        (t.part x).newLen = wbits v 27 14 ∧
        ∀ h ∈ s.members x, ¬ (wbits v 12 0 ≤ h ∧ h < wbits v 12 0 + wbits v 27 14) → (t.core h).share ≠ none → (t.core h).quiesce = true)) ∧
    (x < 64 → (s.part x).resizing = true → (∀ h ∈ (s.part x).leaving, (s.core h).share = none ∧ (s.core h).quiesce = false) →
      s.launches = [] → s.exclWait = [] → ∃ t, exec .partResizeCommit s = .next t ∧
        t.srv 0x89 x = BitVec.ofNat 64 (s.part x).newBase ∧ t.srv 0x8A x = BitVec.ofNat 64 (s.part x).newLen ∧
        (t.srv 0x88 x).getLsbD 61 = false ∧ (t.part x).resizing = false ∧
        ∀ h ∈ (s.part x).leaving, ∀ off < 65536, memInit (lsLoc h off) = 0 → t.rd8 (lsLoc h off) = 0) ∧
    ((s.part x).resizing = true → v.getLsbD 62 = true → exec .partResize s = .next s ∧ exec .partDisable s = .next s) ∧
    (x < 64 → s.partEn x = true → v.getLsbD 63 = false → ((s.part x).resizing = true → v.getLsbD 62 = false) → ∀ used : Prop,
      (used ↔ (s.resident x).isSome = true ∨ (∃ h ∈ s.members x, (s.core h).share ≠ none ∨ (s.core h).quiesce = true) ∨
        ∃ t < 256, s.tenEn t = true ∧ (s.srv 0x82 t).getLsbD x = true) →
      ∃ t st, exec .partDisable s = .next t ∧ (v.getLsbD 62 = false → st = 0) ∧
        (v.getLsbD 62 = true → IntervalStat s x (wbits v 12 0) (wbits v 27 14) st) ∧
        (st ≠ 0 → t.partEn x = true ∧ t.srf 0x88 x 60 58 = st) ∧ (st = 0 → used → t.partEn x = true ∧ t.srf 0x88 x 60 58 = 4) ∧
        (st = 0 → ¬ used → t.partEn x = false ∧ t.srf 0x88 x 60 58 = 0)) ∧
    (x < 8192 →
      (s.exclWaits x = true → exec .partExclSet s = .next (Later s x true) ∧ exec .partExclClear s = .next (Later s x false)) ∧
      (s.exclWaits x = false → s.partOf x = none → ∃ t, exec .partExclSet s = .next t ∧ t.excl x = true) ∧
      (∀ j, s.exclWaits x = false → s.partOf x = some j → s.excl x = false → x ∉ s.exclBusy → (s.part j).resizing = true →
        exec .partExclSet s = .next (Later s x true)) ∧
      (∀ j, s.exclWaits x = false → s.partOf x = some j → s.excl x = false → x ∉ s.exclBusy → (s.part j).resizing = false → s.member j x = true →
        ∃ t, exec .partExclSet s = .next t ∧ x ∈ t.exclBusy ∧ t.excl x = false ∧
          ((t.core x).share ≠ none → (t.core x).quiesce = true)) ∧
      (s.exclWaits x = false → s.partOf x = none → x ∉ s.exclBusy → ∃ t, exec .partExclClear s = .next t ∧ t.excl x = false ∧ t = { s with sr := t.sr }) ∧
      (x ∈ s.exclBusy → exec .partExclClear s = .next (Later s x false)) ∧
      (x ∈ s.exclBusy → (s.core x).share = none → (s.core x).quiesce = false → s.launches = [] → s.exclWait = [] →
        ∃ t, exec .partExclDone s = .next t ∧ t.excl x = true ∧ t.exclBusy = s.exclBusy.erase x)) ∧
    (∀ k, k = x % 256 →
      ((s.keys.val k {}).loaded = true → ∀ e, e = Instr.keyLoad ∨ e = Instr.keyGen → ∃ t, exec e s = .next t ∧
        t.srv 0x92 0 = 1 ∧ t.keyData = [] ∧ t.keys = s.keys) ∧
      ((s.keys.val k {}).loaded = false → keyOf s 0 = keyOf s 4 → ∃ t, exec .keyLoad s = .next t ∧ t.srv 0x92 0 = 2 ∧
        t.keyData = [] ∧ t.keys = s.keys) ∧
      ((s.keys.val k {}).loaded = false → keyOf s 0 ≠ keyOf s 4 → ∃ t, exec .keyLoad s = .next t ∧ t.srv 0x92 0 = 0 ∧
        t.keyData = [] ∧ (t.keys.val k {}).loaded = true ∧ (t.keys.val k {}).key1.toNat = keyOf s 0 ∧
        (t.keys.val k {}).key2.toNat = keyOf s 4 ∧ ∀ j, j ≠ k → t.keys.val j {} = s.keys.val j {}) ∧
      ((s.keys.val k {}).loaded = false → ∃ t, exec .keyGen s = .next t ∧ t.srv 0x92 0 = 0 ∧ t.keyData = [] ∧
        (t.keys.val k {}).loaded = true ∧ ∀ j, j ≠ k → t.keys.val j {} = s.keys.val j {})) ∧
    (∀ n lst st, n = s.srf 0x99 0 23 0 → lst = s.srf 0x98 0 47 16 → st = s.srf 0x9B 0 63 62 →
      ((st = 0 ∨ st = 3) ∧ 1 ≤ n ∧ n ≤ 8388608 ∧ (∀ i, i < 4 * n → ListFrame s (lst + i / 65536)) →
        ∃ t, exec .scrubStart s = .next t ∧ t.srv 0x9B 0 = 0x4000000000000000 ∧ t.srv 0x9C 0 = 0 ∧ t.frames = s.frames) ∧
      (¬ ((st = 0 ∨ st = 3) ∧ 1 ≤ n ∧ n ≤ 8388608 ∧ (∀ i, i < 4 * n → ListFrame s (lst + i / 65536))) →
        exec .scrubStart s = .next s) ∧
      (∀ i a f, i = s.srf 0x9B 0 47 24 → a = 65536 * lst + 4 * i → f = s.rdP a 4 → st = 1 → s.scrubHeld = false → s.bitErr = [] → i < n →
        ∃ t c, exec .scrubMarkEntry s = .next t ∧ MarkStat s a f c ∧ t.srf 0x9B 0 47 24 = i + 1 ∧
          t.srf 0x9B 0 63 62 = (if i + 1 = n then 2 else 1) ∧
          (c = 0 → EntryIs s t f { s.frame f with state := 5, seq := seqAfter (s.frame f).seq } ∧ Revoking s t f 2 []) ∧
          (c ≠ 0 → t.frames = s.frames ∧ t.revokes = s.revokes ∧ (s.srf 0x9C 0 23 0 + 1 < 2 ^ 24 →
            t.srf 0x9C 0 23 0 = s.srf 0x9C 0 23 0 + 1) ∧
            (s.srf 0x9C 0 23 0 = 0 → t.srf 0x9C 0 63 56 = c ∧ t.srf 0x9C 0 55 32 = i))) ∧
      (∀ i, i = s.srf 0x9B 0 23 0 → st = 2 → s.scrubHeld = false → i < n →
        (∀ m, (s.scrubMarked.find? fun m => decide (m.1 = i)) = some m → (s.frame m.2).state ≠ 6 → (∀ r ∈ s.revokes, r.frame ≠ m.2) →
          ∃ t, exec .scrubFrameCommit s = .next t ∧
            EntryIs s t m.2 { state := 0, owner := 1, seq := seqAfter (s.frame m.2).seq, deadline := (s.frame m.2).deadline } ∧
            (∀ y, y / 65536 = m.2 → memInit y = 0 → t.rd8 y = 0) ∧ t.srf 0x9B 0 23 0 = i + 1 ∧
            t.srf 0x9B 0 63 62 = (if i + 1 = n then 3 else 2)) ∧
        ((s.scrubMarked.find? fun m => decide (m.1 = i)) = none → ∃ t, exec .scrubFrameCommit s = .next t ∧
          t.frames = s.frames ∧ t.mem = s.mem ∧ t.srf 0x9B 0 23 0 = i + 1))) ∧
    exec .scrubResume s = .next { s with scrubHeld := false }

/-! ### Chapter 5: the hardware scheduler -/

namespace Sys2Proof.Claims

open Machine

/-- The queue belongs to its enabled tenant and its ring has a size of R106. -/
def QueueFits (s : State) (q : Nat) (v : Word) : Prop :=
  let t := wbits v 31 24
  t ≠ 0 ∧ (s.srv 0x80 t).getLsbD 63 = true ∧ s.srf 0x80 t 47 36 ≤ q ∧ q < s.srf 0x80 t 47 36 + s.srf 0x80 t 54 48 ∧
    4 ≤ wbits v 52 48 ∧ wbits v 52 48 ≤ 16

/-- The queue's state block (R114) and what a doorbell of `tail` does (R107): 2 ignored, 1 overrun, 0 taken. -/
def block (s : State) (q : Nat) : Nat := s.srf 0xA2 0 47 0 + 128 * q
def headOf (s : State) (q : Nat) : Nat := s.rdP (block s q) 8 % 2 ^ 32
def tailOf (s : State) (q : Nat) : Nat := s.rdP (block s q + 8) 8 % 2 ^ 32
def bellOf (s : State) (q tail : Nat) : Nat :=
  let back := (tailOf s q + 2 ^ 32 - tail % 2 ^ 32) % 2 ^ 32
  if s.qEn q = false ∨ s.srf 0x80 (s.srf 0xA0 q 31 24) 62 61 = 2 ∨ (0 < back ∧ back < 2 ^ 31) then 2
  else if 2 ^ s.srf 0xA0 q 52 48 < (tail % 2 ^ 32 + 2 ^ 32 - headOf s q) % 2 ^ 32 then 1
  else 0

/-- The state block of a queue reads without an error: no granule has one, and the block's is not poisoned (R183). -/
def BlockReads (s : State) (q : Nat) : Prop := s.bitErr = [] ∧ s.poisoned (block s q) = false

/-- The word of a domain of 2 ^ `log` cores around `m`, within an interval: valid, size and base (R119, R139). -/
def domainWord (m log base len : Nat) : Word :=
  let lo := max (2 ^ log * (m / 2 ^ log)) base
  BitVec.ofNat 64 (2 ^ 63 + (min (2 ^ log * (m / 2 ^ log + 1)) (base + len) - lo) * 2 ^ 32 + lo)

/-- No byte of the range is enciphered at its pier (R98). -/
def Plain (s : State) (a n : Nat) : Prop := ∀ i < n, s.enciphered (a + i) = false

/-- The same launch. -/
def Same (l x : Launch) : Bool := decide (x.q = l.q ∧ x.lhead = l.lhead)

/-- Only the launches named by `l` have changed, by `f`. -/
def LaunchIs (s t : State) (l : Launch) (f : Launch → Launch) : Prop :=
  t.launches = s.launches.map fun x => if x.q = l.q ∧ x.lhead = l.lhead then f x else x

/-- The registers of a thread that starts a routine for slot `slot` of share `x`; `dflt` is SCHED.TLIM (R119). -/
def RoutineStarts (th : Thread) (x : Share) (dflt slot : Nat) (pc : Word) (g1 : Nat) : Prop :=
  th.st = .active ∧ th.pc = pc ∧ th.readG 1 = BitVec.ofNat 64 g1 ∧ th.readG 2 = x.arg ∧ th.readG 3 = BitVec.ofNat 64 x.k ∧
    th.readG 4 = BitVec.ofNat 64 x.l ∧ th.readG 5 = x.desc ∧ th.readG 6 = BitVec.ofNat 64 x.lhead ∧
    (∀ n < 32, 7 ≤ n → th.readG n = 0) ∧ th.wbsp = x.stk + BitVec.ofNat 64 (16384 * (4 * x.k + slot)) ∧
    th.limit = BitVec.ofNat 64 (if x.tlim = 0 then dflt else x.tlim) ∧ th.pend = [] ∧ th.rep = 0

/-- The core holds no share and its stores are empty. -/
def CoreEmptied (t : State) (h : Nat) : Prop :=
  (t.core h).share = none ∧ (t.core h).threads = [] ∧
    (∀ off < 65536, memInit (lsLoc h off) = 0 → t.rd8 (lsLoc h off) = 0) ∧ ∀ off < 65536, t.full (lsLoc h off) = false

end Sys2Proof.Claims

open Sys2Proof Sys2Proof.Machine Sys2Proof.Claims in
/-- R106 to R131, R147: queues are enabled and disabled, and doorbells taken, as R106 and R107 say; the leader is the
eligible die of lowest socket; a dequeue completes an entry that fails its check, resumes a saved launch of the owner or
commits its best entry; a deal is accepted once; a share begins with the registers of R119, passes its launch barrier
and ends; a launch completes with its STATUS, its increment and its interrupt; slices, SCHED.END, quiescence, saves,
restores, displaced shares and retention act as their rules say. The model's own choices here: that a doorbell behind TAIL is
ignored before OVERRUN is judged (log 33), that SEQ moves only where the leader's die changes (log 34), that a refused enable
stores its other fields (log 35), what a poisoned state block ends as (log 43), at which die a head without a leader completes
(log 87), whose domains a share of another core has (log 57), that X0's device time measures a slice (log 7), that a restored
thread parked on a fault executes its instruction again (log 40), and that the gang of a quiesced core ends (log 86). -/
def Obligations.SchedulerEvents : Prop :=
  (∀ (s : State) (q : Nat) (v : Word), q = s.param 0 → v = BitVec.ofNat 64 (s.param 1) → q < 4096 →
    (v.getLsbD 63 = true → s.qEn q = false → QueueFits s q v → ∃ t, exec .schedQueueEnable s = .next t ∧
      t = { s with sr := t.sr } ∧ t.srv 0xA0 q = (v &&& 0x1FFFFFFFFF008000) ||| 0xA000000000000000) ∧
    (v.getLsbD 63 = true → s.qEn q = false → ¬ QueueFits s q v → ∃ t, exec .schedQueueEnable s = .next t ∧
      t.qEn q = false ∧ t.srf 0xA0 q 62 61 = 0 ∧ t.srf 0xA0 q 23 16 = 1) ∧
    (s.qEn q = true → exec .schedQueueEnable s = .next s ∧ ∃ t, exec .schedQueueDisable s = .next t ∧ t = { s with sr := t.sr } ∧
      t.qEn q = false ∧ t.srf 0xA0 q 62 61 = 0 ∧ t.srf 0xA0 q 60 0 = s.srf 0xA0 q 60 0)) ∧
  (∀ (s : State) (t i q : Nat), t = s.param 0 → i = s.param 1 → 0 < t → t < 256 → (s.srv 0x80 t).getLsbD 63 = true →
    i < s.srf 0x80 t 54 48 → q = s.srf 0x80 t 47 36 + i →
    (BlockReads s q → bellOf s q (s.param 2) = 2 → exec .vfDoorbell s = .next s) ∧
    (s.bitErr = [] → s.poisoned (block s q) = true → s.qEn q = true → s.srf 0x80 (s.srf 0xA0 q 31 24) 62 61 ≠ 2 →
      ∃ u, exec .vfDoorbell s = .next u ∧ u.mem = s.mem ∧ u.srf 0xA0 q 62 61 = 2 ∧ u.srf 0xA0 q 23 16 = 2) ∧
    (BlockReads s q → bellOf s q (s.param 2) = 1 → ∃ u, exec .vfDoorbell s = .next u ∧ u.mem = s.mem ∧ u.srf 0xA0 q 62 61 = 2 ∧
      u.srf 0xA0 q 23 16 = 3) ∧
    (BlockReads s q → bellOf s q (s.param 2) = 0 → Plain s (block s q + 8) 8 → Memory.wf s.mem = true → ∃ u, exec .vfDoorbell s = .next u ∧ u.sr = s.sr ∧
      StoredAt s u (block s q + 8) 8 (s.param 2 % 2 ^ 32))) ∧
  (∀ (s : State), s.param 0 < 65536 → ∃ t, exec .fcValWrite s = .next t ∧ t.srv 0xA8 (s.param 0) = BitVec.ofNat 64 (s.param 1) ∧
    t.fcClk = s.fcClk ∧ t.mem = s.mem) ∧
  (∀ (s s1 : State) (hs : List Head) (j die : Nat), j = s.param 0 → die = (s.leads j).getD 0 → s1 = (s.heads die j).1 →
    hs = (s.heads die j).2 →
    (∀ h s2 w r, (hs.find? fun h => decide (h.st ≠ 0)) = some h →
      s.leads j ≠ none ∨ (s.srv 0x88 j).getLsbD 63 = false ∨ s.members j = [] →
      s2 = (if (s.leads j).isSome then s1.takeQueue die h.q else s1) → w = s2.rdP (block s2 h.q) 8 →
      r = s2.finishEntry die h.q h.e h.st 0 ⟨s2.qTen h.q, s2.qAsid h.q, s2.qLoc h.q, s2.slotAddr h.q h.n⟩ →
      exec .schedDequeue s = .next (if r.2 then
        r.1.engPut (block r.1 h.q) 8 (w / 2 ^ 61 % 8 * 2 ^ 61 + w / 2 ^ 32 % 2 ^ 16 * 2 ^ 32 + (h.n + 1) % 2 ^ 32) else s)) ∧
    ((∀ h ∈ hs, h.st = 0) → s.leads j = none ∨ (s1.resident j).isSome = true → exec .schedDequeue s = .next s1) ∧
    (∀ t, (∀ h ∈ hs, h.st = 0) → s.leads j ≠ none → s1.resident j = none → (s1.part j).leaving = [] →
      (∀ l ∈ s1.launches, ¬ (l.part = j ∧ l.saved = true)) → Memory.wf s1.mem = true →
      (∀ h ∈ hs, Plain s1 (block s1 h.q) 128 ∧ BlockReads s1 h.q) →
      s1.owner j ((hs.filter fun h => h.due).map fun h => s1.qTen h.q) = some t → ∃ u h l, exec .schedDequeue s = .next u ∧
        h ∈ hs ∧ h.due = true ∧ s1.qTen h.q = t ∧ (∀ g ∈ hs, g.due = true → s1.qTen g.q = t → s1.qPrio g.q ≤ s1.qPrio h.q) ∧
        (∀ last, last = (s1.part j).lastQ.val (s1.qPrio h.q * 256 + t) 4095 → ∀ g ∈ hs, g.due = true → s1.qTen g.q = t →
          s1.qPrio g.q = s1.qPrio h.q → (h.q + 4095 - last) % 4096 ≤ (g.q + 4095 - last) % 4096) ∧
        u.launches = s1.launches ++ [l] ∧ l.q = h.q ∧ l.lhead = h.n ∧ l.part = j ∧ l.entry = h.e ∧ l.desc = h.desc ∧
        l.members = s1.members j ∧ l.where_ = s1.members j ∧ headOf u h.q = (h.n + 1) % 2 ^ 32 ∧
        (u.part j).lastQ.val (s1.qPrio h.q * 256 + t) 4095 = h.q ∧ (u.part j).owner = t) ∧
    (∀ l, (∀ h ∈ hs, h.st = 0 ∧ h.due = false) → s.leads j ≠ none → s1.resident j = none → l.tenant < 256 →
      (s1.launches.filter fun l => decide (l.part = j ∧ l.saved = true ∧ s1.srf 0x80 l.tenant 62 61 = 1)) = [l] →
      (∀ k < l.members.length, k ∈ l.ended ∨ s1.mayHold l (l.where_.getD k 0) = true) →
      ∃ u, exec .schedDequeue s = .next u ∧ LaunchIs s1 u l (fun x => { x with saved := false, late := false }) ∧
        u.saved = s1.saved ∧ (u.part j).owner = l.tenant)) ∧
  (∀ (s : State) (q j e a : Nat), j = s.param 0 → s.served = [q] → s.qLoc q = true → a = s.slotAddr q (headOf s q) →
    s.hostOk a 64 = true → e = s.rdN (hostLoc a) 64 → badEntry e = true → recField e 12 1 = j →
    s.leads j ≠ none ∨ (s.srv 0x88 j).getLsbD 63 = false ∨ s.members j = [] → Plain s (block s q) 8 → BlockReads s q →
    Memory.wf s.mem = true → ∃ t, exec .schedDequeue s = .next t ∧ t.rdN (hostLoc (a + 56)) 8 = 2 ∧ headOf t q = (headOf s q + 1) % 2 ^ 32) ∧
  (∀ (s : State) (l : Launch) (j d : Nat), j = s.param 0 → d = s.param 1 → s.resident j = some l →
    (l.acked.testBit d = true → exec .schedDealAccept s = .next s) ∧
    (l.dies.testBit d = true → l.acked.testBit d = false → d < 8 → Memory.wf s.mem = true →
      Plain s (block s l.q + 16) 8 → BlockReads s l.q → ∃ t, exec .schedDealAccept s = .next t ∧
      LaunchIs s t l (fun x => { x with acked := x.acked + 2 ^ d }) ∧
      (s.rdN (block s l.q + 16) 8 % 2 ^ 32 = l.lhead →
        StoredAt s t (block s l.q + 16) 8 (s.rdN (block s l.q + 16) 8 ||| 2 ^ (56 + d))))) ∧
  (∀ (s : State) (j : Nat), j = s.param 0 → j < 64 → (s.srv 0x88 j).getLsbD 63 = true → (s.part j).leader ≠ s.leaderDie j →
    (∃ t, exec .schedLeadershipMove s = .next t ∧ (t.part j).leader = s.leaderDie j ∧ t.launches = s.launches ∧
      ∀ l d, s.served = [] → (s.launches.filter fun l => decide (l.part = j)) = [l] → s.leaderDie j = some d →
        Memory.wf s.mem = true → Plain s (block s l.q) 8 → BlockReads s l.q → s.rdN (block s l.q) 8 / 2 ^ 61 ≠ d → headOf t l.q = headOf s l.q ∧ t.rdN (block s l.q) 8 / 2 ^ 61 = d ∧
          t.rdN (block s l.q) 8 / 2 ^ 32 % 65536 = (s.rdN (block s l.q) 8 / 2 ^ 32 % 65536 + 1) % 65536) ∧
    ∀ d, s.leaderDie j = some d ↔ d < 8 ∧ s.mayLead j d = true ∧ ∀ e < d, s.mayLead j e = false) ∧
  (∀ (s : State), exec .schedDrainWrite s = .next (s.setSr 0xA4 0 (BitVec.ofNat 64 (s.param 0 % 256)))) ∧
  (∀ (x : Share), x.count = x.g / x.l + (if x.k < x.g % x.l then 1 else 0) ∧
    x.first = x.k * (x.g / x.l) + min x.k (x.g % x.l)) ∧
  (∀ (s : State) (h : Nat), h = s.param 0 →
    (∀ l k, (s.core h).quiesce = false → (s.core h).share = none → s.toBegin h = some (l, k) → (s.core h).retain = none →
      s.leavingCore h = false → (s.core h).replay = [] → (∀ e ∈ l.early, e.k ≠ k) → ∃ t x, exec .shareDispatch s = .next t ∧ (t.core h).share = some x ∧ x.q = l.q ∧
        x.lhead = l.lhead ∧ x.k = k ∧ x.l = l.members.length ∧ x.tenant = l.tenant ∧ x.asid = l.asid ∧ x.g = recField l.entry 32 4 ∧
        x.arg = BitVec.ofNat 64 (recField l.entry 40 8) ∧ x.nr = recField l.desc 16 1 ∧ x.next = 0 ∧
        (∀ i < 3, (t.core h).dom.val (i + 1) 0 = domainWord (l.members.getD k h) (recField l.entry (36 + i) 1) l.base l.len) ∧
        x.phase = (if x.count = 0 then 2 else 1) ∧ (t.core h).nxm = (recField l.entry 13 1).testBit 1 ∧ (t.core h).threads = [] ∧
        t.mem = s.mem) ∧
    (∀ x k, (s.core h).quiesce = false → (s.core h).replay = [] → (s.core h).share = some x → x.phase = 1 → x.next < x.count →
      (∀ k < 4, (s.thr h k).role = .none) → k < 4 → (s.thr h k).st = .free → (∀ i < k, (s.thr h i).st ≠ .free) →
      ∃ t, exec .shareDispatch s = .next t ∧ RoutineStarts (t.thr h k) x s.schedTlim k (x.pcs.getD 0 0) (x.first + x.next) ∧
        (t.core h).share = some { x with next := x.next + 1 }) ∧
    (∀ x g n k, (s.core h).quiesce = false → (s.core h).replay = [] → (s.core h).share = some x → k < 4 → (s.thr h k).st = .free →
      (s.thr h k).role = .group g n → (∀ i < k, (s.thr h i).role = .none) → ∃ t, exec .shareDispatch s = .next t ∧
        RoutineStarts (t.thr h k) x s.schedTlim k (x.pcs.getD n 0) g ∧ (t.core h).share = some x) ∧
    (∀ x l ks, (s.core h).share = some x → s.launchOf x = some l → ks = (s.barMembers h x x.lvl).map Prod.fst → x.phase = 2 → x.k ∈ ks →
      (s.core h).quiesce = false → (∀ k ∈ ks, s.launchArrived l (s.scopeAt h x.lvl) k = true) → ∃ t, exec .launchBarrierComplete s = .next t ∧
        (x.move = 0 → (t.core h).share = some { x with phase := 4 }) ∧
        (x.move ≠ 0 → (t.core h).share = some { x with phase := 3 } ∧ RoutineStarts (t.thr h 0) x s.schedTlim 0 x.move x.count)) ∧
    (∀ x l ks, (s.core h).share = some x → s.launchOf x = some l → ks = (s.barMembers h x x.lvl).map Prod.fst →
      (∃ k ∈ ks, s.launchArrived l (s.scopeAt h x.lvl) k = false) → exec .launchBarrierComplete s = .next s) ∧
    (∀ x, (s.core h).share = some x → x.phase = 4 → s.coreDrained h = true → (s.core h).busySlots = [] →
      ((s.core h).haltK = none → ∃ t, exec .shareEnd s = .next t ∧ CoreEmptied t h ∧
        t.launches = s.launches.map fun l =>
          if l.q = x.q ∧ l.lhead = x.lhead then { l with ended := l.ended ++ [x.k], clk := max l.clk (s.core h).sclk } else l) ∧
      ((s.core h).quiesce = true ∨ s.srf 0x80 x.tenant 62 61 = 2 ∨ (∃ l, s.launchOf x = some l ∧ l.stopping ≠ 0) →
        ∃ t, exec .shareEnd s = .next t ∧ CoreEmptied t h ∧ (t.core h).retain = none) ∧
      (∀ i n, (s.core h).haltK = some (i, n) → i < s.srf 0x80 x.tenant 54 48 → (s.core h).quiesce = false →
        s.srf 0x80 x.tenant 62 61 ≠ 2 → (∀ l, s.launchOf x = some l → l.stopping = 0) → ∃ t r, exec .shareEnd s = .next t ∧
        (t.core h).share = none ∧ (t.core h).retain = some r ∧ r.tenant = x.tenant ∧ r.q = s.srf 0x80 x.tenant 47 36 + i ∧ r.entry = n ∧
        t.mem = s.mem ∧ t.fe = s.fe ∧ (t.core h).acc = (s.core h).acc)) ∧
    (∀ r, (s.core h).retain = some r → reached 48 (s.ns (dieOf h)) r.deadline = true → ∃ t, exec .retentionExpiry s = .next t ∧
      (t.core h).retain = none ∧ CoreEmptied t h) ∧
    ((s.core h).quiesce = false → (s.thr h (s.param 1)).st = .active → (s.thr h (s.param 1)).limit ≠ 0 →
      (∃ e ∈ (s.core h).dq, e.slot = s.param 1 ∧ e.orphan = false ∧ (fpDest e.i).isSome = true) → exec .watchdogExpiry s = .next s) ∧
    ((s.core h).quiesce = false → (s.thr h (s.param 1)).st = .active → (s.thr h (s.param 1)).limit ≠ 0 →
      (∀ e ∈ (s.core h).dq, e.slot = s.param 1 → e.orphan = true ∨ fpDest e.i = none) → ∃ t r, exec .watchdogExpiry s = .next t ∧
      (t.thr h (s.param 1)).st = .parked 5 ∧ (t.core h).frecs = (s.core h).frecs ++ [r] ∧ r.code = 5 ∧
      r.pc = (s.thr h (s.param 1)).pc ∧ r.slot = s.param 1)) ∧
  (∀ (s : State) (die q e st clk : Nat) (p : SlotAt) (t : State × Bool), t = s.finishEntry die q e st clk p → p.loc = true →
    s.hostOk (p.addr + 56) 8 = true → st < 2 ^ 64 → Memory.wf s.mem = true → t.2 = true ∧ StoredAt s t.1 (hostLoc (p.addr + 56)) 8 st ∧
      (∀ i, recField e 10 2 ≠ 0xFFFF → st ≠ 3 → s.fcOf p.ten (recField e 10 2) = some i → i < 65536 →
        t.1.srv 0xA8 i = s.srv 0xA8 i + BitVec.ofNat 64 (recField e 24 8)) ∧
      (recField e 10 2 = 0xFFFF ∨ st = 3 → t.1.sr = s.sr) ∧
      t.1.out = if (recField e 13 1).testBit 0 = true ∧ recField e 14 1 ≤ 63 then s.out ++ [.msix p.ten (recField e 14 1)] else s.out) ∧
  (∀ (s : State) (j : Nat) (l : Launch), j = s.param 0 → s.resident j = some l →
    (∀ die st r, s.leads j = some die → (l.stopping ≤ 1 ∧ l.ended.length = l.members.length ∧ st = 1) ∨
        (s.noShares l = true ∧ ((l.stopping = 2 ∧ st = 6) ∨ (l.stopping = 4 ∧ st = 7))) →
      r = s.finishEntry die l.q l.entry st l.clk ⟨l.tenant, l.asid, l.loc, l.slot⟩ →
      (∃ t, exec .launchComplete s = .next t ∧
        t.launches = (if r.2 then r.1.launches.filter fun x => !Same l x else s.launches) ∧
        (r.2 = true → ∀ v ∈ t.saved, ¬ (v.q = l.q ∧ v.lhead = l.lhead))) ∧
      (l.loc = true → s.hostOk (l.slot + 56) 8 = true → Memory.wf s.mem = true → ∃ t, exec .launchComplete s = .next t ∧
        t.rdN (hostLoc (l.slot + 56)) 8 = st ∧ t.launches = s.launches.filter fun x => !Same l x)) ∧
    (∀ die, s.leads j = some die → l.stopping = 1 → l.ended.length ≠ l.members.length → s.noShares l = true →
      ∃ t, exec .launchComplete s = .next t ∧ t = { s with launches := t.launches } ∧
        LaunchIs s t l fun x => { x with saved := true, stopping := 0 }) ∧
    (2 < l.stopping → exec .schedEnd s = .next s) ∧
    (l.stopping ≤ 2 → ∃ t, exec .schedEnd s = .next t ∧ LaunchIs s t l (fun x => { x with stopping := 2 }) ∧
      ∀ h x, (t.core h).share = some x → x.q = l.q → x.lhead = l.lhead → (t.core h).quiesce = true) ∧
    (∀ d die s1 hs work, (s.part j).sliceEnd = some d → reached 48 (s.ns 8) d = true → s.leads j = some die → l.stopping = 0 →
      s1 = (s.heads die j).1 → hs = (s.heads die j).2 → work = ((hs.filter fun h => h.due && decide (h.st = 0)).map fun h => s1.qTen h.q) ++
        ((s1.launches.filter fun l => decide (l.part = j) && l.saved).map fun l => l.tenant) →
      ((∀ t ∈ work, t = (s.part j).owner) → ∃ u, exec .sliceEnd s = .next u ∧ u.launches = s1.launches ∧
        (u.part j).sliceEnd = some (s.ns 8 + s.sliceNs (s.part j).owner)) ∧
      ((∃ t ∈ work, t ≠ (s.part j).owner ∧ t < 256) → ∃ u, exec .sliceEnd s = .next u ∧
        LaunchIs s1 u l (fun x => { x with stopping := 1 }) ∧ (u.part j).owner ∈ work ∧ (u.part j).owner ≠ (s.part j).owner))) ∧
  (∀ (s : State) (h : Nat) (x : Share), h = s.param 0 → (s.core h).quiesce = true ∨ s.poolHalts h = true → s.quiet h = true → (s.core h).share = some x →
    (s.quiesceReason h x = 1 → ∀ s1 pages, s1 = (s.savePages x.tenant x.part x.k true 8).1 →
      (s.savePages x.tenant x.part x.k true 8).2 = some pages → (∀ p ∈ pages, s1.moving p.loc = false) → (s1.core h).share = some x →
      ∃ t v, exec .quiesceComplete s = .next t ∧ t.saved = s1.saved ++ [v] ∧ v.q = x.q ∧ v.lhead = x.lhead ∧ v.k = x.k ∧
        v.core.share = some x ∧ v.displaced = false ∧ v.host = h ∧ (t.core h).share = none ∧ ∀ a ∈ t.accs, a.h ≠ h) ∧
    (s.quiesceReason h x = 1 → (s.savePages x.tenant x.part x.k true 8).2 = none → ∃ t, exec .quiesceComplete s = .next t ∧
      ∀ l ∈ t.launches, l.q = x.q → l.lhead = x.lhead → l.stopping = 4) ∧
    (2 ≤ s.quiesceReason h x → s.quiesceReason h x ≤ 4 → ∃ t, exec .quiesceComplete s = .next t ∧ CoreEmptied t h ∧
      (t.core h).slogDrop = ((s.core h).slogDrop + (s.core h).slogCount) % 2 ^ 32 ∧
      (∀ a ∈ t.accs, a.h ≠ h) ∧ t.launches = s.launches)) ∧
  (∀ (s : State) (h : Nat) (v : Saved), h = s.param 0 → (s.core h).share = none → (s.core h).quiesce = false → s.leavingCore h = false →
    s.toRestore h = some v →
    (∀ s1, s1 = (s.savePages v.tenant v.part v.k false 8).1 → (s.savePages v.tenant v.part v.k false 8).2 = none → exec .shareRestore s = .next (s1.saveFail v.q v.lhead)) ∧
    (∀ s1 s2 pages x, s1 = (s.savePages v.tenant v.part v.k false 8).1 → (s.savePages v.tenant v.part v.k false 8).2 = some pages →
      (∀ p ∈ pages, s1.moving p.loc = false) → s2 = pages.foldl State.readPage s1 → (∀ p ∈ pages, s2.pagePoison p = false) →
      ∀ rd, rd = (pages.foldl State.recOpen s2).recRead pages → headerOk v (rd 0 0x100) = true →
      v.core.share = some x → ∃ t y, exec .shareRestore s = .next t ∧ (t.core h).share = some y ∧ y.q = x.q ∧ y.lhead = x.lhead ∧
        y.k = rd 12 2 ∧ y.phase = rd 14 1 ∧ y.next = rd 16 4 ∧ y.done = rd 20 4 ∧ (t.core h).lastK = v.k ∧
        ∀ w ∈ t.saved, ¬ (w.q = v.q ∧ w.lhead = v.lhead ∧ w.k = v.k))) ∧
  (∀ (s : State) (h : Nat), h = s.param 0 → (s.core h).quiesce = false → (s.core h).share ≠ none → (s.core h).replay = [] →
    (∃ p ∈ (s.core h).threads, p.2.saved = true) → ∃ t, exec .shareRestore s = .next t ∧ t.mem = s.mem ∧
      ∀ k < 4, (t.thr h k).saved = false) ∧
  ∀ (s : State) (h : Nat) (x : Share) (l : Launch), h = s.param 0 → (s.core h).share = some x → s.launchOf x = some l →
    (s.core h).quiesce = false → s.unbegun h l ≠ none ∨ (∃ v ∈ s.saved, v.host = h ∧ v.q = x.q ∧ v.lhead = x.lhead) → (s.core h).liveSlots = [] ∨ x.phase = 2 ∨ reached 48 (s.ns (dieOf h)) (x.started + 100000) = true →
    exec .displacedShareSwitch s = .next (s.onCoreAt h fun c => { c with quiesce := true })

/-! ### Chapters 6 to 8, 14 and 15: accesses, results, side logs, messages, copies and barriers on their way -/

namespace Sys2Proof.Claims

open Machine

/-- An access at its home in its turn, with a good CRC, in a frame in the clear that no watch concerns, at a granule without
poison; no release of its thread has issued since. -/
def PlainAtHome (s : State) (a : Acc) : Prop :=
  s.acc? a.id = some a ∧ s.homeTurn a = true ∧ isHbm a.loc = true ∧ (s.frame (a.loc / 65536)).prot = false ∧
    a.loc % 65536 + a.size ≤ 65536 ∧ s.poison.contains (a.loc / 256) = false ∧ s.watchedAt a.loc = false ∧ a.rel = false ∧
    Calm s ∧ Memory.wf s.mem = true ∧ ∀ b ∈ s.accs, b.h = a.h → b.slot = a.slot → a.id < b.id → b.rel = false

/-- The access in flight is performed with a value, or has left. -/
def PerformedAs (s t : State) (a : Acc) (v : Nat) : Prop :=
  t.accs = s.accs.map fun b => if b.id = a.id then { b with st := .performed v } else b
def Left (s t : State) (a : Acc) : Prop := t.accs = s.accs.filter fun b => decide (b.id ≠ a.id)

/-- A copy as it walks: one target, its own core, from its first row. -/
def PlainCopy (s : State) (h : Nat) (c : Copy) : Prop :=
  (s.core h).copies.find? (fun x => decide (x.tag = s.param 1)) = some c ∧ s.copyReady h c = true ∧ c.mcn = 0

/-- The abutment of core `h` holds a translation that grants both rights, under which a virtual address lies at `pa`, in the
clear and not watched. -/
def SeenAt (s : State) (h asid ten va pa : Nat) : Prop :=
  spaceOf va = .global ∧ Clear s pa ∧ pa % 64 = va % 64 ∧ s.watchedAt pa = false ∧
    ∃ x, s.xls.find? (fun e => e.covers (abutOf h) asid ten va) = some x ∧ x.at va = pa ∧ x.rd = true ∧ x.w = true

/-- A word of a copy of core `h` lies at `loc`, in the core's own local store or in device memory. -/
def WordAt (s : State) (h : Nat) (c : Copy) (va loc : Nat) : Prop :=
  (∃ off, spaceOf va = .ls off ∧ loc = lsLoc h off) ∨ (va % 4 = 0 ∧ SeenAt s h c.asid c.tenant va loc)

end Sys2Proof.Claims

open Sys2Proof Sys2Proof.Machine Sys2Proof.Claims in
/-- R40, R137, R148, R179, R183, R192, R306 to R309, R312: an access in its turn at its home is performed there: a load
takes the bytes, a store leaves them, an atomic leaves what its operation gives and returns what it found, LDF waits for
full words; a request out of turn stays. R148, R150, R206: a result fills its pending entry, with its acquire. R173 to
R175: the side log's entries are retried, discarded and placed. R320, R326: a message is accepted while its channel has
room; a copy ends with its tag, waits or is abandoned. R30, R44, R45: a remote access leaves with its node, address, tenant
and data where a port routes it, and the answer to a load is its next turn. R315: a barrier completes when every member has
arrived. The model's own choices here: that a request for full words that waits at its home counts as arrived there (log 12),
that a request and its answer are the two turns of a remote load, and one of a store (log 25), DISCARD's records for held copies
(log 83), and that a barrier leaves a core the larger of its clock and the arrivals' (log 27). -/
def Obligations.AccessEvents : Prop :=
  (∀ (s : State) (a : Acc), a.id = s.param 0 → s.param 1 = 0 → s.param 2 ≠ 1 → PlainAtHome s a →
    (a.kind = .load → a.ent ≠ 0 → ∃ t, exec .pierAccess s = .next t ∧ PerformedAs s t a (s.rdN a.loc a.size) ∧ t.mem = s.mem ∧
      (a.acq = false → t.cores = s.cores) ∧
      (a.acq = true → (t.core a.h).sclk = max (s.core a.h).sclk (s.relClk.val (s.pierOf a.loc * 256 + a.tenant) 0))) ∧
    (a.kind = .store → a.ent = 0 → ∃ t, exec .pierAccess s = .next t ∧ Left s t a ∧
      StoredAt s t a.loc a.size (a.data % 256 ^ a.size) ∧ (a.acq = false → t.cores = s.cores)) ∧
    (∀ op old x n, a.kind = .amo op true → a.ent ≠ 0 → op ≤ 10 → (a.size = 4 ∨ a.size = 8 ∧ op ≠ 10 ∨ a.size = 2 ∧ op = 10) →
      old = s.rdN a.loc a.size → x = a.data % 256 ^ a.size → n = a.data2 % 256 ^ a.size → ∃ t, exec .pierAccess s = .next t ∧
        PerformedAs s t a old ∧ StoredAt s t a.loc a.size (newContents a.kind a.size old x n) ∧
        (a.acq = false → t.cores = s.cores)) ∧
    (a.kind = .ldf ∨ a.kind = .ldfE → a.ent ≠ 0 → s.allFull a.loc a.size = true → ∃ t, exec .pierAccess s = .next t ∧
      PerformedAs s t a (s.rdN a.loc a.size) ∧ t.mem = s.mem ∧ (a.kind = .ldf → t.fe = s.fe) ∧
      (a.kind = .ldfE → 0 < a.size → t.allFull a.loc a.size = false)) ∧
    (a.kind = .ldf ∨ a.kind = .ldfE → a.ent ≠ 0 → s.allFull a.loc a.size = false →
      (s.accs.filter fun b => decide (b.st = .waiting ∧ s.homeOf b.loc = s.homeOf a.loc)).length < 2048 →
      ∃ t, exec .pierAccess s = .next t ∧ t.mem = s.mem ∧
        t.accs = (s.accs.filter fun b => decide (b.id ≠ a.id)) ++ [{ a with st := .waiting }])) ∧
  (∀ (s : State) (a : Acc), s.acc? (s.param 0) = some a → s.homeTurn a = false → exec .pierAccess s = .next s) ∧
  (∀ (s : State) (a : Acc), s.acc? (s.param 0) = some a → s.homeTurn a = true → isRemote a.loc = true →
    a.kind.returns = false → a.ent = 0 → a.gone = false → ∃ t, exec .pierAccess s = .next t ∧ Left s t a ∧ t.mem = s.mem ∧
      (s.routed = false ∨ s.param 1 = 1 → t.srf 0x54 0 31 0 = min (s.srf 0x54 0 31 0 + 1) 0xFFFFFFFF) ∧
      (s.routed = true → t.out.getLast? = some (.request a.node a.rpa a.tenant a.kind a.size a.data)) ∧
      (s.routed = true → s.param 1 ≠ 1 → t.sr = s.sr)) ∧
  (∀ (s : State) (a : Acc), s.acc? (s.param 0) = some a → s.homeTurn a = true → isRemote a.loc = true → a.kind.returns = true →
    a.ent ≠ 0 →
    (a.gone = false → s.routed = true → ∃ t, exec .pierAccess s = .next t ∧ t.mem = s.mem ∧ t.cores = s.cores ∧
      t.accs = (s.accs.map fun b => if b.id = a.id then { b with gone := true } else b) ∧
      t.out.getLast? = some (.request a.node a.rpa a.tenant a.kind a.size a.data)) ∧
    (a.gone = false → s.routed = false → ∃ t, exec .pierAccess s = .next t ∧ Left s t a ∧ t.mem = s.mem ∧
      t.cores = (s.onThr a.h a.slot fun th => th.arriveFault a.ent (.kernel 4 a.va) a).cores) ∧
    (a.gone = true → s.param 1 ≠ 1 → ∃ t v, exec .pierAccess s = .next t ∧ PerformedAs s t a v ∧ v < 256 ^ a.size ∧
      t.mem = s.mem ∧ t.cores = s.cores) ∧
    (a.gone = true → s.param 1 = 1 → ∃ t, exec .pierAccess s = .next t ∧ Left s t a ∧ t.mem = s.mem ∧
      t.cores = (s.onThr a.h a.slot fun th => th.arriveFault a.ent (.kernel 2 a.va) a).cores)) ∧
  (∀ (s : State) (a : Acc) (p : Nat), s.acc? (s.param 0) = some a → s.homeTurn a = true → isHbm a.loc = true →
    s.param 2 ≠ 1 → a.kind = .load → p = s.pierOf a.loc → s.watchedAt a.loc = false → s.bitErr = [] →
    (s.param 1 = 1 → s.noSym.contains (a.loc / 256) = false → ∃ t, exec .pierAccess s = .next t ∧
      t.srf 0xD0 p 15 0 = min (s.srf 0xD0 p 15 0 + 1) 65535 ∧ t.poison = s.poison) ∧
    (2 ≤ s.param 1 → ∃ t, exec .pierAccess s = .next t ∧ t.srf 0xD0 p 31 16 = min (s.srf 0xD0 p 31 16 + 1) 65535 ∧
      t.poison.contains (a.loc / 256) = true)) ∧
  (∀ (s : State) (h k : Nat) (e : Pend) (i : Nat), h = s.param 0 → k = s.param 1 → i = s.param 2 → (s.thr h k).trap.act = false →
    (s.thr h k).pend[i]? = some e →
    (∀ a v, (s.accs.find? fun a => decide (a.ent = e.id) && (match a.st with | .performed _ => true | _ => false)) = some a →
      a.st = .performed v → a.h = h → a.slot = k → ∃ t y, exec .longLatencyResult s = .next t ∧ Left s t a ∧
        (t.thr h k).pend[i]? = some y ∧ y = { e with value := y.value, missing := e.missing - 1 } ∧
        (e.value = 0 → a.lane = 0 → y.value = v % 2 ^ (8 * a.size)) ∧ (∀ p, (t.thr h k).rdPhys p = (s.thr h k).rdPhys p) ∧
        (t.core h).sclk = (s.core h).sclk) ∧
    (∀ r, (∀ a ∈ s.accs, a.ent ≠ e.id) → ((s.quad (h / 4)).sfq.find? fun r => decide (r.ent = e.id)) = some r → e.value = 0 →
      ∃ t y, exec .longLatencyResult s = .next t ∧ (t.thr h k).pend[i]? = some y ∧ y.missing = e.missing - 1 ∧
        y.value = r.value % 2 ^ 2048 ∧ ∀ x ∈ (t.quad (h / 4)).sfq, x.ent ≠ e.id)) ∧
  (∀ (s : State) (a : Acc) (pa : Nat), s.acc? (s.param 0) = some a → a.st = .held → a.kind = .ldf ∨ a.kind = .ldfE →
    (s.moving a.loc = true → exec .ldfResend s = .next s) ∧
    (s.moving a.loc = false → SeenAt s a.h a.asid a.tenant a.va pa → ∃ t b, exec .ldfResend s = .next t ∧
      t.accs = (s.accs.filter fun b => decide (b.id ≠ a.id)) ++ [b] ∧ b.id = a.id ∧ b.loc = pa ∧ b.st = .issued ∧ b.kind = a.kind ∧
      b.va = a.va ∧ b.ent = a.ent ∧ t.mem = s.mem ∧ t.cores = s.cores)) ∧
  (∀ (s : State) (h : Nat), h = s.param 0 → ∀ i, i = Instr.sideLogRetry ∨ i = Instr.slogRetry →
    ((s.core h).slog = [] → ∃ t, exec i s = .next t ∧ t = { s with cores := t.cores } ∧ (t.core h).slog = [] ∧
      ∀ d ∈ (t.core h).dq, d.started = false) ∧
    (∀ e rest a pa, (s.core h).slog = e :: rest → e.accs = [a] → SeenAt s h e.asid e.tenant a.va pa → pa % 64 + a.size ≤ 64 →
      a.kind = .store → s.accs = [] → s.bitErr = [] → (∀ p ∈ (s.thr a.h a.slot).pend ++ (s.thr a.h a.slot).trap.pend, p.fault = none) →
      Memory.wf s.mem = true → ∃ t, exec i s = .next t ∧
        (t.core h).slog = rest ∧ StoredAt s t pa a.size (a.data % 256 ^ a.size)) ∧
    (∀ e rest a as s1 c, (s.core h).slog = e :: rest → e.accs = a :: as → spaceOf a.va = .global →
      s.translate h e.asid e.tenant a.va a.kind.need = (s1, .error c) → s1.cores = s.cores → ∃ t, exec i s = .next t ∧
        (t.core h).slog = (s.core h).slog ∧ t.mem = s1.mem)) ∧
  (∀ (s : State) (h : Nat), h = s.param 0 →
    (∃ t, exec .slogDiscard s = .next t ∧ t.mem = s.mem ∧ t.accs = s.accs ∧ (t.core h).slog = [] ∧ (t.core h).slogHeld = [] ∧
      (t.core h).slogDrop = ((s.core h).slogDrop + (s.core h).slogCount) % 2 ^ 32 ∧
      (∀ c ∈ (t.core h).copies, c.held = false) ∧ (t.core h).threads = (s.core h).threads ∧
      (t.core h).frecs = (s.core h).frecs ++ ((s.core h).copies.filter fun c => c.held).map fun c =>
        { pc := c.pc, addr := c.haddr, code := fPAGE, asid := c.asid, tenant := c.tenant, slot := c.slot }) ∧
    (∀ a rest, (s.core h).slogHeld = a :: rest → (s.core h).slog.length < 32 → ∃ t e, exec .heldStoreEnter s = .next t ∧
      (t.core h).slogHeld = rest ∧ (t.core h).slog = (s.core h).slog ++ [e] ∧ e.accs = [a] ∧ e.line = a.va / 64 ∧ e.slot = a.slot)) ∧
  (∀ (s : State) (h k c : Nat) (m : Msg) (rest : List Msg), h = s.param 0 → k = s.param 1 → c = s.param 2 →
    (s.thr h k).offers.val c [] = m :: rest →
    ((s.thr h k).chans.val c []).length < 4 → (∀ e ∈ (s.thr h k).pend ++ (s.thr h k).trap.pend, e.chan = some c → e.missing = 0) →
    ∃ t, exec .messageAccept s = .next t ∧ (t.thr h k).chans.val c [] = (s.thr h k).chans.val c [] ++ [m] ∧
      (t.thr h k).offers.val c [] = rest ∧ t.mem = s.mem) ∧
  (∀ (s : State) (h : Nat) (c : Copy), h = s.param 0 → PlainCopy s h c →
    (∀ s1 r, s.copyRows h h c c.row (c.rows - c.row) = (.ok s1, r) → ∃ t, exec .copyComplete s = .next t ∧
      t = { s1 with cores := t.cores } ∧ (∀ x ∈ (t.core h).copies, x.id ≠ c.id) ∧
      (t.core h).ctag = (s1.core h).ctag ||| BitVec.ofNat 64 (2 ^ c.tag) ∧
      (c.err = false → (t.core h).ctagErr = (s1.core h).ctagErr)) ∧
    (∀ s1 code va r, s.copyRows h h c c.row (c.rows - c.row) = (.quit s1 code va, r) → ∃ t f, exec .copyComplete s = .next t ∧
      (t.core h).ctag = (s1.core h).ctag ||| BitVec.ofNat 64 (2 ^ c.tag) ∧
      (t.core h).ctagErr = (s1.core h).ctagErr ||| BitVec.ofNat 64 (2 ^ c.tag) ∧ (t.core h).frecs = (s1.core h).frecs ++ [f] ∧
      f.code = code ∧ f.addr = va) ∧
    (c.row = 0 → c.rows = 1 → c.rbytes = 4 → Memory.wf s.mem = true → Calm s → ∀ so d, WordAt s h c c.src so → WordAt s h c c.dst d →
      ∃ t, exec .copyComplete s = .next t ∧ StoredAt s t d 4 (s.rdN so 4) ∧ (∀ x ∈ (t.core h).copies, x.id ≠ c.id) ∧
        (t.core h).ctag = (s.core h).ctag ||| BitVec.ofNat 64 (2 ^ c.tag))) ∧
  ∀ (s : State) (h lv : Nat) (sh : Share) (arr : List Arrival), h = s.param 0 → lv = s.param 1 → (s.core h).share = some sh →
    arr = ((s.barMembers h sh lv).filter fun m => (s.core m.2).holds sh m.1).flatMap (fun m => (s.core m.2).arrivalsAt lv) →
    ((∃ m ∈ s.barMembers h sh lv, s.coreArrived sh lv m = false) → exec .barrierComplete s = .next s) ∧
    (arr ≠ [] → (∀ m ∈ s.barMembers h sh lv, s.coreArrived sh lv m = true) → (∀ a ∈ arr, a.gen = false) → lv < 3 →
      (∃ m ∈ s.barMembers h sh lv, m = (sh.k, h)) → ∃ t, exec .barrierComplete s = .next t ∧
        t = { s with cores := t.cores, saved := t.saved } ∧
        (t.core h).sclk = max (s.core h).sclk (arr.foldl (fun m a => max m a.clk) 0) ∧
        (∀ k ∈ (s.core h).liveSlots, (t.thr h k).arrivedAt lv = false) ∧ (t.core h).dom = (s.core h).dom)

/-! ### Chapters 6, 7 and 20: gangs, fault rings, system cores and the memory side -/

namespace Sys2Proof.Claims

open Machine

/-- A bit of the slab map may change: every frame of its slab is FREE and owned by ACCEL (R176). -/
def SlabFree (s : State) (k : Nat) : Prop :=
  k < 60 ∧ ∀ p ∈ s.frames, p.1 / 131072 = k → p.2.state = 0 ∧ p.2.owner = 1

/-- Bytes, bases and frames of the migration that `MIG.SRC` and `MIG.DST` name (R181). -/
def migLen (size : Nat) : Nat := if size = 0 then 2 ^ 16 else if size = 1 then 2 ^ 21 else 2 ^ 30
def migSrc (s : State) : Nat := 65536 * s.srf 0xC8 0 47 16
def migDst (s : State) : Nat := 65536 * s.srf 0xC9 0 47 16

/-- The outcome of the checks of a start (R181): 1 a bad range, 2 a source frame, 3 a destination frame, 0 none. -/
def MigChecks (s : State) (size c : Nat) : Prop :=
  let n := migLen size
  let src := migSrc s
  let dst := migDst s
  let range := size ≤ 2 ∧ src % n = 0 ∧ dst % n = 0 ∧ src ≠ dst ∧ src + n ≤ 2 ^ 39 ∧ dst + n ≤ 2 ^ 39
  let from_ := ∀ i < n / 65536, (s.frame (src / 65536 + i)).state = 1 ∧ (s.frame (src / 65536 + i)).owner = 1 ∧
    (s.frame (src / 65536 + i)).tenant = (s.frame (src / 65536)).tenant
  let into := ∀ i < n / 65536, (s.frame (dst / 65536 + i)).state = 0 ∧ (s.frame (dst / 65536 + i)).owner = 1
  (¬ range → c = 1) ∧ (range → ¬ from_ → c = 2) ∧ (range → from_ → ¬ into → c = 3) ∧ (range → from_ → into → c = 0)

end Sys2Proof.Claims

open Sys2Proof Sys2Proof.Machine Sys2Proof.Claims in
/-- R141, R157 to R159, R399: a gang forms when every live core of its interval waits; a fault record reaches its ring;
`SVC.CORE` is written before the first partition; interrupts are raised, delivered and end a WAIT; system threads start.
R176, R180 to R187, R209: the slab map, hotness counts, migration step by step, row repair, the rebuild of the record and
the sweep of a race generation. The model's own choices here: that the keystone's slabs 60 to 63 never change, where it places
them (log 4), that a request for full words that waits in the range goes back to its abutment at the drain (log 82), that the
source frames' SEQ rises at a COMMIT too (log 46), that HRACT below 256 counts as 256 but for 0 (log 36), and that a row is
named by its granules (log 64). -/
def Obligations.CoreAndMemoryEvents : Prop :=
  (∀ (s : State) (h k n : Nat) (ms : List Nat), h = s.param 0 → (s.core h).gangWait = some (k, n) →
    ms = (List.range n).filterMap (fun i => if s.live (n * (h / n) + i) = true then some (n * (h / n) + i) else none) →
    ((∃ m ∈ ms, ∀ j, (s.core m).gangWait ≠ some (j, n)) → exec .gangForm s = .next s) ∧
    ((∀ m ∈ ms, ∃ j, (s.core m).gangWait = some (j, n)) → ∃ t, exec .gangForm s = .next t ∧ t = { s with cores := t.cores } ∧
      ∀ m ∈ ms, ∃ j g, (s.core m).gangWait = some (j, n) ∧ (t.core m).gang = some g ∧ g.leader = ms.headD h ∧ g.size = n ∧ g.slot = j ∧
        (t.core m).lastSlot = j ∧ (t.thr m j).inGang = true ∧ (t.thr m j).wait = .none)) ∧
  (∀ (s : State) (h : Nat) (r : FRec) (rest : List FRec) (i lg base rpi : Nat), h = s.param 0 → (s.core h).frecs = r :: rest →
    i = s.faultRing r.asid → lg = s.srf 0xB2 i 3 0 → base = 65536 * s.srf 0xB1 i 47 16 → rpi = (s.srv 0xB3 i).toNat →
    (lg < 4 ∨ 12 < lg ∨ base = 0 ∨ 2 ^ lg ≤ rpi - (s.srv 0xB4 i).toNat → exec .faultRecordDeliver s = .next s) ∧
    (4 ≤ lg → lg ≤ 12 → base ≠ 0 → rpi - (s.srv 0xB4 i).toNat < 2 ^ lg → Memory.wf s.mem = true →
      Plain s (base + 64 * (rpi % 2 ^ lg)) 64 →
      ∃ t x, exec .faultRecordDeliver s = .next t ∧ StoredAt s t (base + 64 * (rpi % 2 ^ lg)) 64 x ∧ recField x 0 8 = r.pc.toNat ∧
        recField x 8 8 = r.addr % 2 ^ 64 ∧ recField x 16 2 = r.code % 65536 ∧ recField x 18 2 = r.asid % 65536 ∧
        recField x 21 1 = r.slot % 256 ∧ recField x 22 2 = h % 65536 ∧ recField x 40 8 = (rpi + 1) % 2 ^ 64 ∧
        t.srv 0xB3 i = BitVec.ofNat 64 (rpi + 1) ∧ (t.core h).frecs = rest ∧ (t.core (s.svcCore i)).ipend.testBit 0 = true)) ∧
  (∀ (s : State) (i : Nat) (v : Word), i = s.param 0 → v = BitVec.ofNat 64 (s.param 1) → 8 ≤ i → i < 32 →
    (s.partSeen = true → exec .svcCoreWrite s = .next s) ∧
    (s.partSeen = false → v.getLsbD 63 = true → s.live (wbits v 12 0) = true → s.isSys (wbits v 12 0) = false →
      (∀ j, 8 ≤ j → j < 32 → (s.srv 0xB0 j).getLsbD 63 = true → dieOf (s.srf 0xB0 j 12 0) ≠ dieOf (wbits v 12 0)) →
      ∃ t, exec .svcCoreWrite s = .next t ∧ t = { s with sr := t.sr } ∧ t.svcCore i = wbits v 12 0 ∧ (t.srv 0xB0 i).getLsbD 63 = true) ∧
    (s.partSeen = false → v.getLsbD 63 = true → s.live (wbits v 12 0) = false ∨ s.isSys (wbits v 12 0) = true →
      exec .svcCoreWrite s = .next s)) ∧
  (∀ (s : State) (i : Nat) (v : Word), i = s.param 0 → v = BitVec.ofNat 64 (s.param 1) → (s.srv 0xB0 i).getLsbD 63 = true →
    (∃ t, exec .sysIpiWrite s = .next t ∧ (t.core (s.svcCore i)).ipend = (s.core (s.svcCore i)).ipend ||| 32 ∧
      t = { s with cores := t.cores } ∧ ∀ h, h ≠ s.svcCore i → t.core h = s.core h) ∧
    ((s.thr (s.svcCore i) 0).st = .free → ∃ t, exec .sysStartWrite s = .next t ∧ (t.thr (s.svcCore i) 0).st = .active ∧
      (t.thr (s.svcCore i) 0).pc = canon (4 * wbits v 56 2) ∧ (t.thr (s.svcCore i) 0).readG 1 = BitVec.ofNat 64 i ∧
      (t.thr (s.svcCore i) 0).asid = s.cur.asid) ∧
    ((s.thr (s.svcCore i) 0).st ≠ .free → exec .sysStartWrite s = .next s)) ∧
  (∀ (s : State), s.bootDue = true → s.scrubHeld = false → s.srv 0xE1 0 ≠ 0 → (s.thr (s.svcCore 0) 0).st = .free →
    ∃ t, exec .bootThreadStart s = .next t ∧ t.bootDue = false ∧ (t.thr (s.svcCore 0) 0).st = .active ∧
      (t.thr (s.svcCore 0) 0).pc = canon (4 * wbits (s.srv 0xE1 0) 56 2) ∧ (t.thr (s.svcCore 0) 0).readG 1 = 0 ∧
      (t.thr (s.svcCore 0) 0).readG 2 = 1) ∧
  (∀ (s : State) (h k : Nat), h = s.param 0 → k = (s.core h).ictlSlot → s.isSys h = true → (s.core h).ictlEn = true →
    (s.core h).ipend &&& (s.core h).imask ≠ 0 → (s.thr h k).st = .active → (s.thr h k).trap.act = false →
    wbits (s.thr h k).utvec 56 2 ≠ 0 → (s.core h).gang = none → ∃ t, exec .interruptDelivery s = .next t ∧
      t.thr h k = { s.thr h k with
        trap := { act := true, cause := 13, pc := (s.thr h k).pc, lpc := 0, rep := (s.thr h k).rep, pend := (s.thr h k).pend
                  info := BitVec.ofNat 64 ((s.core h).ipend &&& (s.core h).imask), ent := 0, mark := s.nextId }
        supp := false, rep := 0, pend := [], wait := .none, fetched := []
        pc := canon (4 * wbits (s.thr h k).utvec 56 2) + 208 } ∧ (t.core h).ipend = (s.core h).ipend) ∧
  (∀ (s : State) (h k t0 d : Nat) (ct x : Word), h = s.param 0 → k = s.param 1 → (s.thr h k).wait = .waitSince t0 ct d x false → x ≠ 0 →
    (x.toNat * 65536 ≤ (s.dt (dieOf h) + 2 ^ 64 - t0) % 2 ^ 64 → exec .waitTimeout s = .next (s.onThr h k fun th =>
      { th with wait := .waitSince t0 ct d x true })) ∧
    ((s.dt (dieOf h) + 2 ^ 64 - t0) % 2 ^ 64 < x.toNat * 65536 → exec .waitTimeout s = .next s)) ∧
  (∀ (s : State) (v : Word) (k : Nat), v = BitVec.ofNat 64 (s.param 0) → k < 64 → ∃ t, exec .placeMapWrite s = .next t ∧
    t = { s with sr := t.sr } ∧
    (v.getLsbD k = (s.srv 0xC0 0).getLsbD k → (t.srv 0xC0 0).getLsbD k = v.getLsbD k ∧
      (t.srv 0xC1 0).getLsbD k = (s.srv 0xC1 0).getLsbD k) ∧
    (v.getLsbD k ≠ (s.srv 0xC0 0).getLsbD k → SlabFree s k → (t.srv 0xC0 0).getLsbD k = v.getLsbD k ∧
      (t.srv 0xC1 0).getLsbD k = (s.srv 0xC1 0).getLsbD k) ∧
    (v.getLsbD k ≠ (s.srv 0xC0 0).getLsbD k → ¬ SlabFree s k → (t.srv 0xC0 0).getLsbD k = (s.srv 0xC0 0).getLsbD k ∧
      (t.srv 0xC1 0).getLsbD k = true)) ∧
  (∀ (s : State) (v : Nat), v = s.param 0 → ∃ t, exec .hotClr s = .next t ∧ t = { s with hot := t.hot } ∧
    (v = 0xFFFFFFFF → t.hot = []) ∧ (v ≠ 0xFFFFFFFF → ∀ q < 4, ∀ r, t.hot.val (4 * r + q) 0 = if r = v then 0 else s.hot.val (4 * r + q) 0)) ∧
  (∀ (s : State) (size : Nat), size = s.param 0 →
    (s.srf 0xCB 0 63 62 ≠ 0 → ∃ t, exec .migStart s = .next t ∧ t.srf 0xCB 0 7 0 = 4 ∧ t = { s with sr := t.sr }) ∧
    (s.srf 0xCB 0 63 62 = 0 → ∃ t c, exec .migStart s = .next t ∧ MigChecks s size c ∧ t.srf 0xCB 0 7 0 = c ∧
      (c ≠ 0 → t.srf 0xCB 0 63 62 = 0 ∧ t.frames = s.frames ∧ t.mig = s.mig) ∧
      (c = 0 → t.srf 0xCB 0 63 62 = 1 ∧ (∃ m, t.mig = some m ∧ m.src = migSrc s ∧ m.dst = migDst s ∧ m.len = migLen size ∧
          m.moving = true ∧ m.drained = false) ∧
        ∀ i < migLen size / 65536, t.frame (migDst s / 65536 + i) =
          { s.frame (migDst s / 65536 + i) with state := 5, seq := seqAfter (s.frame (migDst s / 65536 + i)).seq }))) ∧
  (∀ (s : State) (m : Mig), s.mig = some m →
    (s.srf 0xCB 0 63 62 = 1 → (∀ a ∈ s.accs, m.src ≤ a.loc → a.loc < m.src + m.len → a.st ≠ .issued ∧ ∀ n, a.st ≠ .entered n) →
      exec .migDrainDone s = .next { s with
        mig := some { m with drained := true }
        accs := s.accs.map fun a => if a.st = .waiting ∧ m.src ≤ a.loc ∧ a.loc < m.src + m.len then { a with st := .held } else a }) ∧
    (s.srf 0xCB 0 63 62 = 1 → m.drained = true → s.srf 0xCB 0 61 32 = 0 → m.len ≤ 2 ^ 30 → m.len % 65536 = 0 → Plain s m.src m.len →
      m.src + m.len ≤ m.dst ∨ m.dst + m.len ≤ m.src → Memory.wf s.mem = true →
      ∃ t, exec .migCopyDone s = .next t ∧ t.srf 0xCB 0 63 62 = 2 ∧
        (∀ x < m.len, memInit (m.src + x) = 0 → memInit (m.dst + x) = 0 → t.rd8 (m.dst + x) = s.rd8 (m.src + x)) ∧
        ∀ x, x < m.dst ∨ m.dst + m.len ≤ x → t.rd8 x = s.rd8 x) ∧
    (s.srf 0xCB 0 63 62 = 2 → m.len = 65536 → m.src % 65536 = 0 → m.dst % 65536 = 0 → m.src ≠ m.dst →
      (∃ t, exec .migCommit s = .next t ∧ t.srf 0xCB 0 63 62 = 3 ∧ t.srf 0xCB 0 7 0 = 0 ∧
        t.mig = some { m with committed := true, scrub := m.src } ∧
        (t.accs = s.accs.map fun a => if a.st = .held ∧ m.src ≤ a.loc ∧ a.loc < m.src + m.len then
          { a with loc := a.loc - m.src + m.dst } else a) ∧ Revoking s t (m.src / 65536) 1 [] ∧
        t.frame (m.dst / 65536) = { s.frame (m.dst / 65536) with
          state := 1, owner := (s.frame (m.src / 65536)).owner, tenant := (s.frame (m.src / 65536)).tenant
          prot := (s.frame (m.src / 65536)).prot, key := (s.frame (m.src / 65536)).key
          watch := (s.frame (m.src / 65536)).watch, exported := (s.frame (m.src / 65536)).exported
          seq := seqAfter (s.frame (m.dst / 65536)).seq } ∧
        t.frame (m.src / 65536) = { s.frame (m.src / 65536) with state := 5, seq := seqAfter (s.frame (m.src / 65536)).seq }) ∧
      ∃ t, exec .migAbort s = .next t ∧ t.srf 0xCB 0 63 62 = 3 ∧ t.srf 0xCB 0 7 0 = 0 ∧ t.frames = s.frames ∧
        t.mig = some { m with moving := false, scrub := m.dst }) ∧
    (s.srf 0xCB 0 63 62 ≠ 2 → ∀ i, i = Instr.migCommit ∨ i = Instr.migAbort → ∃ t, exec i s = .next t ∧ t = { s with sr := t.sr } ∧
      t.srf 0xCB 0 7 0 = 4) ∧
    (s.srf 0xCB 0 63 62 = 3 → m.len = 65536 → m.scrub % 65536 = 0 → (∀ r ∈ s.revokes, r.frame ≠ m.scrub / 65536) →
      ∃ t, exec .migScrubDone s = .next t ∧ t.mig = none ∧ t.srf 0xCB 0 63 62 = 0 ∧ (t.frame (m.scrub / 65536)).state = 0 ∧
        (∀ x < 65536, memInit (m.scrub + x) = 0 → t.rd8 (m.scrub + x) = 0))) ∧
  (∀ (s : State) (p : Nat) (gs : List Nat), p = s.param 0 → gs = s.params.drop 1 → p < 512 → (∀ g ∈ gs, s.pierOf (256 * g) = p) →
    ((∀ g ∈ gs, s.uncorr.contains g = false) → (gs.map fun g => s.corrReads.val g 0).sum < 16 → exec .pierRowRepair s = .next s) ∧
    ((∃ g ∈ gs, s.uncorr.contains g = true) ∨ 16 ≤ (gs.map fun g => s.corrReads.val g 0).sum → s.srf 0xD0 p 63 56 ≠ 0 →
      ∃ t, exec .pierRowRepair s = .next t ∧ t.srf 0xD0 p 63 56 = s.srf 0xD0 p 63 56 - 1 ∧ t.frames = s.frames ∧ t.mem = s.mem ∧
        ∀ g ∈ gs, t.corrReads.val g 0 = 0 ∧ t.uncorr.contains g = false) ∧
    (s.srf 0xD0 p 63 56 = 0 → s.srf 0xD0 p 55 48 = 0 → s.srf 0xD0 p 47 40 = 0 → ∀ g, gs = [g] →
      s.uncorr.contains g = true ∨ 16 ≤ s.corrReads.val g 0 → g / 256 < 8388608 →
      (s.frame (g / 256)).state ≠ 6 → (s.frame (g / 256)).owner ≠ 2 → ∃ t, exec .pierRowRepair s = .next t ∧
        (t.frame (g / 256)).state = 6 ∧ Revoking s t (g / 256) 2 [])) ∧
  (∀ (s : State) (p r n a : Nat), p = s.param 0 → r = s.param 1 → n = s.param 2 → a = s.srf 0xD1 0 15 0 →
    (∃ t, exec .refreshWindowEnd s = .next t ∧ t = { s with hotRows := t.hotRows } ∧
      ((if a = 0 then 4096 else max 256 a) < n → (p, r) ∈ t.hotRows)) ∧
    exec .hotRowWindow s = .next s) ∧
  (∀ (s : State) (c i o : Nat) (rest : List (Nat × Nat)), s.recLost = (c, i) :: rest →
    o = (s.recAt.find? ((1 - c) * 2048 + i)).getD (recBase (1 - c) + i) → ∃ t, exec .recordRebuild s = .next t ∧
    ((t.recordFatal = true ∧ ∀ g < 8388608, (s.frame g).state = 0 → (s.frame g).owner = 1 →
        ∃ j < 256, ∃ k < 256, s.pierOf (65536 * g + 256 * j) / 64 = s.pierOf (65536 * o + 256 * k) / 64) ∨ ∃ g, t.recLost = rest ∧ (s.frame g).state = 0 ∧ (s.frame g).owner = 1 ∧
      EntryIs s t g { s.frame g with state := 1, owner := 2, seq := seqAfter (s.frame g).seq })) ∧
  ∀ (s : State) (x : Nat), x = s.param 0 → x ∈ s.sweeps → ∃ t, exec .raceSweepDone s = .next t ∧
    t = { s with sweeps := s.sweeps.erase x, race := t.race } ∧
    ∀ p ∈ t.race, ¬ (p.2.gen = (s.srf 0xDA x 7 0 + 1) % 256 ∧ (s.frame (p.2.line / 1024)).tenant = x)

/-! ### Encoding, the step and the state after reset -/

namespace Sys2Proof.Claims

open Machine

/-- A thread's turn begins: it is the issuing thread and has issued nothing yet. -/
def turnOf (s : State) (rest : List Turn) (h k : Nat) : State := ({ s with agenda := rest } : State).begin h k

/-- The outcome `t` of a turn that began as `u` does not stand: the thread would park before a result of majors 0x24 to 0x26 is
written (R345). -/
def NotYet (u t : State) (h k : Nat) : Prop :=
  (∃ e ∈ (u.core h).dq, e.slot = k ∧ e.orphan = false ∧ (fpDest e.i).isSome = true) ∧ ∃ c, (t.thr h k).st = .parked c

/-- The instruction of a fetched word, read as the decoder reads the bytes of memory (R243, R2). -/
def WordIs (w : Nat) (i : Instr) : Prop :=
  decode (bytesOf w (if w % 2 = 0 then 2 else 4)) = .ok (i, [])

end Sys2Proof.Claims

open Sys2Proof Sys2Proof.Machine Sys2Proof.Claims in
/-- R243 to R254: decoding the bytes of an encoded instruction gives the instruction back, with the bytes after it left
over, for every instruction with an encoding and every operand that the encoding admits; the fetched word decodes to it
as well. -/
def Obligations.DecodeOfEncode : Prop :=
  ∀ (i : Instr) (w n : Nat) (rest : List Byte), i.wf = true → encode i = some (w, n) →
    decode (bytesOf w n ++ rest) = .ok (i, rest) ∧ decodeFetched w = .ok i ∧ (bytesOf w n).length = n ∧ lengthOf w = n

open Sys2Proof Sys2Proof.Machine Sys2Proof.Claims in
/-- The memory keeps its canonical form in every step: addresses strictly rising, and no entry equal to what an unlisted
address reads as. The form is the model's own (log 3). -/
def Obligations.StepKeepsMemoryCanonical : Prop :=
  ∀ s t : State, Memory.wf s.mem = true → step s = .next t → Memory.wf t.mem = true

open Sys2Proof Sys2Proof.Machine Sys2Proof.Claims in
/-- R135, R142, R148, R243, R245, R344, R345: when the agenda gives a turn to a thread that may issue alone and that no ready
thread of its core comes before, the bytes at its program counter are fetched, the windows that close there close, and the
step is exec of the decoded instruction, after which the core remembers which slot issued. A word that is no instruction is
ILLEGAL; one that reads or writes what a queued instruction of the thread has still to write waits, and so does one that would
park the thread before such a result is written. A fetch of a line that
the quad does not hold takes its halfword from memory; a word fetched already is not fetched again. The agenda is the
model's own (log 5). -/
def Obligations.StepRunsDecoded : Prop :=
  (∀ (s u v x : State) (rest : List Turn) (h k w : Nat), s.agenda = .thread h k :: rest → s.powered = true →
    ({ s with agenda := rest } : State).passed h k = false → u = turnOf s rest h k → u.mayIssue h k = true →
    (u.intrDue h = true → (u.core h).ictlSlot ≠ k) → (u.core h).gang = none → repAct u.cur.rep = false →
    u.fetchWord h k u.cur.pc.toNat = .ok v w → w < (if w % 2 = 0 then 2 ^ 16 else 2 ^ 32) → v.closeDue = .ready x → repAct v.cur.rep = false →
    (∀ i, WordIs w i → v.spanDue h k i = true → step s = .next v) ∧
    (∀ i, WordIs w i → v.spanDue h k i = false → ∀ t, exec i x = .next t →
      (NotYet u t h k → step s = .next u) ∧ (¬ NotYet u t h k → ∃ t', step s = .next t' ∧
        (t.cur.iss = false → t' = t) ∧ (t.cur.iss = true → t' = t.onCC fun c => { c with lastSlot := t.curSlot }))) ∧
    ((∀ i, ¬ WordIs w i) → (NotYet u x.illegal h k → step s = .next u) ∧ (¬ NotYet u x.illegal h k → step s = .next x.illegal))) ∧
  (∀ (s : State) (h k va w : Nat), (s.thr h k).fetched.lookup va = some w → s.fetchWord h k va = .ok s w) ∧
  ∀ (s s1 : State) (x : Xl) (h k va : Nat), spaceOf va = .global → (∀ l ∈ (s.quad (h / 4)).icache, l.asid = s.asidOf h k → l.line ≠ va / 64) →
    s.translate h (s.asidOf h k) (s.tenantOf h) va .fetch = (s1, .ok x) → x.at (va / 64 * 64) % 64 = 0 → Clear s1 (x.at (va / 64 * 64)) → Calm s1 →
    ∃ t, s.fetchHalf h k va = .ok t (s1.rdN (x.at (va / 64 * 64)) 64 / 256 ^ (va % 64) % 65536) ∧ t = { s1 with quads := t.quads }

open Sys2Proof Sys2Proof.Machine Sys2Proof.Claims in
/-- R11, R15, R32, R42, R72, R79, R89, R92, R98, R134, R206: what a cold reset leaves. Every thread slot is FREE and SCLK is
1; no port, tenant, partition or queue is enabled; the host window reads 0; every key slot is EMPTY; the plan in force is
200 MHz and 1,880 MHz on every socket; a frame that the keystone does not hold is FREE, owned by ACCEL, with SEQ 1. Which
frames the keystone holds is the model's choice (log 4). That memory lists nothing, and is so in canonical form, is the model's
own (log 3). -/
def Obligations.ResetState : Prop :=
  (∀ h k, (State.reset.thr h k).st = .free ∧ (State.reset.core h).sclk = 1 ∧ (State.reset.core h).share = none) ∧
    (∀ p, (State.reset.port p).state = 3) ∧ (∀ t, State.reset.srv 0x80 t = 0) ∧ (∀ j, State.reset.srv 0x88 j = 0) ∧
    (∀ q, State.reset.srv 0xA0 q = 0) ∧ (∀ o, State.reset.hc o = 0) ∧ (∀ k, (State.reset.keys.val k {}).loaded = false) ∧
    State.reset.plan.ref = 200 ∧ (∀ i < 20, State.reset.freq.getD i 0 = 1880) ∧ State.reset.srv 0x45 0 = 1800 ∧
    State.reset.srv 0x71 0 = 8388608 ∧
    (∀ f, f < 0x780000 → (State.reset.frame f).state = 0 ∧ (State.reset.frame f).owner = 1 ∧ (State.reset.frame f).tenant = 0 ∧
      (State.reset.frame f).seq = 1) ∧
    (∀ f, 0x7C0000 ≤ f → f < 0x800000 → (State.reset.frame f).state = 1 ∧ (State.reset.frame f).owner = 2) ∧
    (∀ i, 8 ≤ i → (State.reset.srv 0xB0 i).getLsbD 63 = false) ∧ State.reset.mem = [] ∧ Memory.wf State.reset.mem = true ∧
    State.reset.powered = true ∧ State.reset.cmds = []

open Sys2Proof Sys2Proof.Machine Sys2Proof.Claims in
/-- The worked encodings of the instruction chapters (R249, R252, R277, R290, R306, R312, R320, R333, R348, R366, R397): a
word written out in the manual decodes to the instruction it stands for, and a word that the manual calls ILLEGAL to
none. -/
def Obligations.WorkedWords : Prop :=
  (∀ p ∈ ([(0x00149401, .add 8 9 10), (0x015AC581, .div 11 12 13), (0x00249623, .st 12 9 2 2), (0x20B6962B, .amoadd 12 9 3 3 1 2),
      (0xF008002D, .fence 4), (0x00000631, .send 12 0), (0x188831C1, .vadd 3 3 4 2 0 2), (0x088620C9, .vfadd 1 2 3 2 0 2),
      (0x200184E1, .tmma 1 2 3 0 0 2), (0x04060069, .tmark 12), (0x03C004F1, .mts 9 0 0 7), (0x0000C073, .trap 12),
      (0x0080003B, .halt)] : List (Nat × Instr)), WordIs p.1 p.2) ∧
    ∀ w ∈ ([0x0E010261, 0x10148267, 0x0A000069, 0x10000069] : List Nat), ∀ i, ¬ WordIs w i
end

