-- ==== Sys2Proof/Laws/Memory.lean ====
section
/-! SUPPORT. The byte map: a read after a write, the bytes a write leaves alone, and the canonical form, which every
memory operation keeps. -/

namespace Sys2Proof.Machine

/-! ### One byte -/

theorem memGet_of_wfFrom {lo : Nat} {m : List Host.Cell} (h : Memory.wfFrom lo m = true) {a : Nat} (ha : a < lo) :
    memGet m a = memInit a := by
  cases m with
  | nil => rfl
  | cons p t =>
    obtain ⟨b, x⟩ := p
    simp only [Memory.wfFrom, Bool.and_eq_true, decide_eq_true_eq] at h
    have hb : lo ≤ b := h.1.1
    simp only [memGet]
    rw [if_neg (by omega), if_pos (by omega)]

theorem Memory.wfFrom_mono {lo lo' : Nat} (hl : lo' ≤ lo) {m : List Host.Cell} (h : Memory.wfFrom lo m = true) :
    Memory.wfFrom lo' m = true := by
  cases m with
  | nil => rfl
  | cons p t =>
    simp only [Memory.wfFrom, Bool.and_eq_true, decide_eq_true_eq] at h ⊢
    exact ⟨⟨by omega, h.1.2⟩, h.2⟩

theorem wfFrom_memSet {lo : Nat} {m : List Host.Cell} (h : Memory.wfFrom lo m = true) {a : Nat} (ha : lo ≤ a) (v : Byte) :
    Memory.wfFrom lo (memSet m a v) = true := by
  induction m generalizing lo with
  | nil =>
    simp only [memSet]
    split
    · rfl
    · simp [Memory.wfFrom, *]
  | cons p t ih =>
    obtain ⟨b, x⟩ := p
    simp only [Memory.wfFrom, Bool.and_eq_true, decide_eq_true_eq] at h
    obtain ⟨⟨hb, hx⟩, ht⟩ := h
    simp only [memSet]
    split
    · split
      · exact Memory.wfFrom_mono (by omega) ht
      · simp only [Memory.wfFrom, Bool.and_eq_true, decide_eq_true_eq]
        exact ⟨⟨ha, by assumption⟩, Memory.wfFrom_mono (by omega) ht⟩
    · split
      · split
        · simp only [Memory.wfFrom, Bool.and_eq_true, decide_eq_true_eq]
          exact ⟨⟨hb, hx⟩, ht⟩
        · simp only [Memory.wfFrom, Bool.and_eq_true, decide_eq_true_eq]
          exact ⟨⟨ha, by assumption⟩, ⟨by omega, hx⟩, ht⟩
      · simp only [Memory.wfFrom, Bool.and_eq_true, decide_eq_true_eq]
        exact ⟨⟨hb, hx⟩, ih ht (by omega)⟩

/-- A write keeps the canonical form. -/
theorem wf_memSet {m : List Host.Cell} (h : Memory.wf m = true) (a : Nat) (v : Byte) : Memory.wf (memSet m a v) = true :=
  wfFrom_memSet h (Nat.zero_le a) v

/-- A byte reads back what was written to it. -/
theorem memGet_memSet_self {m : List Host.Cell} (h : Memory.wf m = true) (a : Nat) (v : Byte) :
    memGet (memSet m a v) a = v := by
  suffices H : ∀ lo, Memory.wfFrom lo m = true → memGet (memSet m a v) a = v from H 0 h
  clear h
  induction m with
  | nil =>
    intro lo _
    simp only [memSet]
    split
    · simp [memGet, *]
    · simp [memGet]
  | cons p t ih =>
    obtain ⟨b, x⟩ := p
    intro lo h
    simp only [Memory.wfFrom, Bool.and_eq_true, decide_eq_true_eq] at h
    obtain ⟨⟨hb, hx⟩, ht⟩ := h
    simp only [memSet]
    split
    · subst_vars
      split
      · rw [memGet_of_wfFrom ht (by omega)]
        exact Eq.symm ‹_›
      · simp [memGet]
    · split
      · split
        · simp only [memGet]
          rw [if_neg (by omega), if_pos (by omega)]
          exact Eq.symm ‹_›
        · simp [memGet]
      · simp only [memGet]
        rw [if_neg (by omega), if_neg (by omega)]
        exact ih _ ht

/-- A write leaves every other byte alone. -/
theorem memGet_memSet_ne {m : List Host.Cell} (h : Memory.wf m = true) {a c : Nat} (v : Byte) (hc : c ≠ a) :
    memGet (memSet m a v) c = memGet m c := by
  suffices H : ∀ lo, Memory.wfFrom lo m = true → memGet (memSet m a v) c = memGet m c from H 0 h
  clear h
  induction m with
  | nil =>
    intro lo _
    simp only [memSet]
    split
    · rfl
    · simp only [memGet]
      rw [if_neg (by omega)]
      split <;> rfl
  | cons p t ih =>
    obtain ⟨b, x⟩ := p
    intro lo h
    simp only [Memory.wfFrom, Bool.and_eq_true, decide_eq_true_eq] at h
    obtain ⟨⟨hb, hx⟩, ht⟩ := h
    simp only [memSet]
    split
    · subst_vars
      split
      · simp only [memGet]
        rw [if_neg (by omega)]
        split
        · exact memGet_of_wfFrom ht (by omega)
        · rfl
      · simp only [memGet]
        rw [if_neg (Ne.symm hc), if_neg (Ne.symm hc)]
    · split
      · split
        · rfl
        · rw [memGet, if_neg (by omega)]
          split
          · simp only [memGet]
            rw [if_neg (by omega), if_pos (by omega)]
          · rfl
      · simp only [memGet]
        split
        · rfl
        · split
          · rfl
          · exact ih _ ht

/-! ### The state's operations -/

@[simp] theorem State.wr8_mem (s : State) (loc v : Nat) : (s.wr8 loc v).mem = memSet s.mem loc (BitVec.ofNat 8 v) := rfl

theorem State.wf_wr8 {s : State} (h : Memory.wf s.mem = true) (loc v : Nat) : Memory.wf (s.wr8 loc v).mem = true :=
  wf_memSet h _ _

theorem State.wf_wrN {s : State} (h : Memory.wf s.mem = true) (loc n v : Nat) : Memory.wf (s.wrN loc n v).mem = true := by
  induction n generalizing s loc v with
  | zero => exact h
  | succ n ih => exact ih (State.wf_wr8 h _ _) _ _

theorem State.setFulls_mem (s : State) (loc : Nat) (b : Bool) (k : Nat) : (s.setFulls loc b k).mem = s.mem := by
  induction k generalizing s loc with
  | zero => rfl
  | succ k ih => exact ih _ _

theorem Memory.wfFrom_filter {lo : Nat} {m : List Host.Cell} (h : Memory.wfFrom lo m = true) (f : Host.Cell → Bool) :
    Memory.wfFrom lo (m.filter f) = true := by
  induction m generalizing lo with
  | nil => rfl
  | cons p t ih =>
    simp only [Memory.wfFrom, Bool.and_eq_true, decide_eq_true_eq] at h
    simp only [List.filter_cons]
    split
    · simp only [Memory.wfFrom, Bool.and_eq_true, decide_eq_true_eq]
      exact ⟨h.1, ih h.2⟩
    · exact ih (Memory.wfFrom_mono (by omega) h.2)

theorem State.wf_clearRange {s : State} (h : Memory.wf s.mem = true) (lo len : Nat) :
    Memory.wf (s.clearRange lo len).mem = true := Memory.wfFrom_filter h _

theorem State.wf_reset : Memory.wf State.reset.mem = true := rfl

/-- A byte store reads back. -/
theorem State.rd8_wr8_self {s : State} (h : Memory.wf s.mem = true) (loc v : Nat) : (s.wr8 loc v).rd8 loc = v % 256 := by
  simp [State.rd8, memGet_memSet_self h]

/-- A byte store leaves every other byte alone. -/
theorem State.rd8_wr8_ne {s : State} (h : Memory.wf s.mem = true) {loc a : Nat} (v : Nat) (n : a ≠ loc) :
    (s.wr8 loc v).rd8 a = s.rd8 a := by
  simp [State.rd8, memGet_memSet_ne h _ n]

/-- A store leaves every byte outside it alone. -/
theorem State.rd8_wrN_ne {s : State} (h : Memory.wf s.mem = true) {loc n a : Nat} (v : Nat) (o : a < loc ∨ loc + n ≤ a) :
    (s.wrN loc n v).rd8 a = s.rd8 a := by
  induction n generalizing s loc v with
  | zero => rfl
  | succ n ih =>
    rw [State.wrN, ih (State.wf_wr8 h _ _) _ (by omega), State.rd8_wr8_ne h _ (by omega)]

/-- A store reads back. -/
theorem State.rdN_wrN {s : State} (h : Memory.wf s.mem = true) (loc n v : Nat) :
    (s.wrN loc n v).rdN loc n = v % 256 ^ n := by
  induction n generalizing s loc v with
  | zero => simp [State.rdN, Nat.mod_one]
  | succ n ih =>
    rw [State.wrN, State.rdN, ih (State.wf_wr8 h _ _), State.rd8_wrN_ne (State.wf_wr8 h _ _) _ (by omega),
      State.rd8_wr8_self h, Nat.mod_mod, Nat.pow_succ, Nat.mul_comm (256 ^ n), Nat.mod_mul]

end Sys2Proof.Machine
end

