-- ==== Sys2Proof/Laws/PerInstr.lean ====
section
/-! SUPPORT. The family Encode, one lemma for each constructor of `Instr`: the word of a well-formed instruction has the
length that the length rule of R243 reads off it and fits that length; a step of an engine or of the outside world has no
encoding. The lemmas `word_<n>` write out an encoding of `n` fields; rewriting with them keeps the kernel from computing
with the powers of two. -/

namespace Sys2Proof.Laws

section
set_option Elab.async false

theorem word_0 (m : Nat) :
    word m [] =
      m := rfl

theorem word_1 (m a0 i0 : Nat) :
    word m [(a0, i0)] =
      m + a0 * 2 ^ i0 := rfl

theorem word_2 (m a0 i0 a1 i1 : Nat) :
    word m [(a0, i0), (a1, i1)] =
      m + a0 * 2 ^ i0 + a1 * 2 ^ i1 := rfl

theorem word_3 (m a0 i0 a1 i1 a2 i2 : Nat) :
    word m [(a0, i0), (a1, i1), (a2, i2)] =
      m + a0 * 2 ^ i0 + a1 * 2 ^ i1 + a2 * 2 ^ i2 := rfl

theorem word_4 (m a0 i0 a1 i1 a2 i2 a3 i3 : Nat) :
    word m [(a0, i0), (a1, i1), (a2, i2), (a3, i3)] =
      m + a0 * 2 ^ i0 + a1 * 2 ^ i1 + a2 * 2 ^ i2 + a3 * 2 ^ i3 := rfl

theorem word_5 (m a0 i0 a1 i1 a2 i2 a3 i3 a4 i4 : Nat) :
    word m [(a0, i0), (a1, i1), (a2, i2), (a3, i3), (a4, i4)] =
      m + a0 * 2 ^ i0 + a1 * 2 ^ i1 + a2 * 2 ^ i2 + a3 * 2 ^ i3 + a4 * 2 ^ i4 := rfl

theorem word_6 (m a0 i0 a1 i1 a2 i2 a3 i3 a4 i4 a5 i5 : Nat) :
    word m [(a0, i0), (a1, i1), (a2, i2), (a3, i3), (a4, i4), (a5, i5)] =
      m + a0 * 2 ^ i0 + a1 * 2 ^ i1 + a2 * 2 ^ i2 + a3 * 2 ^ i3 + a4 * 2 ^ i4 + a5 * 2 ^ i5 := rfl

theorem word_7 (m a0 i0 a1 i1 a2 i2 a3 i3 a4 i4 a5 i5 a6 i6 : Nat) :
    word m [(a0, i0), (a1, i1), (a2, i2), (a3, i3), (a4, i4), (a5, i5), (a6, i6)] =
      m + a0 * 2 ^ i0 + a1 * 2 ^ i1 + a2 * 2 ^ i2 + a3 * 2 ^ i3 + a4 * 2 ^ i4 + a5 * 2 ^ i5 + a6 * 2 ^ i6 := rfl

theorem word_8 (m a0 i0 a1 i1 a2 i2 a3 i3 a4 i4 a5 i5 a6 i6 a7 i7 : Nat) :
    word m [(a0, i0), (a1, i1), (a2, i2), (a3, i3), (a4, i4), (a5, i5), (a6, i6), (a7, i7)] =
      m + a0 * 2 ^ i0 + a1 * 2 ^ i1 + a2 * 2 ^ i2 + a3 * 2 ^ i3 + a4 * 2 ^ i4 + a5 * 2 ^ i5 + a6 * 2 ^ i6 + a7 * 2 ^ i7 := rfl

theorem word_9 (m a0 i0 a1 i1 a2 i2 a3 i3 a4 i4 a5 i5 a6 i6 a7 i7 a8 i8 : Nat) :
    word m [(a0, i0), (a1, i1), (a2, i2), (a3, i3), (a4, i4), (a5, i5), (a6, i6), (a7, i7), (a8, i8)] =
      m + a0 * 2 ^ i0 + a1 * 2 ^ i1 + a2 * 2 ^ i2 + a3 * 2 ^ i3 + a4 * 2 ^ i4 + a5 * 2 ^ i5 + a6 * 2 ^ i6 + a7 * 2 ^ i7 + a8 * 2 ^ i8 := rfl

theorem word_10 (m a0 i0 a1 i1 a2 i2 a3 i3 a4 i4 a5 i5 a6 i6 a7 i7 a8 i8 a9 i9 : Nat) :
    word m [(a0, i0), (a1, i1), (a2, i2), (a3, i3), (a4, i4), (a5, i5), (a6, i6), (a7, i7), (a8, i8), (a9, i9)] =
      m + a0 * 2 ^ i0 + a1 * 2 ^ i1 + a2 * 2 ^ i2 + a3 * 2 ^ i3 + a4 * 2 ^ i4 + a5 * 2 ^ i5 + a6 * 2 ^ i6 + a7 * 2 ^ i7 + a8 * 2 ^ i8 + a9 * 2 ^ i9 := rfl

namespace Encode

/-- The encoding of `i` as R243 lays it out: four bytes with bit 0 set, or two bytes with bit 0 clear. -/
def Statement (i : Instr) : Prop :=
  i.wf = true → ∀ w n, encode i = some (w, n) → (n = 4 ∧ w % 2 = 1 ∧ w < 2 ^ 32) ∨ (n = 2 ∧ w % 2 = 0 ∧ w < 2 ^ 16)

/-- A four-byte encoding. -/
theorem of_four {i : Instr} {w n x : Nat} (h : encode i = some (x, 4)) (h1 : x % 2 = 1) (h2 : x < 4294967296)
    (he : encode i = some (w, n)) : (n = 4 ∧ w % 2 = 1 ∧ w < 2 ^ 32) ∨ (n = 2 ∧ w % 2 = 0 ∧ w < 2 ^ 16) := by
  rw [h] at he; cases he; exact .inl ⟨rfl, h1, h2⟩

/-- A two-byte encoding. -/
theorem of_two {i : Instr} {w n x : Nat} (h : encode i = some (x, 2)) (h1 : x % 2 = 0) (h2 : x < 65536)
    (he : encode i = some (w, n)) : (n = 4 ∧ w % 2 = 1 ∧ w < 2 ^ 32) ∨ (n = 2 ∧ w % 2 = 0 ∧ w < 2 ^ 16) := by
  rw [h] at he; cases he; exact .inr ⟨rfl, h1, h2⟩

theorem add (d a b : Nat) : Statement (.add d a b) := fun h _ _ he => by
  have h : (decide (d < 32) && decide (a < 32) && decide (b < 32)) = true := h
  simp only [Bool.and_eq_true, decide_eq_true_eq] at h
  refine of_four (x := word 0x1 [(d, 7), (a, 12), (b, 17)]) rfl ?_ ?_ he <;> clear he <;> rw [word_3] <;> omega
theorem sub (d a b : Nat) : Statement (.sub d a b) := fun h _ _ he => by
  have h : (decide (d < 32) && decide (a < 32) && decide (b < 32)) = true := h
  simp only [Bool.and_eq_true, decide_eq_true_eq] at h
  refine of_four (x := word 0x400001 [(d, 7), (a, 12), (b, 17)]) rfl ?_ ?_ he <;> clear he <;> rw [word_3] <;> omega
theorem mul (d a b : Nat) : Statement (.mul d a b) := fun h _ _ he => by
  have h : (decide (d < 32) && decide (a < 32) && decide (b < 32)) = true := h
  simp only [Bool.and_eq_true, decide_eq_true_eq] at h
  refine of_four (x := word 0x800001 [(d, 7), (a, 12), (b, 17)]) rfl ?_ ?_ he <;> clear he <;> rw [word_3] <;> omega
theorem mulh (d a b : Nat) : Statement (.mulh d a b) := fun h _ _ he => by
  have h : (decide (d < 32) && decide (a < 32) && decide (b < 32)) = true := h
  simp only [Bool.and_eq_true, decide_eq_true_eq] at h
  refine of_four (x := word 0xC00001 [(d, 7), (a, 12), (b, 17)]) rfl ?_ ?_ he <;> clear he <;> rw [word_3] <;> omega
theorem mulhu (d a b : Nat) : Statement (.mulhu d a b) := fun h _ _ he => by
  have h : (decide (d < 32) && decide (a < 32) && decide (b < 32)) = true := h
  simp only [Bool.and_eq_true, decide_eq_true_eq] at h
  refine of_four (x := word 0x1000001 [(d, 7), (a, 12), (b, 17)]) rfl ?_ ?_ he <;> clear he <;> rw [word_3] <;> omega
theorem div (d a b : Nat) : Statement (.div d a b) := fun h _ _ he => by
  have h : (decide (d < 32) && decide (a < 32) && decide (b < 32)) = true := h
  simp only [Bool.and_eq_true, decide_eq_true_eq] at h
  refine of_four (x := word 0x1400001 [(d, 7), (a, 12), (b, 17)]) rfl ?_ ?_ he <;> clear he <;> rw [word_3] <;> omega
theorem divu (d a b : Nat) : Statement (.divu d a b) := fun h _ _ he => by
  have h : (decide (d < 32) && decide (a < 32) && decide (b < 32)) = true := h
  simp only [Bool.and_eq_true, decide_eq_true_eq] at h
  refine of_four (x := word 0x1800001 [(d, 7), (a, 12), (b, 17)]) rfl ?_ ?_ he <;> clear he <;> rw [word_3] <;> omega
theorem rem (d a b : Nat) : Statement (.rem d a b) := fun h _ _ he => by
  have h : (decide (d < 32) && decide (a < 32) && decide (b < 32)) = true := h
  simp only [Bool.and_eq_true, decide_eq_true_eq] at h
  refine of_four (x := word 0x1C00001 [(d, 7), (a, 12), (b, 17)]) rfl ?_ ?_ he <;> clear he <;> rw [word_3] <;> omega
theorem remu (d a b : Nat) : Statement (.remu d a b) := fun h _ _ he => by
  have h : (decide (d < 32) && decide (a < 32) && decide (b < 32)) = true := h
  simp only [Bool.and_eq_true, decide_eq_true_eq] at h
  refine of_four (x := word 0x2000001 [(d, 7), (a, 12), (b, 17)]) rfl ?_ ?_ he <;> clear he <;> rw [word_3] <;> omega
theorem and (d a b : Nat) : Statement (.and d a b) := fun h _ _ he => by
  have h : (decide (d < 32) && decide (a < 32) && decide (b < 32)) = true := h
  simp only [Bool.and_eq_true, decide_eq_true_eq] at h
  refine of_four (x := word 0x2400001 [(d, 7), (a, 12), (b, 17)]) rfl ?_ ?_ he <;> clear he <;> rw [word_3] <;> omega
theorem or (d a b : Nat) : Statement (.or d a b) := fun h _ _ he => by
  have h : (decide (d < 32) && decide (a < 32) && decide (b < 32)) = true := h
  simp only [Bool.and_eq_true, decide_eq_true_eq] at h
  refine of_four (x := word 0x2800001 [(d, 7), (a, 12), (b, 17)]) rfl ?_ ?_ he <;> clear he <;> rw [word_3] <;> omega
theorem xor (d a b : Nat) : Statement (.xor d a b) := fun h _ _ he => by
  have h : (decide (d < 32) && decide (a < 32) && decide (b < 32)) = true := h
  simp only [Bool.and_eq_true, decide_eq_true_eq] at h
  refine of_four (x := word 0x2C00001 [(d, 7), (a, 12), (b, 17)]) rfl ?_ ?_ he <;> clear he <;> rw [word_3] <;> omega
theorem andn (d a b : Nat) : Statement (.andn d a b) := fun h _ _ he => by
  have h : (decide (d < 32) && decide (a < 32) && decide (b < 32)) = true := h
  simp only [Bool.and_eq_true, decide_eq_true_eq] at h
  refine of_four (x := word 0x3000001 [(d, 7), (a, 12), (b, 17)]) rfl ?_ ?_ he <;> clear he <;> rw [word_3] <;> omega
theorem shl (d a b : Nat) : Statement (.shl d a b) := fun h _ _ he => by
  have h : (decide (d < 32) && decide (a < 32) && decide (b < 32)) = true := h
  simp only [Bool.and_eq_true, decide_eq_true_eq] at h
  refine of_four (x := word 0x3400001 [(d, 7), (a, 12), (b, 17)]) rfl ?_ ?_ he <;> clear he <;> rw [word_3] <;> omega
theorem shr (d a b : Nat) : Statement (.shr d a b) := fun h _ _ he => by
  have h : (decide (d < 32) && decide (a < 32) && decide (b < 32)) = true := h
  simp only [Bool.and_eq_true, decide_eq_true_eq] at h
  refine of_four (x := word 0x3800001 [(d, 7), (a, 12), (b, 17)]) rfl ?_ ?_ he <;> clear he <;> rw [word_3] <;> omega
theorem sar (d a b : Nat) : Statement (.sar d a b) := fun h _ _ he => by
  have h : (decide (d < 32) && decide (a < 32) && decide (b < 32)) = true := h
  simp only [Bool.and_eq_true, decide_eq_true_eq] at h
  refine of_four (x := word 0x3C00001 [(d, 7), (a, 12), (b, 17)]) rfl ?_ ?_ he <;> clear he <;> rw [word_3] <;> omega
theorem rol (d a b : Nat) : Statement (.rol d a b) := fun h _ _ he => by
  have h : (decide (d < 32) && decide (a < 32) && decide (b < 32)) = true := h
  simp only [Bool.and_eq_true, decide_eq_true_eq] at h
  refine of_four (x := word 0x4000001 [(d, 7), (a, 12), (b, 17)]) rfl ?_ ?_ he <;> clear he <;> rw [word_3] <;> omega
theorem clz (d a : Nat) : Statement (.clz d a) := fun h _ _ he => by
  have h : (decide (d < 32) && decide (a < 32)) = true := h
  simp only [Bool.and_eq_true, decide_eq_true_eq] at h
  refine of_four (x := word 0x4400001 [(d, 7), (a, 12)]) rfl ?_ ?_ he <;> clear he <;> rw [word_2] <;> omega
theorem ctz (d a : Nat) : Statement (.ctz d a) := fun h _ _ he => by
  have h : (decide (d < 32) && decide (a < 32)) = true := h
  simp only [Bool.and_eq_true, decide_eq_true_eq] at h
  refine of_four (x := word 0x4800001 [(d, 7), (a, 12)]) rfl ?_ ?_ he <;> clear he <;> rw [word_2] <;> omega
theorem popc (d a : Nat) : Statement (.popc d a) := fun h _ _ he => by
  have h : (decide (d < 32) && decide (a < 32)) = true := h
  simp only [Bool.and_eq_true, decide_eq_true_eq] at h
  refine of_four (x := word 0x4C00001 [(d, 7), (a, 12)]) rfl ?_ ?_ he <;> clear he <;> rw [word_2] <;> omega
theorem min (d a b : Nat) : Statement (.min d a b) := fun h _ _ he => by
  have h : (decide (d < 32) && decide (a < 32) && decide (b < 32)) = true := h
  simp only [Bool.and_eq_true, decide_eq_true_eq] at h
  refine of_four (x := word 0x5000001 [(d, 7), (a, 12), (b, 17)]) rfl ?_ ?_ he <;> clear he <;> rw [word_3] <;> omega
theorem max (d a b : Nat) : Statement (.max d a b) := fun h _ _ he => by
  have h : (decide (d < 32) && decide (a < 32) && decide (b < 32)) = true := h
  simp only [Bool.and_eq_true, decide_eq_true_eq] at h
  refine of_four (x := word 0x5400001 [(d, 7), (a, 12), (b, 17)]) rfl ?_ ?_ he <;> clear he <;> rw [word_3] <;> omega
theorem minu (d a b : Nat) : Statement (.minu d a b) := fun h _ _ he => by
  have h : (decide (d < 32) && decide (a < 32) && decide (b < 32)) = true := h
  simp only [Bool.and_eq_true, decide_eq_true_eq] at h
  refine of_four (x := word 0x5800001 [(d, 7), (a, 12), (b, 17)]) rfl ?_ ?_ he <;> clear he <;> rw [word_3] <;> omega
theorem maxu (d a b : Nat) : Statement (.maxu d a b) := fun h _ _ he => by
  have h : (decide (d < 32) && decide (a < 32) && decide (b < 32)) = true := h
  simp only [Bool.and_eq_true, decide_eq_true_eq] at h
  refine of_four (x := word 0x5C00001 [(d, 7), (a, 12), (b, 17)]) rfl ?_ ?_ he <;> clear he <;> rw [word_3] <;> omega
theorem slt (d a b : Nat) : Statement (.slt d a b) := fun h _ _ he => by
  have h : (decide (d < 32) && decide (a < 32) && decide (b < 32)) = true := h
  simp only [Bool.and_eq_true, decide_eq_true_eq] at h
  refine of_four (x := word 0x6000001 [(d, 7), (a, 12), (b, 17)]) rfl ?_ ?_ he <;> clear he <;> rw [word_3] <;> omega
theorem sltu (d a b : Nat) : Statement (.sltu d a b) := fun h _ _ he => by
  have h : (decide (d < 32) && decide (a < 32) && decide (b < 32)) = true := h
  simp only [Bool.and_eq_true, decide_eq_true_eq] at h
  refine of_four (x := word 0x6400001 [(d, 7), (a, 12), (b, 17)]) rfl ?_ ?_ he <;> clear he <;> rw [word_3] <;> omega
theorem seq (d a b : Nat) : Statement (.seq d a b) := fun h _ _ he => by
  have h : (decide (d < 32) && decide (a < 32) && decide (b < 32)) = true := h
  simp only [Bool.and_eq_true, decide_eq_true_eq] at h
  refine of_four (x := word 0x6800001 [(d, 7), (a, 12), (b, 17)]) rfl ?_ ?_ he <;> clear he <;> rw [word_3] <;> omega
theorem addi (d a imm : Nat) : Statement (.addi d a imm) := fun h _ _ he => by
  have h : (decide (d < 32) && decide (a < 32) && decide (imm < 32768)) = true := h
  simp only [Bool.and_eq_true, decide_eq_true_eq] at h
  refine of_four (x := word 0x3 [(d, 7), (a, 12), (imm, 17)]) rfl ?_ ?_ he <;> clear he <;> rw [word_3] <;> omega
theorem andi (d a imm : Nat) : Statement (.andi d a imm) := fun h _ _ he => by
  have h : (decide (d < 32) && decide (a < 32) && decide (imm < 32768)) = true := h
  simp only [Bool.and_eq_true, decide_eq_true_eq] at h
  refine of_four (x := word 0x5 [(d, 7), (a, 12), (imm, 17)]) rfl ?_ ?_ he <;> clear he <;> rw [word_3] <;> omega
theorem ori (d a imm : Nat) : Statement (.ori d a imm) := fun h _ _ he => by
  have h : (decide (d < 32) && decide (a < 32) && decide (imm < 32768)) = true := h
  simp only [Bool.and_eq_true, decide_eq_true_eq] at h
  refine of_four (x := word 0x7 [(d, 7), (a, 12), (imm, 17)]) rfl ?_ ?_ he <;> clear he <;> rw [word_3] <;> omega
theorem xori (d a imm : Nat) : Statement (.xori d a imm) := fun h _ _ he => by
  have h : (decide (d < 32) && decide (a < 32) && decide (imm < 32768)) = true := h
  simp only [Bool.and_eq_true, decide_eq_true_eq] at h
  refine of_four (x := word 0x9 [(d, 7), (a, 12), (imm, 17)]) rfl ?_ ?_ he <;> clear he <;> rw [word_3] <;> omega
theorem slti (d a imm : Nat) : Statement (.slti d a imm) := fun h _ _ he => by
  have h : (decide (d < 32) && decide (a < 32) && decide (imm < 32768)) = true := h
  simp only [Bool.and_eq_true, decide_eq_true_eq] at h
  refine of_four (x := word 0xB [(d, 7), (a, 12), (imm, 17)]) rfl ?_ ?_ he <;> clear he <;> rw [word_3] <;> omega
theorem shli (d a n : Nat) : Statement (.shli d a n) := fun h _ _ he => by
  have h : (decide (d < 32) && decide (a < 32) && decide (n < 64)) = true := h
  simp only [Bool.and_eq_true, decide_eq_true_eq] at h
  refine of_four (x := word 0xD [(d, 7), (a, 12), (n, 17)]) rfl ?_ ?_ he <;> clear he <;> rw [word_3] <;> omega
theorem shri (d a n : Nat) : Statement (.shri d a n) := fun h _ _ he => by
  have h : (decide (d < 32) && decide (a < 32) && decide (n < 64)) = true := h
  simp only [Bool.and_eq_true, decide_eq_true_eq] at h
  refine of_four (x := word 0x80000D [(d, 7), (a, 12), (n, 17)]) rfl ?_ ?_ he <;> clear he <;> rw [word_3] <;> omega
theorem sari (d a n : Nat) : Statement (.sari d a n) := fun h _ _ he => by
  have h : (decide (d < 32) && decide (a < 32) && decide (n < 64)) = true := h
  simp only [Bool.and_eq_true, decide_eq_true_eq] at h
  refine of_four (x := word 0x100000D [(d, 7), (a, 12), (n, 17)]) rfl ?_ ?_ he <;> clear he <;> rw [word_3] <;> omega
theorem roli (d a n : Nat) : Statement (.roli d a n) := fun h _ _ he => by
  have h : (decide (d < 32) && decide (a < 32) && decide (n < 64)) = true := h
  simp only [Bool.and_eq_true, decide_eq_true_eq] at h
  refine of_four (x := word 0x180000D [(d, 7), (a, 12), (n, 17)]) rfl ?_ ?_ he <;> clear he <;> rw [word_3] <;> omega
theorem immh (d imm : Nat) : Statement (.immh d imm) := fun h _ _ he => by
  have h : (decide (d < 32) && decide (imm < 1048576)) = true := h
  simp only [Bool.and_eq_true, decide_eq_true_eq] at h
  refine of_four (x := word 0xF [(d, 7), (imm, 12)]) rfl ?_ ?_ he <;> clear he <;> rw [word_2] <;> omega
theorem lea (d a b s : Nat) : Statement (.lea d a b s) := fun h _ _ he => by
  have h : (decide (d < 32) && decide (a < 32) && decide (b < 32) && decide (s < 16)) = true := h
  simp only [Bool.and_eq_true, decide_eq_true_eq] at h
  refine of_four (x := word 0x11 [(d, 7), (a, 12), (b, 17), (s, 28)]) rfl ?_ ?_ he <;> clear he <;> rw [word_4] <;> omega
theorem bfx (d a b : Nat) : Statement (.bfx d a b) := fun h _ _ he => by
  have h : (decide (d < 32) && decide (a < 32) && decide (b < 32)) = true := h
  simp only [Bool.and_eq_true, decide_eq_true_eq] at h
  refine of_four (x := word 0x400011 [(d, 7), (a, 12), (b, 17)]) rfl ?_ ?_ he <;> clear he <;> rw [word_3] <;> omega
theorem bfxSx (d a b : Nat) : Statement (.bfxSx d a b) := fun h _ _ he => by
  have h : (decide (d < 32) && decide (a < 32) && decide (b < 32)) = true := h
  simp only [Bool.and_eq_true, decide_eq_true_eq] at h
  refine of_four (x := word 0x10400011 [(d, 7), (a, 12), (b, 17)]) rfl ?_ ?_ he <;> clear he <;> rw [word_3] <;> omega
theorem bfi (d a b : Nat) : Statement (.bfi d a b) := fun h _ _ he => by
  have h : (decide (d < 32) && decide (a < 32) && decide (b < 32)) = true := h
  simp only [Bool.and_eq_true, decide_eq_true_eq] at h
  refine of_four (x := word 0x800011 [(d, 7), (a, 12), (b, 17)]) rfl ?_ ?_ he <;> clear he <;> rw [word_3] <;> omega
theorem clmul (d a b : Nat) : Statement (.clmul d a b) := fun h _ _ he => by
  have h : (decide (d < 32) && decide (a < 32) && decide (b < 32)) = true := h
  simp only [Bool.and_eq_true, decide_eq_true_eq] at h
  refine of_four (x := word 0xC00011 [(d, 7), (a, 12), (b, 17)]) rfl ?_ ?_ he <;> clear he <;> rw [word_3] <;> omega
theorem clmulh (d a b : Nat) : Statement (.clmulh d a b) := fun h _ _ he => by
  have h : (decide (d < 32) && decide (a < 32) && decide (b < 32)) = true := h
  simp only [Bool.and_eq_true, decide_eq_true_eq] at h
  refine of_four (x := word 0x1000011 [(d, 7), (a, 12), (b, 17)]) rfl ?_ ?_ he <;> clear he <;> rw [word_3] <;> omega
theorem bcc (a b cond off : Nat) : Statement (.bcc a b cond off) := fun h _ _ he => by
  have h : (decide (a < 32) && decide (b < 32) && decide (cond < 8) && decide (off < 4096) && decide (cond < 6)) = true := h
  simp only [Bool.and_eq_true, decide_eq_true_eq] at h
  refine of_four (x := word 0x13 [(a, 7), (b, 12), (cond, 17), (off, 20)]) rfl ?_ ?_ he <;> clear he <;> rw [word_4] <;> omega
theorem bz (a cond off : Nat) : Statement (.bz a cond off) := fun h _ _ he => by
  have h : (decide (a < 32) && decide (cond < 8) && decide (off < 4096) && decide (cond < 4)) = true := h
  simp only [Bool.and_eq_true, decide_eq_true_eq] at h
  refine of_four (x := word 0x15 [(a, 7), (cond, 17), (off, 20)]) rfl ?_ ?_ he <;> clear he <;> rw [word_3] <;> omega
theorem j (off : Nat) : Statement (.j off) := fun h _ _ he => by
  have h : (decide (off < 33554432)) = true := h
  simp only [decide_eq_true_eq] at h
  refine of_four (x := word 0x17 [(off, 7)]) rfl ?_ ?_ he <;> clear he <;> rw [word_1] <;> omega
theorem call (k off : Nat) : Statement (.call k off) := fun h _ _ he => by
  have h : (decide (k < 16) && decide (off < 2097152)) = true := h
  simp only [Bool.and_eq_true, decide_eq_true_eq] at h
  refine of_four (x := word 0x19 [(k, 7), (off, 11)]) rfl ?_ ?_ he <;> clear he <;> rw [word_2] <;> omega
theorem pad (lab : Nat) : Statement (.pad lab) := fun h _ _ he => by
  have h : (decide (lab < 65536)) = true := h
  simp only [decide_eq_true_eq] at h
  refine of_four (x := word 0x1B [(lab, 12)]) rfl ?_ ?_ he <;> clear he <;> rw [word_1] <;> omega
theorem jtab (d a b : Nat) : Statement (.jtab d a b) := fun h _ _ he => by
  have h : (decide (d < 32) && decide (a < 32) && decide (b < 32)) = true := h
  simp only [Bool.and_eq_true, decide_eq_true_eq] at h
  refine of_four (x := word 0x1D [(d, 7), (a, 12), (b, 17)]) rfl ?_ ?_ he <;> clear he <;> rw [word_3] <;> omega
theorem callt (d a b k : Nat) : Statement (.callt d a b k) := fun h _ _ he => by
  have h : (decide (d < 32) && decide (a < 32) && decide (b < 32) && decide (k < 16)) = true := h
  simp only [Bool.and_eq_true, decide_eq_true_eq] at h
  refine of_four (x := word 0x40001D [(d, 7), (a, 12), (b, 17), (k, 28)]) rfl ?_ ?_ he <;> clear he <;> rw [word_4] <;> omega
theorem ret : Statement (.ret) := fun h _ _ he => by
  refine of_four (x := word 0x1F []) rfl ?_ ?_ he <;> clear he <;> rw [word_0] <;> omega
theorem loop (a imm : Nat) : Statement (.loop a imm) := fun h _ _ he => by
  have h : (decide (a < 32) && decide (imm < 32768)) = true := h
  simp only [Bool.and_eq_true, decide_eq_true_eq] at h
  refine of_four (x := word 0x9F [(a, 12), (imm, 17)]) rfl ?_ ?_ he <;> clear he <;> rw [word_2] <;> omega
theorem rep (nm1 mask : Nat) : Statement (.rep nm1 mask) := fun h _ _ he => by
  have h : (decide (nm1 < 64) && decide (mask < 8)) = true := h
  simp only [Bool.and_eq_true, decide_eq_true_eq] at h
  refine of_four (x := word 0x11F [(nm1, 17), (mask, 23)]) rfl ?_ ?_ he <;> clear he <;> rw [word_2] <;> omega
theorem spillw : Statement (.spillw) := fun h _ _ he => by
  refine of_four (x := word 0x39 []) rfl ?_ ?_ he <;> clear he <;> rw [word_0] <;> omega
theorem fillw : Statement (.fillw) := fun h _ _ he => by
  refine of_four (x := word 0x400039 []) rfl ?_ ?_ he <;> clear he <;> rw [word_0] <;> omega
theorem ld (d base s off la : Nat) : Statement (.ld d base s off la) := fun h _ _ he => by
  have h : (decide (d < 32) && decide (base < 32) && decide (s < 4) && decide (off < 256) && decide (la < 16)) = true := h
  simp only [Bool.and_eq_true, decide_eq_true_eq] at h
  refine of_four (x := word 0x21 [(d, 7), (base, 12), (s, 17), (off, 20), (la, 28)]) rfl ?_ ?_ he <;> clear he <;> rw [word_5] <;> omega
theorem ldu (d base s off la : Nat) : Statement (.ldu d base s off la) := fun h _ _ he => by
  have h : (decide (d < 32) && decide (base < 32) && decide (s < 4) && decide (off < 256) && decide (la < 16) && decide (s < 3)) = true := h
  simp only [Bool.and_eq_true, decide_eq_true_eq] at h
  refine of_four (x := word 0x80021 [(d, 7), (base, 12), (s, 17), (off, 20), (la, 28)]) rfl ?_ ?_ he <;> clear he <;> rw [word_5] <;> omega
theorem st (d base s off : Nat) : Statement (.st d base s off) := fun h _ _ he => by
  have h : (decide (d < 32) && decide (base < 32) && decide (s < 4) && decide (off < 256)) = true := h
  simp only [Bool.and_eq_true, decide_eq_true_eq] at h
  refine of_four (x := word 0x23 [(d, 7), (base, 12), (s, 17), (off, 20)]) rfl ?_ ?_ he <;> clear he <;> rw [word_4] <;> omega
theorem ldx (d a s la : Nat) : Statement (.ldx d a s la) := fun h _ _ he => by
  have h : (decide (d < 32) && decide (a < 32) && decide (s < 4) && decide (la < 16)) = true := h
  simp only [Bool.and_eq_true, decide_eq_true_eq] at h
  refine of_four (x := word 0x25 [(d, 7), (a, 12), (s, 24), (la, 28)]) rfl ?_ ?_ he <;> clear he <;> rw [word_4] <;> omega
theorem stx (d a s : Nat) : Statement (.stx d a s) := fun h _ _ he => by
  have h : (decide (d < 32) && decide (a < 32) && decide (s < 4)) = true := h
  simp only [Bool.and_eq_true, decide_eq_true_eq] at h
  refine of_four (x := word 0x4000025 [(d, 7), (a, 12), (s, 24)]) rfl ?_ ?_ he <;> clear he <;> rw [word_3] <;> omega
theorem ldacq (d a sc s la : Nat) : Statement (.ldacq d a sc s la) := fun h _ _ he => by
  have h : (decide (d < 32) && decide (a < 32) && decide (sc < 8) && decide (s < 4) && decide (la < 16) && decide (sc < 5)) = true := h
  simp only [Bool.and_eq_true, decide_eq_true_eq] at h
  refine of_four (x := word 0x27 [(d, 7), (a, 12), (sc, 17), (s, 24), (la, 28)]) rfl ?_ ?_ he <;> clear he <;> rw [word_5] <;> omega
theorem strel (d a sc s : Nat) : Statement (.strel d a sc s) := fun h _ _ he => by
  have h : (decide (d < 32) && decide (a < 32) && decide (sc < 8) && decide (s < 4) && decide (sc < 5)) = true := h
  simp only [Bool.and_eq_true, decide_eq_true_eq] at h
  refine of_four (x := word 0x4000027 [(d, 7), (a, 12), (sc, 17), (s, 24)]) rfl ?_ ?_ he <;> clear he <;> rw [word_4] <;> omega
theorem ldf (d a sc s la : Nat) : Statement (.ldf d a sc s la) := fun h _ _ he => by
  have h : (decide (d < 32) && decide (a < 32) && decide (sc < 8) && decide (s < 2) && decide (la < 16) && decide (sc < 5)) = true := h
  simp only [Bool.and_eq_true, decide_eq_true_eq] at h
  refine of_four (x := word 0x2000029 [(d, 7), (a, 12), (sc, 17), (s, 24), (la, 28)]) rfl ?_ ?_ he <;> clear he <;> rw [word_5] <;> omega
theorem ldfE (d a sc s la : Nat) : Statement (.ldfE d a sc s la) := fun h _ _ he => by
  have h : (decide (d < 32) && decide (a < 32) && decide (sc < 8) && decide (s < 2) && decide (la < 16) && decide (sc < 5)) = true := h
  simp only [Bool.and_eq_true, decide_eq_true_eq] at h
  refine of_four (x := word 0x6000029 [(d, 7), (a, 12), (sc, 17), (s, 24), (la, 28)]) rfl ?_ ?_ he <;> clear he <;> rw [word_5] <;> omega
theorem stf (d a sc s : Nat) : Statement (.stf d a sc s) := fun h _ _ he => by
  have h : (decide (d < 32) && decide (a < 32) && decide (sc < 8) && decide (s < 2) && decide (sc < 5)) = true := h
  simp only [Bool.and_eq_true, decide_eq_true_eq] at h
  refine of_four (x := word 0xA000029 [(d, 7), (a, 12), (sc, 17), (s, 24)]) rfl ?_ ?_ he <;> clear he <;> rw [word_4] <;> omega
theorem amoadd (d a sc ord s la : Nat) : Statement (.amoadd d a sc ord s la) := fun h _ _ he => by
  have h : (decide (d < 32) && decide (a < 32) && decide (sc < 8) && decide (ord < 4) && decide (s < 2) && decide (la < 16) && decide (sc < 5)) = true := h
  simp only [Bool.and_eq_true, decide_eq_true_eq] at h
  refine of_four (x := word 0x2B [(d, 7), (a, 12), (sc, 17), (ord, 20), (s, 23), (la, 28)]) rfl ?_ ?_ he <;> clear he <;> rw [word_6] <;> omega
theorem amoand (d a sc ord s la : Nat) : Statement (.amoand d a sc ord s la) := fun h _ _ he => by
  have h : (decide (d < 32) && decide (a < 32) && decide (sc < 8) && decide (ord < 4) && decide (s < 2) && decide (la < 16) && decide (sc < 5)) = true := h
  simp only [Bool.and_eq_true, decide_eq_true_eq] at h
  refine of_four (x := word 0x100002B [(d, 7), (a, 12), (sc, 17), (ord, 20), (s, 23), (la, 28)]) rfl ?_ ?_ he <;> clear he <;> rw [word_6] <;> omega
theorem amoor (d a sc ord s la : Nat) : Statement (.amoor d a sc ord s la) := fun h _ _ he => by
  have h : (decide (d < 32) && decide (a < 32) && decide (sc < 8) && decide (ord < 4) && decide (s < 2) && decide (la < 16) && decide (sc < 5)) = true := h
  simp only [Bool.and_eq_true, decide_eq_true_eq] at h
  refine of_four (x := word 0x200002B [(d, 7), (a, 12), (sc, 17), (ord, 20), (s, 23), (la, 28)]) rfl ?_ ?_ he <;> clear he <;> rw [word_6] <;> omega
theorem amoxor (d a sc ord s la : Nat) : Statement (.amoxor d a sc ord s la) := fun h _ _ he => by
  have h : (decide (d < 32) && decide (a < 32) && decide (sc < 8) && decide (ord < 4) && decide (s < 2) && decide (la < 16) && decide (sc < 5)) = true := h
  simp only [Bool.and_eq_true, decide_eq_true_eq] at h
  refine of_four (x := word 0x300002B [(d, 7), (a, 12), (sc, 17), (ord, 20), (s, 23), (la, 28)]) rfl ?_ ?_ he <;> clear he <;> rw [word_6] <;> omega
theorem amomin (d a sc ord s la : Nat) : Statement (.amomin d a sc ord s la) := fun h _ _ he => by
  have h : (decide (d < 32) && decide (a < 32) && decide (sc < 8) && decide (ord < 4) && decide (s < 2) && decide (la < 16) && decide (sc < 5)) = true := h
  simp only [Bool.and_eq_true, decide_eq_true_eq] at h
  refine of_four (x := word 0x400002B [(d, 7), (a, 12), (sc, 17), (ord, 20), (s, 23), (la, 28)]) rfl ?_ ?_ he <;> clear he <;> rw [word_6] <;> omega
theorem amomax (d a sc ord s la : Nat) : Statement (.amomax d a sc ord s la) := fun h _ _ he => by
  have h : (decide (d < 32) && decide (a < 32) && decide (sc < 8) && decide (ord < 4) && decide (s < 2) && decide (la < 16) && decide (sc < 5)) = true := h
  simp only [Bool.and_eq_true, decide_eq_true_eq] at h
  refine of_four (x := word 0x500002B [(d, 7), (a, 12), (sc, 17), (ord, 20), (s, 23), (la, 28)]) rfl ?_ ?_ he <;> clear he <;> rw [word_6] <;> omega
theorem amominu (d a sc ord s la : Nat) : Statement (.amominu d a sc ord s la) := fun h _ _ he => by
  have h : (decide (d < 32) && decide (a < 32) && decide (sc < 8) && decide (ord < 4) && decide (s < 2) && decide (la < 16) && decide (sc < 5)) = true := h
  simp only [Bool.and_eq_true, decide_eq_true_eq] at h
  refine of_four (x := word 0x600002B [(d, 7), (a, 12), (sc, 17), (ord, 20), (s, 23), (la, 28)]) rfl ?_ ?_ he <;> clear he <;> rw [word_6] <;> omega
theorem amomaxu (d a sc ord s la : Nat) : Statement (.amomaxu d a sc ord s la) := fun h _ _ he => by
  have h : (decide (d < 32) && decide (a < 32) && decide (sc < 8) && decide (ord < 4) && decide (s < 2) && decide (la < 16) && decide (sc < 5)) = true := h
  simp only [Bool.and_eq_true, decide_eq_true_eq] at h
  refine of_four (x := word 0x700002B [(d, 7), (a, 12), (sc, 17), (ord, 20), (s, 23), (la, 28)]) rfl ?_ ?_ he <;> clear he <;> rw [word_6] <;> omega
theorem amoswap (d a sc ord s la : Nat) : Statement (.amoswap d a sc ord s la) := fun h _ _ he => by
  have h : (decide (d < 32) && decide (a < 32) && decide (sc < 8) && decide (ord < 4) && decide (s < 2) && decide (la < 16) && decide (sc < 5)) = true := h
  simp only [Bool.and_eq_true, decide_eq_true_eq] at h
  refine of_four (x := word 0x800002B [(d, 7), (a, 12), (sc, 17), (ord, 20), (s, 23), (la, 28)]) rfl ?_ ?_ he <;> clear he <;> rw [word_6] <;> omega
theorem amocas (d a sc ord s la : Nat) : Statement (.amocas d a sc ord s la) := fun h _ _ he => by
  have h : (decide (d < 32) && decide (a < 32) && decide (sc < 8) && decide (ord < 4) && decide (s < 2) && decide (la < 16) && decide (sc < 5) && decide (d < 31)) = true := h
  simp only [Bool.and_eq_true, decide_eq_true_eq] at h
  refine of_four (x := word 0x900002B [(d, 7), (a, 12), (sc, 17), (ord, 20), (s, 23), (la, 28)]) rfl ?_ ?_ he <;> clear he <;> rw [word_6] <;> omega
theorem amofadd (d a sc ord s la : Nat) : Statement (.amofadd d a sc ord s la) := fun h _ _ he => by
  have h : (decide (d < 32) && decide (a < 32) && decide (sc < 8) && decide (ord < 4) && decide (s < 2) && decide (la < 16) && decide (sc < 5)) = true := h
  simp only [Bool.and_eq_true, decide_eq_true_eq] at h
  refine of_four (x := word 0xA00002B [(d, 7), (a, 12), (sc, 17), (ord, 20), (s, 23), (la, 28)]) rfl ?_ ?_ he <;> clear he <;> rw [word_6] <;> omega
theorem amoaddNr (d a sc ord s : Nat) : Statement (.amoaddNr d a sc ord s) := fun h _ _ he => by
  have h : (decide (d < 32) && decide (a < 32) && decide (sc < 8) && decide (ord < 4) && decide (s < 2) && decide (sc < 5)) = true := h
  simp only [Bool.and_eq_true, decide_eq_true_eq] at h
  refine of_four (x := word 0x40002B [(d, 7), (a, 12), (sc, 17), (ord, 20), (s, 23)]) rfl ?_ ?_ he <;> clear he <;> rw [word_5] <;> omega
theorem amoandNr (d a sc ord s : Nat) : Statement (.amoandNr d a sc ord s) := fun h _ _ he => by
  have h : (decide (d < 32) && decide (a < 32) && decide (sc < 8) && decide (ord < 4) && decide (s < 2) && decide (sc < 5)) = true := h
  simp only [Bool.and_eq_true, decide_eq_true_eq] at h
  refine of_four (x := word 0x140002B [(d, 7), (a, 12), (sc, 17), (ord, 20), (s, 23)]) rfl ?_ ?_ he <;> clear he <;> rw [word_5] <;> omega
theorem amoorNr (d a sc ord s : Nat) : Statement (.amoorNr d a sc ord s) := fun h _ _ he => by
  have h : (decide (d < 32) && decide (a < 32) && decide (sc < 8) && decide (ord < 4) && decide (s < 2) && decide (sc < 5)) = true := h
  simp only [Bool.and_eq_true, decide_eq_true_eq] at h
  refine of_four (x := word 0x240002B [(d, 7), (a, 12), (sc, 17), (ord, 20), (s, 23)]) rfl ?_ ?_ he <;> clear he <;> rw [word_5] <;> omega
theorem amoxorNr (d a sc ord s : Nat) : Statement (.amoxorNr d a sc ord s) := fun h _ _ he => by
  have h : (decide (d < 32) && decide (a < 32) && decide (sc < 8) && decide (ord < 4) && decide (s < 2) && decide (sc < 5)) = true := h
  simp only [Bool.and_eq_true, decide_eq_true_eq] at h
  refine of_four (x := word 0x340002B [(d, 7), (a, 12), (sc, 17), (ord, 20), (s, 23)]) rfl ?_ ?_ he <;> clear he <;> rw [word_5] <;> omega
theorem amominNr (d a sc ord s : Nat) : Statement (.amominNr d a sc ord s) := fun h _ _ he => by
  have h : (decide (d < 32) && decide (a < 32) && decide (sc < 8) && decide (ord < 4) && decide (s < 2) && decide (sc < 5)) = true := h
  simp only [Bool.and_eq_true, decide_eq_true_eq] at h
  refine of_four (x := word 0x440002B [(d, 7), (a, 12), (sc, 17), (ord, 20), (s, 23)]) rfl ?_ ?_ he <;> clear he <;> rw [word_5] <;> omega
theorem amomaxNr (d a sc ord s : Nat) : Statement (.amomaxNr d a sc ord s) := fun h _ _ he => by
  have h : (decide (d < 32) && decide (a < 32) && decide (sc < 8) && decide (ord < 4) && decide (s < 2) && decide (sc < 5)) = true := h
  simp only [Bool.and_eq_true, decide_eq_true_eq] at h
  refine of_four (x := word 0x540002B [(d, 7), (a, 12), (sc, 17), (ord, 20), (s, 23)]) rfl ?_ ?_ he <;> clear he <;> rw [word_5] <;> omega
theorem amominuNr (d a sc ord s : Nat) : Statement (.amominuNr d a sc ord s) := fun h _ _ he => by
  have h : (decide (d < 32) && decide (a < 32) && decide (sc < 8) && decide (ord < 4) && decide (s < 2) && decide (sc < 5)) = true := h
  simp only [Bool.and_eq_true, decide_eq_true_eq] at h
  refine of_four (x := word 0x640002B [(d, 7), (a, 12), (sc, 17), (ord, 20), (s, 23)]) rfl ?_ ?_ he <;> clear he <;> rw [word_5] <;> omega
theorem amomaxuNr (d a sc ord s : Nat) : Statement (.amomaxuNr d a sc ord s) := fun h _ _ he => by
  have h : (decide (d < 32) && decide (a < 32) && decide (sc < 8) && decide (ord < 4) && decide (s < 2) && decide (sc < 5)) = true := h
  simp only [Bool.and_eq_true, decide_eq_true_eq] at h
  refine of_four (x := word 0x740002B [(d, 7), (a, 12), (sc, 17), (ord, 20), (s, 23)]) rfl ?_ ?_ he <;> clear he <;> rw [word_5] <;> omega
theorem amoswapNr (d a sc ord s : Nat) : Statement (.amoswapNr d a sc ord s) := fun h _ _ he => by
  have h : (decide (d < 32) && decide (a < 32) && decide (sc < 8) && decide (ord < 4) && decide (s < 2) && decide (sc < 5)) = true := h
  simp only [Bool.and_eq_true, decide_eq_true_eq] at h
  refine of_four (x := word 0x840002B [(d, 7), (a, 12), (sc, 17), (ord, 20), (s, 23)]) rfl ?_ ?_ he <;> clear he <;> rw [word_5] <;> omega
theorem amofaddNr (d a sc ord s : Nat) : Statement (.amofaddNr d a sc ord s) := fun h _ _ he => by
  have h : (decide (d < 32) && decide (a < 32) && decide (sc < 8) && decide (ord < 4) && decide (s < 2) && decide (sc < 5)) = true := h
  simp only [Bool.and_eq_true, decide_eq_true_eq] at h
  refine of_four (x := word 0xA40002B [(d, 7), (a, 12), (sc, 17), (ord, 20), (s, 23)]) rfl ?_ ?_ he <;> clear he <;> rw [word_5] <;> omega
theorem fence (sc : Nat) : Statement (.fence sc) := fun h _ _ he => by
  have h : (decide (sc < 8) && decide (sc < 5)) = true := h
  simp only [Bool.and_eq_true, decide_eq_true_eq] at h
  refine of_four (x := word 0xF000002D [(sc, 17)]) rfl ?_ ?_ he <;> clear he <;> rw [word_1] <;> omega
theorem fenceLd (sc : Nat) : Statement (.fenceLd sc) := fun h _ _ he => by
  have h : (decide (sc < 8) && decide (sc < 5)) = true := h
  simp only [Bool.and_eq_true, decide_eq_true_eq] at h
  refine of_four (x := word 0x3000002D [(sc, 17)]) rfl ?_ ?_ he <;> clear he <;> rw [word_1] <;> omega
theorem fenceSl (sc : Nat) : Statement (.fenceSl sc) := fun h _ _ he => by
  have h : (decide (sc < 8) && decide (sc < 5)) = true := h
  simp only [Bool.and_eq_true, decide_eq_true_eq] at h
  refine of_four (x := word 0x4000002D [(sc, 17)]) rfl ?_ ?_ he <;> clear he <;> rw [word_1] <;> omega
theorem fenceSt (sc : Nat) : Statement (.fenceSt sc) := fun h _ _ he => by
  have h : (decide (sc < 8) && decide (sc < 5)) = true := h
  simp only [Bool.and_eq_true, decide_eq_true_eq] at h
  refine of_four (x := word 0x8000002D [(sc, 17)]) rfl ?_ ?_ he <;> clear he <;> rw [word_1] <;> omega
theorem bar (lv : Nat) : Statement (.bar lv) := fun h _ _ he => by
  have h : (decide (lv < 32)) = true := h
  simp only [decide_eq_true_eq] at h
  refine of_four (x := word 0x40002D [(lv, 17)]) rfl ?_ ?_ he <;> clear he <;> rw [word_1] <;> omega
theorem barGen (lv : Nat) : Statement (.barGen lv) := fun h _ _ he => by
  have h : (decide (lv < 32)) = true := h
  simp only [decide_eq_true_eq] at h
  refine of_four (x := word 0x1040002D [(lv, 17)]) rfl ?_ ?_ he <;> clear he <;> rw [word_1] <;> omega
theorem bara (lv : Nat) : Statement (.bara lv) := fun h _ _ he => by
  have h : (decide (lv < 32)) = true := h
  simp only [decide_eq_true_eq] at h
  refine of_four (x := word 0x80002D [(lv, 17)]) rfl ?_ ?_ he <;> clear he <;> rw [word_1] <;> omega
theorem barw (lv : Nat) : Statement (.barw lv) := fun h _ _ he => by
  have h : (decide (lv < 32)) = true := h
  simp only [decide_eq_true_eq] at h
  refine of_four (x := word 0xC0002D [(lv, 17)]) rfl ?_ ?_ he <;> clear he <;> rw [word_1] <;> omega
theorem sclk (d : Nat) : Statement (.sclk d) := fun h _ _ he => by
  have h : (decide (d < 32)) = true := h
  simp only [decide_eq_true_eq] at h
  refine of_four (x := word 0x100002D [(d, 7)]) rfl ?_ ?_ he <;> clear he <;> rw [word_1] <;> omega
theorem sclkInc (d : Nat) : Statement (.sclkInc d) := fun h _ _ he => by
  have h : (decide (d < 32)) = true := h
  simp only [decide_eq_true_eq] at h
  refine of_four (x := word 0x1100002D [(d, 7)]) rfl ?_ ?_ he <;> clear he <;> rw [word_1] <;> omega
theorem send (d a : Nat) : Statement (.send d a) := fun h _ _ he => by
  have h : (decide (d < 32) && decide (a < 32)) = true := h
  simp only [Bool.and_eq_true, decide_eq_true_eq] at h
  refine of_four (x := word 0x31 [(d, 7), (a, 12)]) rfl ?_ ?_ he <;> clear he <;> rw [word_2] <;> omega
theorem recv (d ch la : Nat) : Statement (.recv d ch la) := fun h _ _ he => by
  have h : (decide (d < 32) && decide (ch < 8) && decide (la < 16)) = true := h
  simp only [Bool.and_eq_true, decide_eq_true_eq] at h
  refine of_four (x := word 0x400031 [(d, 7), (ch, 17), (la, 28)]) rfl ?_ ?_ he <;> clear he <;> rw [word_3] <;> omega
theorem recvq (d ch : Nat) : Statement (.recvq d ch) := fun h _ _ he => by
  have h : (decide (d < 32) && decide (ch < 8)) = true := h
  simp only [Bool.and_eq_true, decide_eq_true_eq] at h
  refine of_four (x := word 0x800031 [(d, 7), (ch, 17)]) rfl ?_ ?_ he <;> clear he <;> rw [word_2] <;> omega
theorem pmrg (d a b : Nat) : Statement (.pmrg d a b) := fun h _ _ he => by
  have h : (decide (d < 32) && decide (a < 32) && decide (b < 32)) = true := h
  simp only [Bool.and_eq_true, decide_eq_true_eq] at h
  refine of_four (x := word 0xC00031 [(d, 7), (a, 12), (b, 17)]) rfl ?_ ?_ he <;> clear he <;> rw [word_3] <;> omega
theorem cpy (a : Nat) : Statement (.cpy a) := fun h _ _ he => by
  have h : (decide (a < 32)) = true := h
  simp only [decide_eq_true_eq] at h
  refine of_four (x := word 0x33 [(a, 12)]) rfl ?_ ?_ he <;> clear he <;> rw [word_1] <;> omega
theorem cpym (a : Nat) : Statement (.cpym a) := fun h _ _ he => by
  have h : (decide (a < 32)) = true := h
  simp only [decide_eq_true_eq] at h
  refine of_four (x := word 0x400033 [(a, 12)]) rfl ?_ ?_ he <;> clear he <;> rw [word_1] <;> omega
theorem permit (d a b : Nat) : Statement (.permit d a b) := fun h _ _ he => by
  have h : (decide (d < 32) && decide (a < 32) && decide (b < 32)) = true := h
  simp only [Bool.and_eq_true, decide_eq_true_eq] at h
  refine of_four (x := word 0x800033 [(d, 7), (a, 12), (b, 17)]) rfl ?_ ?_ he <;> clear he <;> rw [word_3] <;> omega
theorem ctwait (d a : Nat) : Statement (.ctwait d a) := fun h _ _ he => by
  have h : (decide (d < 32) && decide (a < 32)) = true := h
  simp only [Bool.and_eq_true, decide_eq_true_eq] at h
  refine of_four (x := word 0x35 [(d, 7), (a, 12)]) rfl ?_ ?_ he <;> clear he <;> rw [word_2] <;> omega
theorem ctwaitAll (d a : Nat) : Statement (.ctwaitAll d a) := fun h _ _ he => by
  have h : (decide (d < 32) && decide (a < 32)) = true := h
  simp only [Bool.and_eq_true, decide_eq_true_eq] at h
  refine of_four (x := word 0x10000035 [(d, 7), (a, 12)]) rfl ?_ ?_ he <;> clear he <;> rw [word_2] <;> omega
theorem ctff (d a : Nat) : Statement (.ctff d a) := fun h _ _ he => by
  have h : (decide (d < 32) && decide (a < 32)) = true := h
  simp only [Bool.and_eq_true, decide_eq_true_eq] at h
  refine of_four (x := word 0x400035 [(d, 7), (a, 12)]) rfl ?_ ?_ he <;> clear he <;> rw [word_2] <;> omega
theorem ctclr (a : Nat) : Statement (.ctclr a) := fun h _ _ he => by
  have h : (decide (a < 32)) = true := h
  simp only [decide_eq_true_eq] at h
  refine of_four (x := word 0x800035 [(a, 12)]) rfl ?_ ?_ he <;> clear he <;> rw [word_1] <;> omega
theorem gang (n : Nat) : Statement (.gang n) := fun h _ _ he => by
  have h : (decide (n < 32) && decide (1 ≤ n) && decide (n < 7)) = true := h
  simp only [Bool.and_eq_true, decide_eq_true_eq] at h
  refine of_four (x := word 0x3B [(n, 17)]) rfl ?_ ?_ he <;> clear he <;> rw [word_1] <;> omega
theorem split : Statement (.split) := fun h _ _ he => by
  refine of_four (x := word 0x40003B []) rfl ?_ ?_ he <;> clear he <;> rw [word_0] <;> omega
theorem halt : Statement (.halt) := fun h _ _ he => by
  refine of_four (x := word 0x80003B []) rfl ?_ ?_ he <;> clear he <;> rw [word_0] <;> omega
theorem haltK (a : Nat) : Statement (.haltK a) := fun h _ _ he => by
  have h : (decide (a < 32)) = true := h
  simp only [decide_eq_true_eq] at h
  refine of_four (x := word 0x1080003B [(a, 12)]) rfl ?_ ?_ he <;> clear he <;> rw [word_1] <;> omega
theorem wait (d a : Nat) : Statement (.wait d a) := fun h _ _ he => by
  have h : (decide (d < 32) && decide (a < 32)) = true := h
  simp only [Bool.and_eq_true, decide_eq_true_eq] at h
  refine of_four (x := word 0xC0003B [(d, 7), (a, 12)]) rfl ?_ ?_ he <;> clear he <;> rw [word_2] <;> omega
theorem yield : Statement (.yield) := fun h _ _ he => by
  refine of_four (x := word 0x100003B []) rfl ?_ ?_ he <;> clear he <;> rw [word_0] <;> omega
theorem spawn (d a b : Nat) : Statement (.spawn d a b) := fun h _ _ he => by
  have h : (decide (d < 32) && decide (a < 32) && decide (b < 32)) = true := h
  simp only [Bool.and_eq_true, decide_eq_true_eq] at h
  refine of_four (x := word 0x140003B [(d, 7), (a, 12), (b, 17)]) rfl ?_ ?_ he <;> clear he <;> rw [word_3] <;> omega
theorem mfs (d a c num : Nat) : Statement (.mfs d a c num) := fun h _ _ he => by
  have h : (decide (d < 32) && decide (a < 32) && decide (c < 32) && decide (num < 512)) = true := h
  simp only [Bool.and_eq_true, decide_eq_true_eq] at h
  refine of_four (x := word 0x71 [(d, 7), (a, 12), (c, 17), (num, 23)]) rfl ?_ ?_ he <;> clear he <;> rw [word_4] <;> omega
theorem mts (d a c num : Nat) : Statement (.mts d a c num) := fun h _ _ he => by
  have h : (decide (d < 32) && decide (a < 32) && decide (c < 32) && decide (num < 512)) = true := h
  simp only [Bool.and_eq_true, decide_eq_true_eq] at h
  refine of_four (x := word 0x400071 [(d, 7), (a, 12), (c, 17), (num, 23)]) rfl ?_ ?_ he <;> clear he <;> rw [word_4] <;> omega
theorem trap (a : Nat) : Statement (.trap a) := fun h _ _ he => by
  have h : (decide (a < 32)) = true := h
  simp only [decide_eq_true_eq] at h
  refine of_four (x := word 0x73 [(a, 12)]) rfl ?_ ?_ he <;> clear he <;> rw [word_1] <;> omega
theorem rft : Statement (.rft) := fun h _ _ he => by
  refine of_four (x := word 0x400073 []) rfl ?_ ?_ he <;> clear he <;> rw [word_0] <;> omega
theorem brk : Statement (.brk) := fun h _ _ he => by
  refine of_four (x := word 0x800073 []) rfl ?_ ?_ he <;> clear he <;> rw [word_0] <;> omega
theorem invx (d a b : Nat) : Statement (.invx d a b) := fun h _ _ he => by
  have h : (decide (d < 32) && decide (a < 32) && decide (b < 32)) = true := h
  simp only [Bool.and_eq_true, decide_eq_true_eq] at h
  refine of_four (x := word 0x75 [(d, 7), (a, 12), (b, 17)]) rfl ?_ ?_ he <;> clear he <;> rw [word_3] <;> omega
theorem kzero (a : Nat) : Statement (.kzero a) := fun h _ _ he => by
  have h : (decide (a < 32)) = true := h
  simp only [decide_eq_true_eq] at h
  refine of_four (x := word 0x400075 [(a, 12)]) rfl ?_ ?_ he <;> clear he <;> rw [word_1] <;> omega
theorem lsclr (d a : Nat) : Statement (.lsclr d a) := fun h _ _ he => by
  have h : (decide (d < 32) && decide (a < 32)) = true := h
  simp only [Bool.and_eq_true, decide_eq_true_eq] at h
  refine of_four (x := word 0x800075 [(d, 7), (a, 12)]) rfl ?_ ?_ he <;> clear he <;> rw [word_2] <;> omega
theorem svcr (d a b : Nat) : Statement (.svcr d a b) := fun h _ _ he => by
  have h : (decide (d < 32) && decide (a < 32) && decide (b < 32)) = true := h
  simp only [Bool.and_eq_true, decide_eq_true_eq] at h
  refine of_four (x := word 0xC00075 [(d, 7), (a, 12), (b, 17)]) rfl ?_ ?_ he <;> clear he <;> rw [word_3] <;> omega
theorem foffer (d a b : Nat) : Statement (.foffer d a b) := fun h _ _ he => by
  have h : (decide (d < 32) && decide (a < 32) && decide (b < 32)) = true := h
  simp only [Bool.and_eq_true, decide_eq_true_eq] at h
  refine of_four (x := word 0x77 [(d, 7), (a, 12), (b, 17)]) rfl ?_ ?_ he <;> clear he <;> rw [word_3] <;> omega
theorem fwithdraw (d a b : Nat) : Statement (.fwithdraw d a b) := fun h _ _ he => by
  have h : (decide (d < 32) && decide (a < 32) && decide (b < 32)) = true := h
  simp only [Bool.and_eq_true, decide_eq_true_eq] at h
  refine of_four (x := word 0x400077 [(d, 7), (a, 12), (b, 17)]) rfl ?_ ?_ he <;> clear he <;> rw [word_3] <;> omega
theorem faccept (d a b : Nat) : Statement (.faccept d a b) := fun h _ _ he => by
  have h : (decide (d < 32) && decide (a < 32) && decide (b < 32)) = true := h
  simp only [Bool.and_eq_true, decide_eq_true_eq] at h
  refine of_four (x := word 0x800077 [(d, 7), (a, 12), (b, 17)]) rfl ?_ ?_ he <;> clear he <;> rw [word_3] <;> omega
theorem flend (d a b : Nat) : Statement (.flend d a b) := fun h _ _ he => by
  have h : (decide (d < 32) && decide (a < 32) && decide (b < 32)) = true := h
  simp only [Bool.and_eq_true, decide_eq_true_eq] at h
  refine of_four (x := word 0xC00077 [(d, 7), (a, 12), (b, 17)]) rfl ?_ ?_ he <;> clear he <;> rw [word_3] <;> omega
theorem frecall (d a b : Nat) : Statement (.frecall d a b) := fun h _ _ he => by
  have h : (decide (d < 32) && decide (a < 32) && decide (b < 32)) = true := h
  simp only [Bool.and_eq_true, decide_eq_true_eq] at h
  refine of_four (x := word 0x1000077 [(d, 7), (a, 12), (b, 17)]) rfl ?_ ?_ he <;> clear he <;> rw [word_3] <;> omega
theorem freturn (d a b : Nat) : Statement (.freturn d a b) := fun h _ _ he => by
  have h : (decide (d < 32) && decide (a < 32) && decide (b < 32)) = true := h
  simp only [Bool.and_eq_true, decide_eq_true_eq] at h
  refine of_four (x := word 0x1400077 [(d, 7), (a, 12), (b, 17)]) rfl ?_ ?_ he <;> clear he <;> rw [word_3] <;> omega
theorem fquery (d a : Nat) : Statement (.fquery d a) := fun h _ _ he => by
  have h : (decide (d < 32) && decide (a < 32) && decide (d < 30)) = true := h
  simp only [Bool.and_eq_true, decide_eq_true_eq] at h
  refine of_four (x := word 0x1800077 [(d, 7), (a, 12)]) rfl ?_ ?_ he <;> clear he <;> rw [word_2] <;> omega
theorem launch (d a b : Nat) : Statement (.launch d a b) := fun h _ _ he => by
  have h : (decide (d < 32) && decide (a < 32) && decide (b < 32)) = true := h
  simp only [Bool.and_eq_true, decide_eq_true_eq] at h
  refine of_four (x := word 0x79 [(d, 7), (a, 12), (b, 17)]) rfl ?_ ?_ he <;> clear he <;> rw [word_3] <;> omega
theorem fcinc (a b : Nat) : Statement (.fcinc a b) := fun h _ _ he => by
  have h : (decide (a < 32) && decide (b < 32)) = true := h
  simp only [Bool.and_eq_true, decide_eq_true_eq] at h
  refine of_four (x := word 0x400079 [(a, 12), (b, 17)]) rfl ?_ ?_ he <;> clear he <;> rw [word_2] <;> omega
theorem fcwait (d a b : Nat) : Statement (.fcwait d a b) := fun h _ _ he => by
  have h : (decide (d < 32) && decide (a < 32) && decide (b < 32)) = true := h
  simp only [Bool.and_eq_true, decide_eq_true_eq] at h
  refine of_four (x := word 0x800079 [(d, 7), (a, 12), (b, 17)]) rfl ?_ ?_ he <;> clear he <;> rw [word_3] <;> omega
theorem fcread (d a : Nat) : Statement (.fcread d a) := fun h _ _ he => by
  have h : (decide (d < 32) && decide (a < 32)) = true := h
  simp only [Bool.and_eq_true, decide_eq_true_eq] at h
  refine of_four (x := word 0xC00079 [(d, 7), (a, 12)]) rfl ?_ ?_ he <;> clear he <;> rw [word_2] <;> omega
theorem vmov16 (d s g : Nat) : Statement (.vmov16 d s g) := fun h _ _ he => by
  have h : (decide (d < 32) && decide (s < 32) && decide (g < 2)) = true := h
  simp only [Bool.and_eq_true, decide_eq_true_eq] at h
  refine of_two (x := word 0x0 [(d, 5), (s, 10), (g, 15)]) rfl ?_ ?_ he <;> clear he <;> rw [word_3] <;> omega
theorem vadd16 (d s g : Nat) : Statement (.vadd16 d s g) := fun h _ _ he => by
  have h : (decide (d < 32) && decide (s < 32) && decide (g < 2)) = true := h
  simp only [Bool.and_eq_true, decide_eq_true_eq] at h
  refine of_two (x := word 0x2 [(d, 5), (s, 10), (g, 15)]) rfl ?_ ?_ he <;> clear he <;> rw [word_3] <;> omega
theorem vsub16 (d s g : Nat) : Statement (.vsub16 d s g) := fun h _ _ he => by
  have h : (decide (d < 32) && decide (s < 32) && decide (g < 2)) = true := h
  simp only [Bool.and_eq_true, decide_eq_true_eq] at h
  refine of_two (x := word 0x4 [(d, 5), (s, 10), (g, 15)]) rfl ?_ ?_ he <;> clear he <;> rw [word_3] <;> omega
theorem vmul16 (d s g : Nat) : Statement (.vmul16 d s g) := fun h _ _ he => by
  have h : (decide (d < 32) && decide (s < 32) && decide (g < 2)) = true := h
  simp only [Bool.and_eq_true, decide_eq_true_eq] at h
  refine of_two (x := word 0x6 [(d, 5), (s, 10), (g, 15)]) rfl ?_ ?_ he <;> clear he <;> rw [word_3] <;> omega
theorem vand16 (d s g : Nat) : Statement (.vand16 d s g) := fun h _ _ he => by
  have h : (decide (d < 32) && decide (s < 32) && decide (g < 2)) = true := h
  simp only [Bool.and_eq_true, decide_eq_true_eq] at h
  refine of_two (x := word 0x8 [(d, 5), (s, 10), (g, 15)]) rfl ?_ ?_ he <;> clear he <;> rw [word_3] <;> omega
theorem vor16 (d s g : Nat) : Statement (.vor16 d s g) := fun h _ _ he => by
  have h : (decide (d < 32) && decide (s < 32) && decide (g < 2)) = true := h
  simp only [Bool.and_eq_true, decide_eq_true_eq] at h
  refine of_two (x := word 0xA [(d, 5), (s, 10), (g, 15)]) rfl ?_ ?_ he <;> clear he <;> rw [word_3] <;> omega
theorem vxor16 (d s g : Nat) : Statement (.vxor16 d s g) := fun h _ _ he => by
  have h : (decide (d < 32) && decide (s < 32) && decide (g < 2)) = true := h
  simp only [Bool.and_eq_true, decide_eq_true_eq] at h
  refine of_two (x := word 0xC [(d, 5), (s, 10), (g, 15)]) rfl ?_ ?_ he <;> clear he <;> rw [word_3] <;> omega
theorem vmin16 (d s g : Nat) : Statement (.vmin16 d s g) := fun h _ _ he => by
  have h : (decide (d < 32) && decide (s < 32) && decide (g < 2)) = true := h
  simp only [Bool.and_eq_true, decide_eq_true_eq] at h
  refine of_two (x := word 0xE [(d, 5), (s, 10), (g, 15)]) rfl ?_ ?_ he <;> clear he <;> rw [word_3] <;> omega
theorem vmax16 (d s g : Nat) : Statement (.vmax16 d s g) := fun h _ _ he => by
  have h : (decide (d < 32) && decide (s < 32) && decide (g < 2)) = true := h
  simp only [Bool.and_eq_true, decide_eq_true_eq] at h
  refine of_two (x := word 0x10 [(d, 5), (s, 10), (g, 15)]) rfl ?_ ?_ he <;> clear he <;> rw [word_3] <;> omega
theorem vshl16 (d s g : Nat) : Statement (.vshl16 d s g) := fun h _ _ he => by
  have h : (decide (d < 32) && decide (s < 32) && decide (g < 2)) = true := h
  simp only [Bool.and_eq_true, decide_eq_true_eq] at h
  refine of_two (x := word 0x12 [(d, 5), (s, 10), (g, 15)]) rfl ?_ ?_ he <;> clear he <;> rw [word_3] <;> omega
theorem vsar16 (d s g : Nat) : Statement (.vsar16 d s g) := fun h _ _ he => by
  have h : (decide (d < 32) && decide (s < 32) && decide (g < 2)) = true := h
  simp only [Bool.and_eq_true, decide_eq_true_eq] at h
  refine of_two (x := word 0x14 [(d, 5), (s, 10), (g, 15)]) rfl ?_ ?_ he <;> clear he <;> rw [word_3] <;> omega
theorem vfadd16 (d s g : Nat) : Statement (.vfadd16 d s g) := fun h _ _ he => by
  have h : (decide (d < 32) && decide (s < 32) && decide (g < 2)) = true := h
  simp only [Bool.and_eq_true, decide_eq_true_eq] at h
  refine of_two (x := word 0x16 [(d, 5), (s, 10), (g, 15)]) rfl ?_ ?_ he <;> clear he <;> rw [word_3] <;> omega
theorem vfsub16 (d s g : Nat) : Statement (.vfsub16 d s g) := fun h _ _ he => by
  have h : (decide (d < 32) && decide (s < 32) && decide (g < 2)) = true := h
  simp only [Bool.and_eq_true, decide_eq_true_eq] at h
  refine of_two (x := word 0x18 [(d, 5), (s, 10), (g, 15)]) rfl ?_ ?_ he <;> clear he <;> rw [word_3] <;> omega
theorem vfmul16 (d s g : Nat) : Statement (.vfmul16 d s g) := fun h _ _ he => by
  have h : (decide (d < 32) && decide (s < 32) && decide (g < 2)) = true := h
  simp only [Bool.and_eq_true, decide_eq_true_eq] at h
  refine of_two (x := word 0x1A [(d, 5), (s, 10), (g, 15)]) rfl ?_ ?_ he <;> clear he <;> rw [word_3] <;> omega
theorem vfmax16 (d s g : Nat) : Statement (.vfmax16 d s g) := fun h _ _ he => by
  have h : (decide (d < 32) && decide (s < 32) && decide (g < 2)) = true := h
  simp only [Bool.and_eq_true, decide_eq_true_eq] at h
  refine of_two (x := word 0x1C [(d, 5), (s, 10), (g, 15)]) rfl ?_ ?_ he <;> clear he <;> rw [word_3] <;> omega
theorem vfmin16 (d s g : Nat) : Statement (.vfmin16 d s g) := fun h _ _ he => by
  have h : (decide (d < 32) && decide (s < 32) && decide (g < 2)) = true := h
  simp only [Bool.and_eq_true, decide_eq_true_eq] at h
  refine of_two (x := word 0x1E [(d, 5), (s, 10), (g, 15)]) rfl ?_ ?_ he <;> clear he <;> rw [word_3] <;> omega
theorem vmov (d x b p z t : Nat) : Statement (.vmov d x b p z t) := fun h _ _ he => by
  have h : (decide (d < 32) && decide (x < 32) && decide (b < 32) && decide (p < 8) && decide (z < 2) && decide (t < 4)) = true := h
  simp only [Bool.and_eq_true, decide_eq_true_eq] at h
  refine of_four (x := word 0x41 [(d, 7), (x, 12), (b, 17), (p, 22), (z, 25), (t, 26)]) rfl ?_ ?_ he <;> clear he <;> rw [word_6] <;> omega
theorem vadd (d a b p z t : Nat) : Statement (.vadd d a b p z t) := fun h _ _ he => by
  have h : (decide (d < 32) && decide (a < 32) && decide (b < 32) && decide (p < 8) && decide (z < 2) && decide (t < 4)) = true := h
  simp only [Bool.and_eq_true, decide_eq_true_eq] at h
  refine of_four (x := word 0x10000041 [(d, 7), (a, 12), (b, 17), (p, 22), (z, 25), (t, 26)]) rfl ?_ ?_ he <;> clear he <;> rw [word_6] <;> omega
theorem vsub (d a b p z t : Nat) : Statement (.vsub d a b p z t) := fun h _ _ he => by
  have h : (decide (d < 32) && decide (a < 32) && decide (b < 32) && decide (p < 8) && decide (z < 2) && decide (t < 4)) = true := h
  simp only [Bool.and_eq_true, decide_eq_true_eq] at h
  refine of_four (x := word 0x20000041 [(d, 7), (a, 12), (b, 17), (p, 22), (z, 25), (t, 26)]) rfl ?_ ?_ he <;> clear he <;> rw [word_6] <;> omega
theorem vmul (d a b p z t : Nat) : Statement (.vmul d a b p z t) := fun h _ _ he => by
  have h : (decide (d < 32) && decide (a < 32) && decide (b < 32) && decide (p < 8) && decide (z < 2) && decide (t < 4)) = true := h
  simp only [Bool.and_eq_true, decide_eq_true_eq] at h
  refine of_four (x := word 0x30000041 [(d, 7), (a, 12), (b, 17), (p, 22), (z, 25), (t, 26)]) rfl ?_ ?_ he <;> clear he <;> rw [word_6] <;> omega
theorem vmulh (d a b p z t : Nat) : Statement (.vmulh d a b p z t) := fun h _ _ he => by
  have h : (decide (d < 32) && decide (a < 32) && decide (b < 32) && decide (p < 8) && decide (z < 2) && decide (t < 4)) = true := h
  simp only [Bool.and_eq_true, decide_eq_true_eq] at h
  refine of_four (x := word 0x40000041 [(d, 7), (a, 12), (b, 17), (p, 22), (z, 25), (t, 26)]) rfl ?_ ?_ he <;> clear he <;> rw [word_6] <;> omega
theorem vmulhU (d a b p z t : Nat) : Statement (.vmulhU d a b p z t) := fun h _ _ he => by
  have h : (decide (d < 32) && decide (a < 32) && decide (b < 32) && decide (p < 8) && decide (z < 2) && decide (t < 4)) = true := h
  simp only [Bool.and_eq_true, decide_eq_true_eq] at h
  refine of_four (x := word 0x50000041 [(d, 7), (a, 12), (b, 17), (p, 22), (z, 25), (t, 26)]) rfl ?_ ?_ he <;> clear he <;> rw [word_6] <;> omega
theorem vmin (d a b p z t : Nat) : Statement (.vmin d a b p z t) := fun h _ _ he => by
  have h : (decide (d < 32) && decide (a < 32) && decide (b < 32) && decide (p < 8) && decide (z < 2) && decide (t < 4)) = true := h
  simp only [Bool.and_eq_true, decide_eq_true_eq] at h
  refine of_four (x := word 0x60000041 [(d, 7), (a, 12), (b, 17), (p, 22), (z, 25), (t, 26)]) rfl ?_ ?_ he <;> clear he <;> rw [word_6] <;> omega
theorem vmax (d a b p z t : Nat) : Statement (.vmax d a b p z t) := fun h _ _ he => by
  have h : (decide (d < 32) && decide (a < 32) && decide (b < 32) && decide (p < 8) && decide (z < 2) && decide (t < 4)) = true := h
  simp only [Bool.and_eq_true, decide_eq_true_eq] at h
  refine of_four (x := word 0x70000041 [(d, 7), (a, 12), (b, 17), (p, 22), (z, 25), (t, 26)]) rfl ?_ ?_ he <;> clear he <;> rw [word_6] <;> omega
theorem vminU (d a b p z t : Nat) : Statement (.vminU d a b p z t) := fun h _ _ he => by
  have h : (decide (d < 32) && decide (a < 32) && decide (b < 32) && decide (p < 8) && decide (z < 2) && decide (t < 4)) = true := h
  simp only [Bool.and_eq_true, decide_eq_true_eq] at h
  refine of_four (x := word 0x80000041 [(d, 7), (a, 12), (b, 17), (p, 22), (z, 25), (t, 26)]) rfl ?_ ?_ he <;> clear he <;> rw [word_6] <;> omega
theorem vmaxU (d a b p z t : Nat) : Statement (.vmaxU d a b p z t) := fun h _ _ he => by
  have h : (decide (d < 32) && decide (a < 32) && decide (b < 32) && decide (p < 8) && decide (z < 2) && decide (t < 4)) = true := h
  simp only [Bool.and_eq_true, decide_eq_true_eq] at h
  refine of_four (x := word 0x90000041 [(d, 7), (a, 12), (b, 17), (p, 22), (z, 25), (t, 26)]) rfl ?_ ?_ he <;> clear he <;> rw [word_6] <;> omega
theorem vaddSat (d a b p z t : Nat) : Statement (.vaddSat d a b p z t) := fun h _ _ he => by
  have h : (decide (d < 32) && decide (a < 32) && decide (b < 32) && decide (p < 8) && decide (z < 2) && decide (t < 4)) = true := h
  simp only [Bool.and_eq_true, decide_eq_true_eq] at h
  refine of_four (x := word 0xA0000041 [(d, 7), (a, 12), (b, 17), (p, 22), (z, 25), (t, 26)]) rfl ?_ ?_ he <;> clear he <;> rw [word_6] <;> omega
theorem vsubSat (d a b p z t : Nat) : Statement (.vsubSat d a b p z t) := fun h _ _ he => by
  have h : (decide (d < 32) && decide (a < 32) && decide (b < 32) && decide (p < 8) && decide (z < 2) && decide (t < 4)) = true := h
  simp only [Bool.and_eq_true, decide_eq_true_eq] at h
  refine of_four (x := word 0xB0000041 [(d, 7), (a, 12), (b, 17), (p, 22), (z, 25), (t, 26)]) rfl ?_ ?_ he <;> clear he <;> rw [word_6] <;> omega
theorem vand (d a b p z t : Nat) : Statement (.vand d a b p z t) := fun h _ _ he => by
  have h : (decide (d < 32) && decide (a < 32) && decide (b < 32) && decide (p < 8) && decide (z < 2) && decide (t < 4)) = true := h
  simp only [Bool.and_eq_true, decide_eq_true_eq] at h
  refine of_four (x := word 0xC0000041 [(d, 7), (a, 12), (b, 17), (p, 22), (z, 25), (t, 26)]) rfl ?_ ?_ he <;> clear he <;> rw [word_6] <;> omega
theorem vor (d a b p z t : Nat) : Statement (.vor d a b p z t) := fun h _ _ he => by
  have h : (decide (d < 32) && decide (a < 32) && decide (b < 32) && decide (p < 8) && decide (z < 2) && decide (t < 4)) = true := h
  simp only [Bool.and_eq_true, decide_eq_true_eq] at h
  refine of_four (x := word 0xD0000041 [(d, 7), (a, 12), (b, 17), (p, 22), (z, 25), (t, 26)]) rfl ?_ ?_ he <;> clear he <;> rw [word_6] <;> omega
theorem vxor (d a b p z t : Nat) : Statement (.vxor d a b p z t) := fun h _ _ he => by
  have h : (decide (d < 32) && decide (a < 32) && decide (b < 32) && decide (p < 8) && decide (z < 2) && decide (t < 4)) = true := h
  simp only [Bool.and_eq_true, decide_eq_true_eq] at h
  refine of_four (x := word 0xE0000041 [(d, 7), (a, 12), (b, 17), (p, 22), (z, 25), (t, 26)]) rfl ?_ ?_ he <;> clear he <;> rw [word_6] <;> omega
theorem vshl (d a b p z t : Nat) : Statement (.vshl d a b p z t) := fun h _ _ he => by
  have h : (decide (d < 32) && decide (a < 32) && decide (b < 32) && decide (p < 8) && decide (z < 2) && decide (t < 4)) = true := h
  simp only [Bool.and_eq_true, decide_eq_true_eq] at h
  refine of_four (x := word 0x43 [(d, 7), (a, 12), (b, 17), (p, 22), (z, 25), (t, 26)]) rfl ?_ ?_ he <;> clear he <;> rw [word_6] <;> omega
theorem vshr (d a b p z t : Nat) : Statement (.vshr d a b p z t) := fun h _ _ he => by
  have h : (decide (d < 32) && decide (a < 32) && decide (b < 32) && decide (p < 8) && decide (z < 2) && decide (t < 4)) = true := h
  simp only [Bool.and_eq_true, decide_eq_true_eq] at h
  refine of_four (x := word 0x10000043 [(d, 7), (a, 12), (b, 17), (p, 22), (z, 25), (t, 26)]) rfl ?_ ?_ he <;> clear he <;> rw [word_6] <;> omega
theorem vsar (d a b p z t : Nat) : Statement (.vsar d a b p z t) := fun h _ _ he => by
  have h : (decide (d < 32) && decide (a < 32) && decide (b < 32) && decide (p < 8) && decide (z < 2) && decide (t < 4)) = true := h
  simp only [Bool.and_eq_true, decide_eq_true_eq] at h
  refine of_four (x := word 0x20000043 [(d, 7), (a, 12), (b, 17), (p, 22), (z, 25), (t, 26)]) rfl ?_ ?_ he <;> clear he <;> rw [word_6] <;> omega
theorem vabs (d a p z t : Nat) : Statement (.vabs d a p z t) := fun h _ _ he => by
  have h : (decide (d < 32) && decide (a < 32) && decide (p < 8) && decide (z < 2) && decide (t < 4)) = true := h
  simp only [Bool.and_eq_true, decide_eq_true_eq] at h
  refine of_four (x := word 0x30000043 [(d, 7), (a, 12), (p, 22), (z, 25), (t, 26)]) rfl ?_ ?_ he <;> clear he <;> rw [word_5] <;> omega
theorem vabsSat (d a p z t : Nat) : Statement (.vabsSat d a p z t) := fun h _ _ he => by
  have h : (decide (d < 32) && decide (a < 32) && decide (p < 8) && decide (z < 2) && decide (t < 4)) = true := h
  simp only [Bool.and_eq_true, decide_eq_true_eq] at h
  refine of_four (x := word 0x40000043 [(d, 7), (a, 12), (p, 22), (z, 25), (t, 26)]) rfl ?_ ?_ he <;> clear he <;> rw [word_5] <;> omega
theorem vcmpEq (d a b p z t : Nat) : Statement (.vcmpEq d a b p z t) := fun h _ _ he => by
  have h : (decide (d < 8) && decide (a < 32) && decide (b < 32) && decide (p < 8) && decide (z < 2) && decide (t < 4)) = true := h
  simp only [Bool.and_eq_true, decide_eq_true_eq] at h
  refine of_four (x := word 0x50000043 [(d, 7), (a, 12), (b, 17), (p, 22), (z, 25), (t, 26)]) rfl ?_ ?_ he <;> clear he <;> rw [word_6] <;> omega
theorem vcmpNe (d a b p z t : Nat) : Statement (.vcmpNe d a b p z t) := fun h _ _ he => by
  have h : (decide (d < 8) && decide (a < 32) && decide (b < 32) && decide (p < 8) && decide (z < 2) && decide (t < 4)) = true := h
  simp only [Bool.and_eq_true, decide_eq_true_eq] at h
  refine of_four (x := word 0x60000043 [(d, 7), (a, 12), (b, 17), (p, 22), (z, 25), (t, 26)]) rfl ?_ ?_ he <;> clear he <;> rw [word_6] <;> omega
theorem vcmpLt (d a b p z t : Nat) : Statement (.vcmpLt d a b p z t) := fun h _ _ he => by
  have h : (decide (d < 8) && decide (a < 32) && decide (b < 32) && decide (p < 8) && decide (z < 2) && decide (t < 4)) = true := h
  simp only [Bool.and_eq_true, decide_eq_true_eq] at h
  refine of_four (x := word 0x70000043 [(d, 7), (a, 12), (b, 17), (p, 22), (z, 25), (t, 26)]) rfl ?_ ?_ he <;> clear he <;> rw [word_6] <;> omega
theorem vcmpGe (d a b p z t : Nat) : Statement (.vcmpGe d a b p z t) := fun h _ _ he => by
  have h : (decide (d < 8) && decide (a < 32) && decide (b < 32) && decide (p < 8) && decide (z < 2) && decide (t < 4)) = true := h
  simp only [Bool.and_eq_true, decide_eq_true_eq] at h
  refine of_four (x := word 0x80000043 [(d, 7), (a, 12), (b, 17), (p, 22), (z, 25), (t, 26)]) rfl ?_ ?_ he <;> clear he <;> rw [word_6] <;> omega
theorem vcmpLtu (d a b p z t : Nat) : Statement (.vcmpLtu d a b p z t) := fun h _ _ he => by
  have h : (decide (d < 8) && decide (a < 32) && decide (b < 32) && decide (p < 8) && decide (z < 2) && decide (t < 4)) = true := h
  simp only [Bool.and_eq_true, decide_eq_true_eq] at h
  refine of_four (x := word 0x90000043 [(d, 7), (a, 12), (b, 17), (p, 22), (z, 25), (t, 26)]) rfl ?_ ?_ he <;> clear he <;> rw [word_6] <;> omega
theorem vcmpGeu (d a b p z t : Nat) : Statement (.vcmpGeu d a b p z t) := fun h _ _ he => by
  have h : (decide (d < 8) && decide (a < 32) && decide (b < 32) && decide (p < 8) && decide (z < 2) && decide (t < 4)) = true := h
  simp only [Bool.and_eq_true, decide_eq_true_eq] at h
  refine of_four (x := word 0xA0000043 [(d, 7), (a, 12), (b, 17), (p, 22), (z, 25), (t, 26)]) rfl ?_ ?_ he <;> clear he <;> rw [word_6] <;> omega
theorem vsel (d a b p t : Nat) : Statement (.vsel d a b p t) := fun h _ _ he => by
  have h : (decide (d < 32) && decide (a < 32) && decide (b < 32) && decide (p < 8) && decide (t < 4)) = true := h
  simp only [Bool.and_eq_true, decide_eq_true_eq] at h
  refine of_four (x := word 0xB0000043 [(d, 7), (a, 12), (b, 17), (p, 22), (t, 26)]) rfl ?_ ?_ he <;> clear he <;> rw [word_5] <;> omega
theorem pand (d a b : Nat) : Statement (.pand d a b) := fun h _ _ he => by
  have h : (decide (d < 8) && decide (a < 8) && decide (b < 8)) = true := h
  simp only [Bool.and_eq_true, decide_eq_true_eq] at h
  refine of_four (x := word 0x45 [(d, 7), (a, 12), (b, 17)]) rfl ?_ ?_ he <;> clear he <;> rw [word_3] <;> omega
theorem por (d a b : Nat) : Statement (.por d a b) := fun h _ _ he => by
  have h : (decide (d < 8) && decide (a < 8) && decide (b < 8)) = true := h
  simp only [Bool.and_eq_true, decide_eq_true_eq] at h
  refine of_four (x := word 0x10000045 [(d, 7), (a, 12), (b, 17)]) rfl ?_ ?_ he <;> clear he <;> rw [word_3] <;> omega
theorem pxor (d a b : Nat) : Statement (.pxor d a b) := fun h _ _ he => by
  have h : (decide (d < 8) && decide (a < 8) && decide (b < 8)) = true := h
  simp only [Bool.and_eq_true, decide_eq_true_eq] at h
  refine of_four (x := word 0x20000045 [(d, 7), (a, 12), (b, 17)]) rfl ?_ ?_ he <;> clear he <;> rw [word_3] <;> omega
theorem pnot (d a : Nat) : Statement (.pnot d a) := fun h _ _ he => by
  have h : (decide (d < 8) && decide (a < 8)) = true := h
  simp only [Bool.and_eq_true, decide_eq_true_eq] at h
  refine of_four (x := word 0x30000045 [(d, 7), (a, 12)]) rfl ?_ ?_ he <;> clear he <;> rw [word_2] <;> omega
theorem pfirst (d a t : Nat) : Statement (.pfirst d a t) := fun h _ _ he => by
  have h : (decide (d < 8) && decide (a < 8) && decide (t < 4)) = true := h
  simp only [Bool.and_eq_true, decide_eq_true_eq] at h
  refine of_four (x := word 0x40000045 [(d, 7), (a, 12), (t, 26)]) rfl ?_ ?_ he <;> clear he <;> rw [word_3] <;> omega
theorem pcnt (d a t : Nat) : Statement (.pcnt d a t) := fun h _ _ he => by
  have h : (decide (d < 32) && decide (a < 8) && decide (t < 4)) = true := h
  simp only [Bool.and_eq_true, decide_eq_true_eq] at h
  refine of_four (x := word 0x50000045 [(d, 7), (a, 12), (t, 26)]) rfl ?_ ?_ he <;> clear he <;> rw [word_3] <;> omega
theorem vqlen (d : Nat) : Statement (.vqlen d) := fun h _ _ he => by
  have h : (decide (d < 32)) = true := h
  simp only [decide_eq_true_eq] at h
  refine of_four (x := word 0x60000045 [(d, 7)]) rfl ?_ ?_ he <;> clear he <;> rw [word_1] <;> omega
theorem vbound (d a b t : Nat) : Statement (.vbound d a b t) := fun h _ _ he => by
  have h : (decide (d < 8) && decide (a < 32) && decide (b < 32) && decide (t < 4)) = true := h
  simp only [Bool.and_eq_true, decide_eq_true_eq] at h
  refine of_four (x := word 0x70000045 [(d, 7), (a, 12), (b, 17), (t, 26)]) rfl ?_ ?_ he <;> clear he <;> rw [word_4] <;> omega
theorem vbcast (d a p z t : Nat) : Statement (.vbcast d a p z t) := fun h _ _ he => by
  have h : (decide (d < 32) && decide (a < 32) && decide (p < 8) && decide (z < 2) && decide (t < 4)) = true := h
  simp only [Bool.and_eq_true, decide_eq_true_eq] at h
  refine of_four (x := word 0x47 [(d, 7), (a, 12), (p, 22), (z, 25), (t, 26)]) rfl ?_ ?_ he <;> clear he <;> rw [word_5] <;> omega
theorem vext (d a b t : Nat) : Statement (.vext d a b t) := fun h _ _ he => by
  have h : (decide (d < 32) && decide (a < 32) && decide (b < 32) && decide (t < 4)) = true := h
  simp only [Bool.and_eq_true, decide_eq_true_eq] at h
  refine of_four (x := word 0x10000047 [(d, 7), (a, 12), (b, 17), (t, 26)]) rfl ?_ ?_ he <;> clear he <;> rw [word_4] <;> omega
theorem vextSx (d a b t : Nat) : Statement (.vextSx d a b t) := fun h _ _ he => by
  have h : (decide (d < 32) && decide (a < 32) && decide (b < 32) && decide (t < 4)) = true := h
  simp only [Bool.and_eq_true, decide_eq_true_eq] at h
  refine of_four (x := word 0x20000047 [(d, 7), (a, 12), (b, 17), (t, 26)]) rfl ?_ ?_ he <;> clear he <;> rw [word_4] <;> omega
theorem vins (d a b t : Nat) : Statement (.vins d a b t) := fun h _ _ he => by
  have h : (decide (d < 32) && decide (a < 32) && decide (b < 32) && decide (t < 4)) = true := h
  simp only [Bool.and_eq_true, decide_eq_true_eq] at h
  refine of_four (x := word 0x30000047 [(d, 7), (a, 12), (b, 17), (t, 26)]) rfl ?_ ?_ he <;> clear he <;> rw [word_4] <;> omega
theorem vperm (d a b p z t : Nat) : Statement (.vperm d a b p z t) := fun h _ _ he => by
  have h : (decide (d < 32) && decide (a < 32) && decide (b < 32) && decide (p < 8) && decide (z < 2) && decide (t < 4)) = true := h
  simp only [Bool.and_eq_true, decide_eq_true_eq] at h
  refine of_four (x := word 0x53 [(d, 7), (a, 12), (b, 17), (p, 22), (z, 25), (t, 26)]) rfl ?_ ?_ he <;> clear he <;> rw [word_6] <;> omega
theorem vred (d a p t op : Nat) : Statement (.vred d a p t op) := fun h _ _ he => by
  have h : (decide (d < 32) && decide (a < 32) && decide (p < 8) && decide (t < 4) && decide (op < 8)) = true := h
  simp only [Bool.and_eq_true, decide_eq_true_eq] at h
  refine of_four (x := word 0x55 [(d, 7), (a, 12), (p, 22), (t, 26), (op, 28)]) rfl ?_ ?_ he <;> clear he <;> rw [word_5] <;> omega
theorem vscan (d a p z t op : Nat) : Statement (.vscan d a p z t op) := fun h _ _ he => by
  have h : (decide (d < 32) && decide (a < 32) && decide (p < 8) && decide (z < 2) && decide (t < 4) && decide (op < 8)) = true := h
  simp only [Bool.and_eq_true, decide_eq_true_eq] at h
  refine of_four (x := word 0x80000055 [(d, 7), (a, 12), (p, 22), (z, 25), (t, 26), (op, 28)]) rfl ?_ ?_ he <;> clear he <;> rw [word_6] <;> omega
theorem vld (d a p z t la : Nat) : Statement (.vld d a p z t la) := fun h _ _ he => by
  have h : (decide (d < 32) && decide (a < 32) && decide (p < 8) && decide (z < 2) && decide (t < 4) && decide (la < 16)) = true := h
  simp only [Bool.and_eq_true, decide_eq_true_eq] at h
  refine of_four (x := word 0x57 [(d, 7), (a, 12), (p, 22), (z, 25), (t, 26), (la, 28)]) rfl ?_ ?_ he <;> clear he <;> rw [word_6] <;> omega
theorem vlds (d a p z t la : Nat) : Statement (.vlds d a p z t la) := fun h _ _ he => by
  have h : (decide (d < 32) && decide (a < 32) && decide (p < 8) && decide (z < 2) && decide (t < 4) && decide (la < 16) && decide (a < 31)) = true := h
  simp only [Bool.and_eq_true, decide_eq_true_eq] at h
  refine of_four (x := word 0x20057 [(d, 7), (a, 12), (p, 22), (z, 25), (t, 26), (la, 28)]) rfl ?_ ?_ he <;> clear he <;> rw [word_6] <;> omega
theorem vgath (d a b p z t la : Nat) : Statement (.vgath d a b p z t la) := fun h _ _ he => by
  have h : (decide (d < 32) && decide (a < 32) && decide (b < 32) && decide (p < 8) && decide (z < 2) && decide (t < 4) && decide (la < 16) && decide (2 ≤ b)) = true := h
  simp only [Bool.and_eq_true, decide_eq_true_eq] at h
  refine of_four (x := word 0x57 [(d, 7), (a, 12), (b, 17), (p, 22), (z, 25), (t, 26), (la, 28)]) rfl ?_ ?_ he <;> clear he <;> rw [word_7] <;> omega
theorem vst (d a p t : Nat) : Statement (.vst d a p t) := fun h _ _ he => by
  have h : (decide (d < 32) && decide (a < 32) && decide (p < 8) && decide (t < 4)) = true := h
  simp only [Bool.and_eq_true, decide_eq_true_eq] at h
  refine of_four (x := word 0x59 [(d, 7), (a, 12), (p, 22), (t, 26)]) rfl ?_ ?_ he <;> clear he <;> rw [word_4] <;> omega
theorem vsts (d a b p t : Nat) : Statement (.vsts d a b p t) := fun h _ _ he => by
  have h : (decide (d < 32) && decide (a < 32) && decide (b < 32) && decide (p < 8) && decide (t < 4)) = true := h
  simp only [Bool.and_eq_true, decide_eq_true_eq] at h
  refine of_four (x := word 0x10000059 [(d, 7), (a, 12), (b, 17), (p, 22), (t, 26)]) rfl ?_ ?_ he <;> clear he <;> rw [word_5] <;> omega
theorem vscat (d a b p t : Nat) : Statement (.vscat d a b p t) := fun h _ _ he => by
  have h : (decide (d < 32) && decide (a < 32) && decide (b < 32) && decide (p < 8) && decide (t < 4)) = true := h
  simp only [Bool.and_eq_true, decide_eq_true_eq] at h
  refine of_four (x := word 0x20000059 [(d, 7), (a, 12), (b, 17), (p, 22), (t, 26)]) rfl ?_ ?_ he <;> clear he <;> rw [word_5] <;> omega
theorem vfadd (d a b p z t : Nat) : Statement (.vfadd d a b p z t) := fun h _ _ he => by
  have h : (decide (d < 32) && decide (a < 32) && decide (b < 32) && decide (p < 8) && decide (z < 2) && decide (t < 4) && decide (t < 3)) = true := h
  simp only [Bool.and_eq_true, decide_eq_true_eq] at h
  refine of_four (x := word 0x49 [(d, 7), (a, 12), (b, 17), (p, 22), (z, 25), (t, 26)]) rfl ?_ ?_ he <;> clear he <;> rw [word_6] <;> omega
theorem vfsub (d a b p z t : Nat) : Statement (.vfsub d a b p z t) := fun h _ _ he => by
  have h : (decide (d < 32) && decide (a < 32) && decide (b < 32) && decide (p < 8) && decide (z < 2) && decide (t < 4) && decide (t < 3)) = true := h
  simp only [Bool.and_eq_true, decide_eq_true_eq] at h
  refine of_four (x := word 0x10000049 [(d, 7), (a, 12), (b, 17), (p, 22), (z, 25), (t, 26)]) rfl ?_ ?_ he <;> clear he <;> rw [word_6] <;> omega
theorem vfmul (d a b p z t : Nat) : Statement (.vfmul d a b p z t) := fun h _ _ he => by
  have h : (decide (d < 32) && decide (a < 32) && decide (b < 32) && decide (p < 8) && decide (z < 2) && decide (t < 4) && decide (t < 3)) = true := h
  simp only [Bool.and_eq_true, decide_eq_true_eq] at h
  refine of_four (x := word 0x20000049 [(d, 7), (a, 12), (b, 17), (p, 22), (z, 25), (t, 26)]) rfl ?_ ?_ he <;> clear he <;> rw [word_6] <;> omega
theorem vfmin (d a b p z t : Nat) : Statement (.vfmin d a b p z t) := fun h _ _ he => by
  have h : (decide (d < 32) && decide (a < 32) && decide (b < 32) && decide (p < 8) && decide (z < 2) && decide (t < 4) && decide (t < 3)) = true := h
  simp only [Bool.and_eq_true, decide_eq_true_eq] at h
  refine of_four (x := word 0x30000049 [(d, 7), (a, 12), (b, 17), (p, 22), (z, 25), (t, 26)]) rfl ?_ ?_ he <;> clear he <;> rw [word_6] <;> omega
theorem vfmax (d a b p z t : Nat) : Statement (.vfmax d a b p z t) := fun h _ _ he => by
  have h : (decide (d < 32) && decide (a < 32) && decide (b < 32) && decide (p < 8) && decide (z < 2) && decide (t < 4) && decide (t < 3)) = true := h
  simp only [Bool.and_eq_true, decide_eq_true_eq] at h
  refine of_four (x := word 0x40000049 [(d, 7), (a, 12), (b, 17), (p, 22), (z, 25), (t, 26)]) rfl ?_ ?_ he <;> clear he <;> rw [word_6] <;> omega
theorem vfcmpEq (d a b p z t : Nat) : Statement (.vfcmpEq d a b p z t) := fun h _ _ he => by
  have h : (decide (d < 8) && decide (a < 32) && decide (b < 32) && decide (p < 8) && decide (z < 2) && decide (t < 4) && decide (t < 3)) = true := h
  simp only [Bool.and_eq_true, decide_eq_true_eq] at h
  refine of_four (x := word 0x50000049 [(d, 7), (a, 12), (b, 17), (p, 22), (z, 25), (t, 26)]) rfl ?_ ?_ he <;> clear he <;> rw [word_6] <;> omega
theorem vfcmpNe (d a b p z t : Nat) : Statement (.vfcmpNe d a b p z t) := fun h _ _ he => by
  have h : (decide (d < 8) && decide (a < 32) && decide (b < 32) && decide (p < 8) && decide (z < 2) && decide (t < 4) && decide (t < 3)) = true := h
  simp only [Bool.and_eq_true, decide_eq_true_eq] at h
  refine of_four (x := word 0x60000049 [(d, 7), (a, 12), (b, 17), (p, 22), (z, 25), (t, 26)]) rfl ?_ ?_ he <;> clear he <;> rw [word_6] <;> omega
theorem vfcmpLt (d a b p z t : Nat) : Statement (.vfcmpLt d a b p z t) := fun h _ _ he => by
  have h : (decide (d < 8) && decide (a < 32) && decide (b < 32) && decide (p < 8) && decide (z < 2) && decide (t < 4) && decide (t < 3)) = true := h
  simp only [Bool.and_eq_true, decide_eq_true_eq] at h
  refine of_four (x := word 0x70000049 [(d, 7), (a, 12), (b, 17), (p, 22), (z, 25), (t, 26)]) rfl ?_ ?_ he <;> clear he <;> rw [word_6] <;> omega
theorem vfcmpLe (d a b p z t : Nat) : Statement (.vfcmpLe d a b p z t) := fun h _ _ he => by
  have h : (decide (d < 8) && decide (a < 32) && decide (b < 32) && decide (p < 8) && decide (z < 2) && decide (t < 4) && decide (t < 3)) = true := h
  simp only [Bool.and_eq_true, decide_eq_true_eq] at h
  refine of_four (x := word 0x80000049 [(d, 7), (a, 12), (b, 17), (p, 22), (z, 25), (t, 26)]) rfl ?_ ?_ he <;> clear he <;> rw [word_6] <;> omega
theorem vfcmpGt (d a b p z t : Nat) : Statement (.vfcmpGt d a b p z t) := fun h _ _ he => by
  have h : (decide (d < 8) && decide (a < 32) && decide (b < 32) && decide (p < 8) && decide (z < 2) && decide (t < 4) && decide (t < 3)) = true := h
  simp only [Bool.and_eq_true, decide_eq_true_eq] at h
  refine of_four (x := word 0x90000049 [(d, 7), (a, 12), (b, 17), (p, 22), (z, 25), (t, 26)]) rfl ?_ ?_ he <;> clear he <;> rw [word_6] <;> omega
theorem vfcmpGe (d a b p z t : Nat) : Statement (.vfcmpGe d a b p z t) := fun h _ _ he => by
  have h : (decide (d < 8) && decide (a < 32) && decide (b < 32) && decide (p < 8) && decide (z < 2) && decide (t < 4) && decide (t < 3)) = true := h
  simp only [Bool.and_eq_true, decide_eq_true_eq] at h
  refine of_four (x := word 0xA0000049 [(d, 7), (a, 12), (b, 17), (p, 22), (z, 25), (t, 26)]) rfl ?_ ?_ he <;> clear he <;> rw [word_6] <;> omega
theorem vfcmpUn (d a b p z t : Nat) : Statement (.vfcmpUn d a b p z t) := fun h _ _ he => by
  have h : (decide (d < 8) && decide (a < 32) && decide (b < 32) && decide (p < 8) && decide (z < 2) && decide (t < 4) && decide (t < 3)) = true := h
  simp only [Bool.and_eq_true, decide_eq_true_eq] at h
  refine of_four (x := word 0xB0000049 [(d, 7), (a, 12), (b, 17), (p, 22), (z, 25), (t, 26)]) rfl ?_ ?_ he <;> clear he <;> rw [word_6] <;> omega
theorem vfma (d a b p z t np na : Nat) : Statement (.vfma d a b p z t np na) := fun h _ _ he => by
  have h : (decide (d < 32) && decide (a < 32) && decide (b < 32) && decide (p < 8) && decide (z < 2) && decide (t < 4) && decide (np < 2) && decide (na < 2) && decide (t < 3)) = true := h
  simp only [Bool.and_eq_true, decide_eq_true_eq] at h
  refine of_four (x := word 0x4B [(d, 7), (a, 12), (b, 17), (p, 22), (z, 25), (t, 26), (np, 28), (na, 29)]) rfl ?_ ?_ he <;> clear he <;> rw [word_8] <;> omega
theorem vcvt (d a src sat p z mode dst : Nat) : Statement (.vcvt d a src sat p z mode dst) := fun h _ _ he => by
  have h : (decide (d < 32) && decide (a < 32) && decide (src < 16) && decide (sat < 2) && decide (p < 8) && decide (z < 2) && decide (mode < 4) && decide (dst < 16) && decide (dst < 9) && decide (src < 9) && decide (mode < 3)) = true := h
  simp only [Bool.and_eq_true, decide_eq_true_eq] at h
  refine of_four (x := word 0x4D [(d, 7), (a, 12), (src, 17), (sat, 21), (p, 22), (z, 25), (mode, 26), (dst, 28)]) rfl ?_ ?_ he <;> clear he <;> rw [word_8] <;> omega
theorem vdot (d a b fmt sat la : Nat) : Statement (.vdot d a b fmt sat la) := fun h _ _ he => by
  have h : (decide (d < 32) && decide (a < 32) && decide (b < 32) && decide (fmt < 8) && decide (sat < 2) && decide (la < 16)) = true := h
  simp only [Bool.and_eq_true, decide_eq_true_eq] at h
  refine of_four (x := word 0x4F [(d, 7), (a, 12), (b, 17), (fmt, 22), (sat, 26), (la, 28)]) rfl ?_ ?_ he <;> clear he <;> rw [word_6] <;> omega
theorem vclmul (d a b hi la : Nat) : Statement (.vclmul d a b hi la) := fun h _ _ he => by
  have h : (decide (d < 32) && decide (a < 32) && decide (b < 32) && decide (hi < 2) && decide (la < 16)) = true := h
  simp only [Bool.and_eq_true, decide_eq_true_eq] at h
  refine of_four (x := word 0x800004F [(d, 7), (a, 12), (b, 17), (hi, 25), (la, 28)]) rfl ?_ ?_ he <;> clear he <;> rw [word_5] <;> omega
theorem vsfn (d a fn p z t la : Nat) : Statement (.vsfn d a fn p z t la) := fun h _ _ he => by
  have h : (decide (d < 32) && decide (a < 32) && decide (fn < 32) && decide (p < 8) && decide (z < 2) && decide (t < 4) && decide (la < 16) && decide (t < 3) && decide (fn < 8)) = true := h
  simp only [Bool.and_eq_true, decide_eq_true_eq] at h
  refine of_four (x := word 0x51 [(d, 7), (a, 12), (fn, 17), (p, 22), (z, 25), (t, 26), (la, 28)]) rfl ?_ ?_ he <;> clear he <;> rw [word_7] <;> omega
theorem tmma (acc dA dB fA fB la : Nat) : Statement (.tmma acc dA dB fA fB la) := fun h _ _ he => by
  have h : (decide (acc < 4) && decide (dA < 64) && decide (dB < 64) && decide (fA < 4) && decide (fB < 4) && decide (la < 16)) = true := h
  simp only [Bool.and_eq_true, decide_eq_true_eq] at h
  refine of_four (x := word 0x61 [(acc, 7), (dA, 9), (dB, 15), (fA, 21), (fB, 23), (la, 28)]) rfl ?_ ?_ he <;> clear he <;> rw [word_6] <;> omega
theorem tmmaSat (acc dA dB fA fB la : Nat) : Statement (.tmmaSat acc dA dB fA fB la) := fun h _ _ he => by
  have h : (decide (acc < 4) && decide (dA < 64) && decide (dB < 64) && decide (fA < 4) && decide (fB < 4) && decide (la < 16)) = true := h
  simp only [Bool.and_eq_true, decide_eq_true_eq] at h
  refine of_four (x := word 0x2000061 [(acc, 7), (dA, 9), (dB, 15), (fA, 21), (fB, 23), (la, 28)]) rfl ?_ ?_ he <;> clear he <;> rw [word_6] <;> omega
theorem tmmac (acc dA dB fA fB la : Nat) : Statement (.tmmac acc dA dB fA fB la) := fun h _ _ he => by
  have h : (decide (acc < 4) && decide (dA < 64) && decide (dB < 64) && decide (fA < 4) && decide (fB < 4) && decide (la < 16)) = true := h
  simp only [Bool.and_eq_true, decide_eq_true_eq] at h
  refine of_four (x := word 0x4000061 [(acc, 7), (dA, 9), (dB, 15), (fA, 21), (fB, 23), (la, 28)]) rfl ?_ ?_ he <;> clear he <;> rw [word_6] <;> omega
theorem tmmacSat (acc dA dB fA fB la : Nat) : Statement (.tmmacSat acc dA dB fA fB la) := fun h _ _ he => by
  have h : (decide (acc < 4) && decide (dA < 64) && decide (dB < 64) && decide (fA < 4) && decide (fB < 4) && decide (la < 16)) = true := h
  simp only [Bool.and_eq_true, decide_eq_true_eq] at h
  refine of_four (x := word 0x6000061 [(acc, 7), (dA, 9), (dB, 15), (fA, 21), (fB, 23), (la, 28)]) rfl ?_ ?_ he <;> clear he <;> rw [word_6] <;> omega
theorem tmmx (acc dA dB fA fB la : Nat) : Statement (.tmmx acc dA dB fA fB la) := fun h _ _ he => by
  have h : (decide (acc < 4) && decide (dA < 64) && decide (dB < 64) && decide (fA < 4) && decide (fB < 4) && decide (la < 16)) = true := h
  simp only [Bool.and_eq_true, decide_eq_true_eq] at h
  refine of_four (x := word 0x8000061 [(acc, 7), (dA, 9), (dB, 15), (fA, 21), (fB, 23), (la, 28)]) rfl ?_ ?_ he <;> clear he <;> rw [word_6] <;> omega
theorem tadd (acc dA fA la : Nat) : Statement (.tadd acc dA fA la) := fun h _ _ he => by
  have h : (decide (acc < 4) && decide (dA < 64) && decide (fA < 4) && decide (la < 16)) = true := h
  simp only [Bool.and_eq_true, decide_eq_true_eq] at h
  refine of_four (x := word 0x63 [(acc, 7), (dA, 9), (fA, 21), (la, 28)]) rfl ?_ ?_ he <;> clear he <;> rw [word_4] <;> omega
theorem tmul (acc dA fA la : Nat) : Statement (.tmul acc dA fA la) := fun h _ _ he => by
  have h : (decide (acc < 4) && decide (dA < 64) && decide (fA < 4) && decide (la < 16)) = true := h
  simp only [Bool.and_eq_true, decide_eq_true_eq] at h
  refine of_four (x := word 0x2000063 [(acc, 7), (dA, 9), (fA, 21), (la, 28)]) rfl ?_ ?_ he <;> clear he <;> rw [word_4] <;> omega
theorem tact (acc fn la : Nat) : Statement (.tact acc fn la) := fun h _ _ he => by
  have h : (decide (acc < 4) && decide (fn < 64) && decide (la < 16) && decide (fn < 4)) = true := h
  simp only [Bool.and_eq_true, decide_eq_true_eq] at h
  refine of_four (x := word 0x4000063 [(acc, 7), (fn, 15), (la, 28)]) rfl ?_ ?_ he <;> clear he <;> rw [word_3] <;> omega
theorem tred (acc fn la : Nat) : Statement (.tred acc fn la) := fun h _ _ he => by
  have h : (decide (acc < 4) && decide (fn < 64) && decide (la < 16) && decide (fn < 2)) = true := h
  simp only [Bool.and_eq_true, decide_eq_true_eq] at h
  refine of_four (x := word 0x6000063 [(acc, 7), (fn, 15), (la, 28)]) rfl ?_ ?_ he <;> clear he <;> rw [word_3] <;> omega
theorem ttrn (acc la : Nat) : Statement (.ttrn acc la) := fun h _ _ he => by
  have h : (decide (acc < 4) && decide (la < 16)) = true := h
  simp only [Bool.and_eq_true, decide_eq_true_eq] at h
  refine of_four (x := word 0x8000063 [(acc, 7), (la, 28)]) rfl ?_ ?_ he <;> clear he <;> rw [word_2] <;> omega
theorem tcvt (acc ty mode la : Nat) : Statement (.tcvt acc ty mode la) := fun h _ _ he => by
  have h : (decide (acc < 4) && decide (ty < 2) && decide (mode < 4) && decide (la < 16) && decide (mode < 3)) = true := h
  simp only [Bool.and_eq_true, decide_eq_true_eq] at h
  refine of_four (x := word 0xA000063 [(acc, 7), (ty, 21), (mode, 22), (la, 28)]) rfl ?_ ?_ he <;> clear he <;> rw [word_4] <;> omega
theorem tzero (acc ty la : Nat) : Statement (.tzero acc ty la) := fun h _ _ he => by
  have h : (decide (acc < 4) && decide (ty < 2) && decide (la < 16)) = true := h
  simp only [Bool.and_eq_true, decide_eq_true_eq] at h
  refine of_four (x := word 0x65 [(acc, 7), (ty, 21), (la, 28)]) rfl ?_ ?_ he <;> clear he <;> rw [word_3] <;> omega
theorem tst (acc dA sat mode la : Nat) : Statement (.tst acc dA sat mode la) := fun h _ _ he => by
  have h : (decide (acc < 4) && decide (dA < 64) && decide (sat < 2) && decide (mode < 4) && decide (la < 16) && decide (mode < 3)) = true := h
  simp only [Bool.and_eq_true, decide_eq_true_eq] at h
  refine of_four (x := word 0x2000065 [(acc, 7), (dA, 9), (sat, 21), (mode, 22), (la, 28)]) rfl ?_ ?_ he <;> clear he <;> rw [word_5] <;> omega
theorem tdesc (dA ra la : Nat) : Statement (.tdesc dA ra la) := fun h _ _ he => by
  have h : (decide (dA < 64) && decide (ra < 32) && decide (la < 16)) = true := h
  simp only [Bool.and_eq_true, decide_eq_true_eq] at h
  refine of_four (x := word 0x67 [(dA, 9), (ra, 15), (la, 28)]) rfl ?_ ?_ he <;> clear he <;> rw [word_3] <;> omega
theorem tdrd (dA ra la : Nat) : Statement (.tdrd dA ra la) := fun h _ _ he => by
  have h : (decide (dA < 64) && decide (ra < 32) && decide (la < 16)) = true := h
  simp only [Bool.and_eq_true, decide_eq_true_eq] at h
  refine of_four (x := word 0x2000067 [(dA, 9), (ra, 15), (la, 28)]) rfl ?_ ?_ he <;> clear he <;> rw [word_3] <;> omega
theorem tuprog (ra la : Nat) : Statement (.tuprog ra la) := fun h _ _ he => by
  have h : (decide (ra < 32) && decide (la < 16)) = true := h
  simp only [Bool.and_eq_true, decide_eq_true_eq] at h
  refine of_four (x := word 0x4000067 [(ra, 15), (la, 28)]) rfl ?_ ?_ he <;> clear he <;> rw [word_2] <;> omega
theorem trec : Statement (.trec) := fun h _ _ he => by
  refine of_four (x := word 0x69 []) rfl ?_ ?_ he <;> clear he <;> rw [word_0] <;> omega
theorem trece : Statement (.trece) := fun h _ _ he => by
  refine of_four (x := word 0x2000069 []) rfl ?_ ?_ he <;> clear he <;> rw [word_0] <;> omega
theorem tmark (ra : Nat) : Statement (.tmark ra) := fun h _ _ he => by
  have h : (decide (ra < 32)) = true := h
  simp only [decide_eq_true_eq] at h
  refine of_four (x := word 0x4000069 [(ra, 15)]) rfl ?_ ?_ he <;> clear he <;> rw [word_1] <;> omega
theorem trev (la : Nat) : Statement (.trev la) := fun h _ _ he => by
  have h : (decide (la < 16)) = true := h
  simp only [decide_eq_true_eq] at h
  refine of_four (x := word 0x6000069 [(la, 28)]) rfl ?_ ?_ he <;> clear he <;> rw [word_1] <;> omega
theorem tlogq (ra : Nat) : Statement (.tlogq ra) := fun h _ _ he => by
  have h : (decide (ra < 32)) = true := h
  simp only [decide_eq_true_eq] at h
  refine of_four (x := word 0x8000069 [(ra, 15)]) rfl ?_ ?_ he <;> clear he <;> rw [word_1] <;> omega
theorem coldReset : Statement .coldReset := fun _ _ _ he => nomatch he
theorem warmReset : Statement .warmReset := fun _ _ _ he => nomatch he
theorem clkLoad : Statement .clkLoad := fun _ _ _ he => nomatch he
theorem passengerRelock : Statement .passengerRelock := fun _ _ _ he => nomatch he
theorem ptpExchange : Statement .ptpExchange := fun _ _ _ he => nomatch he
theorem ptpExchangeFail : Statement .ptpExchangeFail := fun _ _ _ he => nomatch he
theorem dtimeWrap : Statement .dtimeWrap := fun _ _ _ he => nomatch he
theorem timeRoleWrite : Statement .timeRoleWrite := fun _ _ _ he => nomatch he
theorem fenceTokenReturn : Statement .fenceTokenReturn := fun _ _ _ he => nomatch he
theorem parapetThrottle : Statement .parapetThrottle := fun _ _ _ he => nomatch he
theorem temperatureTrip : Statement .temperatureTrip := fun _ _ _ he => nomatch he
theorem parCapWrite : Statement .parCapWrite := fun _ _ _ he => nomatch he
theorem spdmGetVersion : Statement .spdmGetVersion := fun _ _ _ he => nomatch he
theorem spdmGetCapabilities : Statement .spdmGetCapabilities := fun _ _ _ he => nomatch he
theorem spdmNegotiateAlgorithms : Statement .spdmNegotiateAlgorithms := fun _ _ _ he => nomatch he
theorem spdmGetDigests : Statement .spdmGetDigests := fun _ _ _ he => nomatch he
theorem spdmGetCertificate : Statement .spdmGetCertificate := fun _ _ _ he => nomatch he
theorem spdmChallenge : Statement .spdmChallenge := fun _ _ _ he => nomatch he
theorem spdmGetMeasurements : Statement .spdmGetMeasurements := fun _ _ _ he => nomatch he
theorem spdmKeyExchange : Statement .spdmKeyExchange := fun _ _ _ he => nomatch he
theorem fwRecoveryImage : Statement .fwRecoveryImage := fun _ _ _ he => nomatch he
theorem linkFlitReceive : Statement .linkFlitReceive := fun _ _ _ he => nomatch he
theorem flitReplay : Statement .flitReplay := fun _ _ _ he => nomatch he
theorem linkDown : Statement .linkDown := fun _ _ _ he => nomatch he
theorem linkTrainingDone : Statement .linkTrainingDone := fun _ _ _ he => nomatch he
theorem portEnable : Statement .portEnable := fun _ _ _ he => nomatch he
theorem portDisable : Statement .portDisable := fun _ _ _ he => nomatch he
theorem portRetrainTimer : Statement .portRetrainTimer := fun _ _ _ he => nomatch he
theorem fabNodeWrite : Statement .fabNodeWrite := fun _ _ _ he => nomatch he
theorem remoteAccessInbound : Statement .remoteAccessInbound := fun _ _ _ he => nomatch he
theorem collQbWrite : Statement .collQbWrite := fun _ _ _ he => nomatch he
theorem collAllreduce : Statement .collAllreduce := fun _ _ _ he => nomatch he
theorem collPut : Statement .collPut := fun _ _ _ he => nomatch he
theorem allreduceComplete : Statement .allreduceComplete := fun _ _ _ he => nomatch he
theorem collTimeout : Statement .collTimeout := fun _ _ _ he => nomatch he
theorem collMemberLost : Statement .collMemberLost := fun _ _ _ he => nomatch he
theorem putReceive : Statement .putReceive := fun _ _ _ he => nomatch he
theorem ethFrameReceive : Statement .ethFrameReceive := fun _ _ _ he => nomatch he
theorem ingTailReread : Statement .ingTailReread := fun _ _ _ he => nomatch he
theorem pfcXoffResend : Statement .pfcXoffResend := fun _ _ _ he => nomatch he
theorem ingRuleLoad : Statement .ingRuleLoad := fun _ _ _ he => nomatch he
theorem ingRctlWrite : Statement .ingRctlWrite := fun _ _ _ he => nomatch he
theorem poolHclr : Statement .poolHclr := fun _ _ _ he => nomatch he
theorem poolFailure : Statement .poolFailure := fun _ _ _ he => nomatch he
theorem hostCxlMemAccess : Statement .hostCxlMemAccess := fun _ _ _ he => nomatch he
theorem hcwEnable : Statement .hcwEnable := fun _ _ _ he => nomatch he
theorem hcwDisable : Statement .hcwDisable := fun _ _ _ he => nomatch he
theorem hcwNop : Statement .hcwNop := fun _ _ _ he => nomatch he
theorem hcwBadop : Statement .hcwBadop := fun _ _ _ he => nomatch he
theorem hcwFoffer : Statement .hcwFoffer := fun _ _ _ he => nomatch he
theorem hcwFwithdraw : Statement .hcwFwithdraw := fun _ _ _ he => nomatch he
theorem hcwFaccept : Statement .hcwFaccept := fun _ _ _ he => nomatch he
theorem hcwFlend : Statement .hcwFlend := fun _ _ _ he => nomatch he
theorem hcwFrecall : Statement .hcwFrecall := fun _ _ _ he => nomatch he
theorem hcwFreturn : Statement .hcwFreturn := fun _ _ _ he => nomatch he
theorem hcwFquery : Statement .hcwFquery := fun _ _ _ he => nomatch he
theorem hcwClkplan : Statement .hcwClkplan := fun _ _ _ he => nomatch he
theorem hcwFwchunk : Statement .hcwFwchunk := fun _ _ _ he => nomatch he
theorem hcwVfreset : Statement .hcwVfreset := fun _ _ _ he => nomatch he
theorem hcwKboot : Statement .hcwKboot := fun _ _ _ he => nomatch he
theorem hcwEvreplay : Statement .hcwEvreplay := fun _ _ _ he => nomatch he
theorem hcwCmdstat : Statement .hcwCmdstat := fun _ _ _ he => nomatch he
theorem hcwAmsg : Statement .hcwAmsg := fun _ _ _ he => nomatch he
theorem hcwEciWrite : Statement .hcwEciWrite := fun _ _ _ he => nomatch he
theorem revocationAck : Statement .revocationAck := fun _ _ _ he => nomatch he
theorem recallDeadlineExpiry : Statement .recallDeadlineExpiry := fun _ _ _ he => nomatch he
theorem frameRetire : Statement .frameRetire := fun _ _ _ he => nomatch he
theorem recordRebuild : Statement .recordRebuild := fun _ _ _ he => nomatch he
theorem pierAccess : Statement .pierAccess := fun _ _ _ he => nomatch he
theorem pierRowRepair : Statement .pierRowRepair := fun _ _ _ he => nomatch he
theorem hotRowWindow : Statement .hotRowWindow := fun _ _ _ he => nomatch he
theorem refreshWindowEnd : Statement .refreshWindowEnd := fun _ _ _ he => nomatch he
theorem frecAevconWrite : Statement .frecAevconWrite := fun _ _ _ he => nomatch he
theorem frecAevConfigWrite : Statement .frecAevConfigWrite := fun _ _ _ he => nomatch he
theorem tenCfgEnable : Statement .tenCfgEnable := fun _ _ _ he => nomatch he
theorem tenCfgDisable : Statement .tenCfgDisable := fun _ _ _ he => nomatch he
theorem vfFlr : Statement .vfFlr := fun _ _ _ he => nomatch he
theorem vfResetComplete : Statement .vfResetComplete := fun _ _ _ he => nomatch he
theorem partEnable : Statement .partEnable := fun _ _ _ he => nomatch he
theorem partResize : Statement .partResize := fun _ _ _ he => nomatch he
theorem partResizeCommit : Statement .partResizeCommit := fun _ _ _ he => nomatch he
theorem partDisable : Statement .partDisable := fun _ _ _ he => nomatch he
theorem partExclSet : Statement .partExclSet := fun _ _ _ he => nomatch he
theorem partExclDone : Statement .partExclDone := fun _ _ _ he => nomatch he
theorem partExclClear : Statement .partExclClear := fun _ _ _ he => nomatch he
theorem keyLoad : Statement .keyLoad := fun _ _ _ he => nomatch he
theorem keyGen : Statement .keyGen := fun _ _ _ he => nomatch he
theorem scrubStart : Statement .scrubStart := fun _ _ _ he => nomatch he
theorem scrubMarkEntry : Statement .scrubMarkEntry := fun _ _ _ he => nomatch he
theorem scrubFrameCommit : Statement .scrubFrameCommit := fun _ _ _ he => nomatch he
theorem scrubResume : Statement .scrubResume := fun _ _ _ he => nomatch he
theorem schedQueueEnable : Statement .schedQueueEnable := fun _ _ _ he => nomatch he
theorem schedQueueDisable : Statement .schedQueueDisable := fun _ _ _ he => nomatch he
theorem vfDoorbell : Statement .vfDoorbell := fun _ _ _ he => nomatch he
theorem schedDequeue : Statement .schedDequeue := fun _ _ _ he => nomatch he
theorem schedDealAccept : Statement .schedDealAccept := fun _ _ _ he => nomatch he
theorem schedLeadershipMove : Statement .schedLeadershipMove := fun _ _ _ he => nomatch he
theorem schedDrainWrite : Statement .schedDrainWrite := fun _ _ _ he => nomatch he
theorem shareDispatch : Statement .shareDispatch := fun _ _ _ he => nomatch he
theorem launchBarrierComplete : Statement .launchBarrierComplete := fun _ _ _ he => nomatch he
theorem shareEnd : Statement .shareEnd := fun _ _ _ he => nomatch he
theorem launchComplete : Statement .launchComplete := fun _ _ _ he => nomatch he
theorem watchdogExpiry : Statement .watchdogExpiry := fun _ _ _ he => nomatch he
theorem schedEnd : Statement .schedEnd := fun _ _ _ he => nomatch he
theorem sliceEnd : Statement .sliceEnd := fun _ _ _ he => nomatch he
theorem quiesceComplete : Statement .quiesceComplete := fun _ _ _ he => nomatch he
theorem shareRestore : Statement .shareRestore := fun _ _ _ he => nomatch he
theorem displacedShareSwitch : Statement .displacedShareSwitch := fun _ _ _ he => nomatch he
theorem retentionExpiry : Statement .retentionExpiry := fun _ _ _ he => nomatch he
theorem fcValWrite : Statement .fcValWrite := fun _ _ _ he => nomatch he
theorem longLatencyResult : Statement .longLatencyResult := fun _ _ _ he => nomatch he
theorem spanEntryStart : Statement .spanEntryStart := fun _ _ _ he => nomatch he
theorem gangForm : Statement .gangForm := fun _ _ _ he => nomatch he
theorem faultRecordDeliver : Statement .faultRecordDeliver := fun _ _ _ he => nomatch he
theorem svcCoreWrite : Statement .svcCoreWrite := fun _ _ _ he => nomatch he
theorem interruptDelivery : Statement .interruptDelivery := fun _ _ _ he => nomatch he
theorem sysIpiWrite : Statement .sysIpiWrite := fun _ _ _ he => nomatch he
theorem sysStartWrite : Statement .sysStartWrite := fun _ _ _ he => nomatch he
theorem bootThreadStart : Statement .bootThreadStart := fun _ _ _ he => nomatch he
theorem sideLogRetry : Statement .sideLogRetry := fun _ _ _ he => nomatch he
theorem heldStoreEnter : Statement .heldStoreEnter := fun _ _ _ he => nomatch he
theorem slogRetry : Statement .slogRetry := fun _ _ _ he => nomatch he
theorem slogDiscard : Statement .slogDiscard := fun _ _ _ he => nomatch he
theorem migStart : Statement .migStart := fun _ _ _ he => nomatch he
theorem migDrainDone : Statement .migDrainDone := fun _ _ _ he => nomatch he
theorem migCopyDone : Statement .migCopyDone := fun _ _ _ he => nomatch he
theorem migCommit : Statement .migCommit := fun _ _ _ he => nomatch he
theorem migAbort : Statement .migAbort := fun _ _ _ he => nomatch he
theorem migScrubDone : Statement .migScrubDone := fun _ _ _ he => nomatch he
theorem placeMapWrite : Statement .placeMapWrite := fun _ _ _ he => nomatch he
theorem hotClr : Statement .hotClr := fun _ _ _ he => nomatch he
theorem raceSweepDone : Statement .raceSweepDone := fun _ _ _ he => nomatch he
theorem ldfResend : Statement .ldfResend := fun _ _ _ he => nomatch he
theorem barrierComplete : Statement .barrierComplete := fun _ _ _ he => nomatch he
theorem messageAccept : Statement .messageAccept := fun _ _ _ he => nomatch he
theorem copyComplete : Statement .copyComplete := fun _ _ _ he => nomatch he
theorem waitTimeout : Statement .waitTimeout := fun _ _ _ he => nomatch he
theorem registerWrite : Statement .registerWrite := fun _ _ _ he => nomatch he
theorem throttleEnd : Statement .throttleEnd := fun _ _ _ he => nomatch he
theorem putComplete : Statement .putComplete := fun _ _ _ he => nomatch he
theorem ruleLoadComplete : Statement .ruleLoadComplete := fun _ _ _ he => nomatch he

end Encode

end

end Sys2Proof.Laws
end

