-- ==== Sys2Proof/Laws/Pier.lean ====
section
/-! SUPPORT. Reads and writes through the piers (R98, R183, R184): where nothing is enciphered they are the byte map's own,
every write keeps the canonical form, and what goes with a write beside its bytes leaves the memory alone. -/

namespace Sys2Proof.Machine

/-! ### What leaves the memory alone -/

theorem State.repack_mem (s : State) (loc : Nat) (pack : Bool) : (s.repack loc pack).mem = s.mem := by
  unfold State.repack; dsimp only; split
  · split <;> rfl
  · split <;> rfl

/-- A fold of steps that each leave the memory alone leaves it alone. -/
theorem foldl_mem {α : Type} (f : State → α → State) (hf : ∀ s a, (f s a).mem = s.mem) (l : List α) (s : State) :
    (l.foldl f s).mem = s.mem := by
  induction l generalizing s with
  | nil => rfl
  | cons a t ih => exact (ih _).trans (hf s a)

theorem State.repackAll_mem (s : State) (loc n : Nat) (pack : Bool) : (s.repackAll loc n pack).mem = s.mem := by
  unfold State.repackAll; split
  · rfl
  · exact foldl_mem _ (fun s i => s.repack_mem _ _) _ s

@[simp] theorem State.cover_mem (s : State) (loc n : Nat) : (s.cover loc n).mem = s.mem := rfl

theorem State.countDrop_mem (s : State) (n na addr : Nat) : (s.countDrop n na addr).mem = s.mem := by
  unfold State.countDrop; dsimp only; split <;> rfl

theorem State.crc_mem (s : State) (pa k : Nat) : (s.crc pa k).mem = s.mem := by
  unfold State.crc; dsimp only; split
  · rfl
  · split <;> rfl

theorem State.checkRead_mem (s : State) (loc n : Nat) : (s.checkRead loc n).mem = s.mem :=
  foldl_mem (fun s (p : Nat × Nat) => s.crc (p.1 * 256) p.2) (fun s p => s.crc_mem _ _) _ _

/-! ### Plain places -/

@[simp] theorem State.wr8_enciphered (s : State) (loc v a : Nat) : (s.wr8 loc v).enciphered a = s.enciphered a := rfl

/-- A read of plain bytes is the byte map's. -/
theorem State.rdP_plain {s : State} {loc n : Nat} (h : ∀ i < n, s.enciphered (loc + i) = false) : s.rdP loc n = s.rdN loc n := by
  induction n generalizing loc with
  | zero => rfl
  | succ n ih =>
    have h0 : s.enciphered loc = false := h 0 (by omega)
    rw [State.rdP, State.rdN, ih fun i hi => by rw [Nat.add_right_comm]; exact h (i + 1) (by omega)]
    simp [State.rdP8, h0]

/-- A write of plain bytes is the byte map's. -/
theorem State.wrP_plain {s : State} {loc n : Nat} (v : Nat) (h : ∀ i < n, s.enciphered (loc + i) = false) :
    s.wrP loc n v = s.wrN loc n v := by
  induction n generalizing s loc v with
  | zero => rfl
  | succ n ih =>
    have h0 : s.enciphered loc = false := h 0 (by omega)
    have h8 : s.wrP8 loc (v % 256) = s.wr8 loc (v % 256) := by simp [State.wrP8, h0]
    rw [State.wrP, State.wrN, h8]
    exact ih _ fun i hi => by rw [State.wr8_enciphered, Nat.add_right_comm]; exact h (i + 1) (by omega)

/-! ### The canonical form -/

theorem State.wf_putBlk {s : State} (h : Memory.wf s.mem = true) (k : KeySlot) (loc : Nat) (b : Blk) :
    Memory.wf (s.putBlk k loc b).mem = true := State.wf_wrN h _ _ _

theorem State.wf_wrP8 {s : State} (h : Memory.wf s.mem = true) (loc v : Nat) : Memory.wf (s.wrP8 loc v).mem = true := by
  unfold State.wrP8; split
  · exact State.wf_putBlk h _ _ _
  · exact State.wf_wr8 h _ _

theorem State.wf_wrP {s : State} (h : Memory.wf s.mem = true) (loc n v : Nat) : Memory.wf (s.wrP loc n v).mem = true := by
  induction n generalizing s loc v with
  | zero => exact h
  | succ n ih => exact ih (State.wf_wrP8 h _ _) _ _

theorem State.wf_engPut {s : State} (h : Memory.wf s.mem = true) (loc n v : Nat) : Memory.wf (s.engPut loc n v).mem = true := by
  unfold State.engPut; split
  · rw [State.countDrop_mem]; exact h
  · rw [State.cover_mem, State.repackAll_mem]; exact State.wf_wrP h _ _ _

/-- An engine's write of plain bytes leaves exactly them. -/
theorem State.engPut_mem {s : State} {loc n : Nat} (v : Nat) (hk : s.keyGone loc = false)
    (h : ∀ i < n, s.enciphered (loc + i) = false) : (s.engPut loc n v).mem = (s.wrN loc n v).mem := by
  unfold State.engPut
  rw [if_neg (by simp [hk]), State.cover_mem, State.repackAll_mem, State.wrP_plain v h]

end Sys2Proof.Machine
end

