-- ==== Sys2Proof/Laws/SMap.lean ====
section
/-! SUPPORT. What a sparse array reads after a write. -/

namespace Sys2Proof

variable {α : Type}

@[simp] theorem SMap.val_nil (k : Nat) (d : α) : SMap.val ([] : SMap α) k d = d := rfl

@[simp] theorem SMap.val_put_self (m : SMap α) (k : Nat) (x d : α) : (m.put k x).val k d = x := by
  induction m with
  | nil => simp [SMap.put, SMap.val]
  | cons p t ih =>
    obtain ⟨j, y⟩ := p
    simp only [SMap.put]
    split
    · simp [SMap.val]
    · split
      · simp [SMap.val]
      · simp [SMap.val, *]

theorem SMap.val_put_ne (m : SMap α) {k k' : Nat} (x d : α) (h : k' ≠ k) : (m.put k x).val k' d = m.val k' d := by
  induction m with
  | nil =>
    simp only [SMap.put, SMap.val]
    split
    · omega
    · split <;> rfl
  | cons p t ih =>
    obtain ⟨j, y⟩ := p
    simp only [SMap.put]
    split
    · subst_vars
      simp only [SMap.val]
      split
      · omega
      · rfl
    · split
      · simp only [SMap.val]
        split
        · omega
        · split
          · split
            · omega
            · split
              · rfl
              · omega
          · rfl
      · simp only [SMap.val, ih]

end Sys2Proof
end

