-- ==== Sys2Proof/Laws/Sched.lean ====
section
/-! SUPPORT. What the dealing of shares again leaves alone: it changes the launches and the saved shares only. -/

namespace Sys2Proof.Machine

theorem State.moveShare_eq (s : State) (l : Launch) (k host : Nat) :
    s.moveShare l k host = { s with launches := (s.moveShare l k host).launches } := rfl

/-- A fold of steps that each change the launches only changes the launches only. -/
theorem foldl_launches {α : Type} (f : State → α → State) (hf : ∀ s a, f s a = { s with launches := (f s a).launches })
    (l : List α) (s : State) : l.foldl f s = { s with launches := (l.foldl f s).launches } := by
  induction l generalizing s with
  | nil => rfl
  | cons a t ih =>
    rw [List.foldl_cons, ih (f s a)]
    exact (congrArg (fun u : State => { u with launches := (t.foldl f (f s a)).launches }) (hf s a)).trans rfl

theorem State.redeal_eq (s : State) (h : Nat) : s.redeal h = { s with launches := (s.redeal h).launches } := by
  refine foldl_launches _ (fun s l => ?_) _ s
  refine foldl_launches _ (fun s k => ?_) _ s
  split
  · exact State.moveShare_eq _ _ _ _
  · rfl

theorem State.leftPart_eq (s : State) (j : Nat) (hs : List Nat) :
    s.leftPart j hs = { s with launches := (s.leftPart j hs).launches } := rfl

end Sys2Proof.Machine
end

