-- ==== Sys2Proof/Laws/State.lean ====
section
/-! SUPPORT. What each named update of the state, a core or a thread leaves alone: one lemma for each field and update,
and what the accessors read after an update. -/

namespace Sys2Proof.Machine

@[simp] theorem State.setCore_agenda (s : State) (h : Nat) (c : Core) : (s.setCore h c).agenda = s.agenda := rfl
@[simp] theorem State.setCore_params (s : State) (h : Nat) (c : Core) : (s.setCore h c).params = s.params := rfl
@[simp] theorem State.setCore_curH (s : State) (h : Nat) (c : Core) : (s.setCore h c).curH = s.curH := rfl
@[simp] theorem State.setCore_curSlot (s : State) (h : Nat) (c : Core) : (s.setCore h c).curSlot = s.curSlot := rfl
@[simp] theorem State.setCore_fresh (s : State) (h : Nat) (c : Core) : (s.setCore h c).fresh = s.fresh := rfl
@[simp] theorem State.setCore_nextId (s : State) (h : Nat) (c : Core) : (s.setCore h c).nextId = s.nextId := rfl
@[simp] theorem State.setCore_out (s : State) (h : Nat) (c : Core) : (s.setCore h c).out = s.out := rfl
@[simp] theorem State.setCore_sr (s : State) (h : Nat) (c : Core) : (s.setCore h c).sr = s.sr := rfl
@[simp] theorem State.setCore_hcw (s : State) (h : Nat) (c : Core) : (s.setCore h c).hcw = s.hcw := rfl
@[simp] theorem State.setCore_powered (s : State) (h : Nat) (c : Core) : (s.setCore h c).powered = s.powered := rfl
@[simp] theorem State.setCore_recordFatal (s : State) (h : Nat) (c : Core) :
    (s.setCore h c).recordFatal = s.recordFatal := rfl
@[simp] theorem State.setCore_poolFatal (s : State) (h : Nat) (c : Core) :
    (s.setCore h c).poolFatal = s.poolFatal := rfl
@[simp] theorem State.setCore_plan (s : State) (h : Nat) (c : Core) : (s.setCore h c).plan = s.plan := rfl
@[simp] theorem State.setCore_freq (s : State) (h : Nat) (c : Core) : (s.setCore h c).freq = s.freq := rfl
@[simp] theorem State.setCore_load (s : State) (h : Nat) (c : Core) : (s.setCore h c).load = s.load := rfl
@[simp] theorem State.setCore_dtime (s : State) (h : Nat) (c : Core) : (s.setCore h c).dtime = s.dtime := rfl
@[simp] theorem State.setCore_twrap (s : State) (h : Nat) (c : Core) : (s.setCore h c).twrap = s.twrap := rfl
@[simp] theorem State.setCore_tstat (s : State) (h : Nat) (c : Core) : (s.setCore h c).tstat = s.tstat := rfl
@[simp] theorem State.setCore_tfail (s : State) (h : Nat) (c : Core) : (s.setCore h c).tfail = s.tfail := rfl
@[simp] theorem State.setCore_aligned (s : State) (h : Nat) (c : Core) : (s.setCore h c).aligned = s.aligned := rfl
@[simp] theorem State.setCore_held (s : State) (h : Nat) (c : Core) : (s.setCore h c).held = s.held := rfl
@[simp] theorem State.setCore_tripCause (s : State) (h : Nat) (c : Core) :
    (s.setCore h c).tripCause = s.tripCause := rfl
@[simp] theorem State.setCore_gated (s : State) (h : Nat) (c : Core) : (s.setCore h c).gated = s.gated := rfl
@[simp] theorem State.setCore_fwCap (s : State) (h : Nat) (c : Core) : (s.setCore h c).fwCap = s.fwCap := rfl
@[simp] theorem State.setCore_failing (s : State) (h : Nat) (c : Core) : (s.setCore h c).failing = s.failing := rfl
@[simp] theorem State.setCore_fwImage (s : State) (h : Nat) (c : Core) : (s.setCore h c).fwImage = s.fwImage := rfl
@[simp] theorem State.setCore_fwLen (s : State) (h : Nat) (c : Core) : (s.setCore h c).fwLen = s.fwLen := rfl
@[simp] theorem State.setCore_fwVersion (s : State) (h : Nat) (c : Core) :
    (s.setCore h c).fwVersion = s.fwVersion := rfl
@[simp] theorem State.setCore_fwCounter (s : State) (h : Nat) (c : Core) :
    (s.setCore h c).fwCounter = s.fwCounter := rfl
@[simp] theorem State.setCore_fwValid (s : State) (h : Nat) (c : Core) : (s.setCore h c).fwValid = s.fwValid := rfl
@[simp] theorem State.setCore_fwRecovery (s : State) (h : Nat) (c : Core) :
    (s.setCore h c).fwRecovery = s.fwRecovery := rfl
@[simp] theorem State.setCore_fwParts (s : State) (h : Nat) (c : Core) : (s.setCore h c).fwParts = s.fwParts := rfl
@[simp] theorem State.setCore_bootDigest (s : State) (h : Nat) (c : Core) :
    (s.setCore h c).bootDigest = s.bootDigest := rfl
@[simp] theorem State.setCore_ports (s : State) (h : Nat) (c : Core) : (s.setCore h c).ports = s.ports := rfl
@[simp] theorem State.setCore_collIdx (s : State) (h : Nat) (c : Core) : (s.setCore h c).collIdx = s.collIdx := rfl
@[simp] theorem State.setCore_colls (s : State) (h : Nat) (c : Core) : (s.setCore h c).colls = s.colls := rfl
@[simp] theorem State.setCore_collSeq (s : State) (h : Nat) (c : Core) : (s.setCore h c).collSeq = s.collSeq := rfl
@[simp] theorem State.setCore_rules (s : State) (h : Nat) (c : Core) : (s.setCore h c).rules = s.rules := rfl
@[simp] theorem State.setCore_ruleLoad (s : State) (h : Nat) (c : Core) : (s.setCore h c).ruleLoad = s.ruleLoad := rfl
@[simp] theorem State.setCore_rings (s : State) (h : Nat) (c : Core) : (s.setCore h c).rings = s.rings := rfl
@[simp] theorem State.setCore_xoff (s : State) (h : Nat) (c : Core) : (s.setCore h c).xoff = s.xoff := rfl
@[simp] theorem State.setCore_ingHeld (s : State) (h : Nat) (c : Core) : (s.setCore h c).ingHeld = s.ingHeld := rfl
@[simp] theorem State.setCore_delivered (s : State) (h : Nat) (c : Core) :
    (s.setCore h c).delivered = s.delivered := rfl
@[simp] theorem State.setCore_flitWait (s : State) (h : Nat) (c : Core) : (s.setCore h c).flitWait = s.flitWait := rfl
@[simp] theorem State.setCore_poolRd (s : State) (h : Nat) (c : Core) : (s.setCore h c).poolRd = s.poolRd := rfl
@[simp] theorem State.setCore_poolWr (s : State) (h : Nat) (c : Core) : (s.setCore h c).poolWr = s.poolWr := rfl
@[simp] theorem State.setCore_poolFailed (s : State) (h : Nat) (c : Core) :
    (s.setCore h c).poolFailed = s.poolFailed := rfl
@[simp] theorem State.setCore_poolCtx (s : State) (h : Nat) (c : Core) : (s.setCore h c).poolCtx = s.poolCtx := rfl
@[simp] theorem State.setCore_hdmRegs (s : State) (h : Nat) (c : Core) : (s.setCore h c).hdmRegs = s.hdmRegs := rfl
@[simp] theorem State.setCore_hdmBase (s : State) (h : Nat) (c : Core) : (s.setCore h c).hdmBase = s.hdmBase := rfl
@[simp] theorem State.setCore_hostDirty (s : State) (h : Nat) (c : Core) :
    (s.setCore h c).hostDirty = s.hostDirty := rfl
@[simp] theorem State.setCore_hostBad (s : State) (h : Nat) (c : Core) : (s.setCore h c).hostBad = s.hostBad := rfl
@[simp] theorem State.setCore_cmds (s : State) (h : Nat) (c : Core) : (s.setCore h c).cmds = s.cmds := rfl
@[simp] theorem State.setCore_evHost (s : State) (h : Nat) (c : Core) : (s.setCore h c).evHost = s.evHost := rfl
@[simp] theorem State.setCore_evAcc (s : State) (h : Nat) (c : Core) : (s.setCore h c).evAcc = s.evAcc := rfl
@[simp] theorem State.setCore_frames (s : State) (h : Nat) (c : Core) : (s.setCore h c).frames = s.frames := rfl
@[simp] theorem State.setCore_revokes (s : State) (h : Nat) (c : Core) : (s.setCore h c).revokes = s.revokes := rfl
@[simp] theorem State.setCore_hostChk (s : State) (h : Nat) (c : Core) : (s.setCore h c).hostChk = s.hostChk := rfl
@[simp] theorem State.setCore_keys (s : State) (h : Nat) (c : Core) : (s.setCore h c).keys = s.keys := rfl
@[simp] theorem State.setCore_keyData (s : State) (h : Nat) (c : Core) : (s.setCore h c).keyData = s.keyData := rfl
@[simp] theorem State.setCore_vfResets (s : State) (h : Nat) (c : Core) : (s.setCore h c).vfResets = s.vfResets := rfl
@[simp] theorem State.setCore_exclBusy (s : State) (h : Nat) (c : Core) : (s.setCore h c).exclBusy = s.exclBusy := rfl
@[simp] theorem State.setCore_exclWait (s : State) (h : Nat) (c : Core) : (s.setCore h c).exclWait = s.exclWait := rfl
@[simp] theorem State.setCore_scrubMarked (s : State) (h : Nat) (c : Core) :
    (s.setCore h c).scrubMarked = s.scrubMarked := rfl
@[simp] theorem State.setCore_scrubHeld (s : State) (h : Nat) (c : Core) :
    (s.setCore h c).scrubHeld = s.scrubHeld := rfl
@[simp] theorem State.setCore_fcClk (s : State) (h : Nat) (c : Core) : (s.setCore h c).fcClk = s.fcClk := rfl
@[simp] theorem State.setCore_partSeen (s : State) (h : Nat) (c : Core) : (s.setCore h c).partSeen = s.partSeen := rfl
@[simp] theorem State.setCore_bootDue (s : State) (h : Nat) (c : Core) : (s.setCore h c).bootDue = s.bootDue := rfl
@[simp] theorem State.setCore_parts (s : State) (h : Nat) (c : Core) : (s.setCore h c).parts = s.parts := rfl
@[simp] theorem State.setCore_launches (s : State) (h : Nat) (c : Core) : (s.setCore h c).launches = s.launches := rfl
@[simp] theorem State.setCore_saved (s : State) (h : Nat) (c : Core) : (s.setCore h c).saved = s.saved := rfl
@[simp] theorem State.setCore_quads (s : State) (h : Nat) (c : Core) : (s.setCore h c).quads = s.quads := rfl
@[simp] theorem State.setCore_mem (s : State) (h : Nat) (c : Core) : (s.setCore h c).mem = s.mem := rfl
@[simp] theorem State.setCore_fe (s : State) (h : Nat) (c : Core) : (s.setCore h c).fe = s.fe := rfl
@[simp] theorem State.setCore_poison (s : State) (h : Nat) (c : Core) : (s.setCore h c).poison = s.poison := rfl
@[simp] theorem State.setCore_rewritten (s : State) (h : Nat) (c : Core) :
    (s.setCore h c).rewritten = s.rewritten := rfl
@[simp] theorem State.setCore_packed (s : State) (h : Nat) (c : Core) : (s.setCore h c).packed = s.packed := rfl
@[simp] theorem State.setCore_noSym (s : State) (h : Nat) (c : Core) : (s.setCore h c).noSym = s.noSym := rfl
@[simp] theorem State.setCore_accs (s : State) (h : Nat) (c : Core) : (s.setCore h c).accs = s.accs := rfl
@[simp] theorem State.setCore_entered (s : State) (h : Nat) (c : Core) : (s.setCore h c).entered = s.entered := rfl
@[simp] theorem State.setCore_sent (s : State) (h : Nat) (c : Core) : (s.setCore h c).sent = s.sent := rfl
@[simp] theorem State.setCore_xls (s : State) (h : Nat) (c : Core) : (s.setCore h c).xls = s.xls := rfl
@[simp] theorem State.setCore_hot (s : State) (h : Nat) (c : Core) : (s.setCore h c).hot = s.hot := rfl
@[simp] theorem State.setCore_mig (s : State) (h : Nat) (c : Core) : (s.setCore h c).mig = s.mig := rfl
@[simp] theorem State.setCore_hotRows (s : State) (h : Nat) (c : Core) : (s.setCore h c).hotRows = s.hotRows := rfl
@[simp] theorem State.setCore_bitErr (s : State) (h : Nat) (c : Core) : (s.setCore h c).bitErr = s.bitErr := rfl
@[simp] theorem State.setCore_corrReads (s : State) (h : Nat) (c : Core) :
    (s.setCore h c).corrReads = s.corrReads := rfl
@[simp] theorem State.setCore_uncorr (s : State) (h : Nat) (c : Core) : (s.setCore h c).uncorr = s.uncorr := rfl
@[simp] theorem State.setCore_recLost (s : State) (h : Nat) (c : Core) : (s.setCore h c).recLost = s.recLost := rfl
@[simp] theorem State.setCore_recAt (s : State) (h : Nat) (c : Core) : (s.setCore h c).recAt = s.recAt := rfl
@[simp] theorem State.setCore_race (s : State) (h : Nat) (c : Core) : (s.setCore h c).race = s.race := rfl
@[simp] theorem State.setCore_relClk (s : State) (h : Nat) (c : Core) : (s.setCore h c).relClk = s.relClk := rfl
@[simp] theorem State.setCore_sweeps (s : State) (h : Nat) (c : Core) : (s.setCore h c).sweeps = s.sweeps := rfl

@[simp] theorem State.onCoreAt_agenda (s : State) (h : Nat) (f : Core → Core) :
    (s.onCoreAt h f).agenda = s.agenda := rfl
@[simp] theorem State.onCoreAt_params (s : State) (h : Nat) (f : Core → Core) :
    (s.onCoreAt h f).params = s.params := rfl
@[simp] theorem State.onCoreAt_curH (s : State) (h : Nat) (f : Core → Core) : (s.onCoreAt h f).curH = s.curH := rfl
@[simp] theorem State.onCoreAt_curSlot (s : State) (h : Nat) (f : Core → Core) :
    (s.onCoreAt h f).curSlot = s.curSlot := rfl
@[simp] theorem State.onCoreAt_fresh (s : State) (h : Nat) (f : Core → Core) : (s.onCoreAt h f).fresh = s.fresh := rfl
@[simp] theorem State.onCoreAt_nextId (s : State) (h : Nat) (f : Core → Core) :
    (s.onCoreAt h f).nextId = s.nextId := rfl
@[simp] theorem State.onCoreAt_out (s : State) (h : Nat) (f : Core → Core) : (s.onCoreAt h f).out = s.out := rfl
@[simp] theorem State.onCoreAt_sr (s : State) (h : Nat) (f : Core → Core) : (s.onCoreAt h f).sr = s.sr := rfl
@[simp] theorem State.onCoreAt_hcw (s : State) (h : Nat) (f : Core → Core) : (s.onCoreAt h f).hcw = s.hcw := rfl
@[simp] theorem State.onCoreAt_powered (s : State) (h : Nat) (f : Core → Core) :
    (s.onCoreAt h f).powered = s.powered := rfl
@[simp] theorem State.onCoreAt_recordFatal (s : State) (h : Nat) (f : Core → Core) :
    (s.onCoreAt h f).recordFatal = s.recordFatal := rfl
@[simp] theorem State.onCoreAt_poolFatal (s : State) (h : Nat) (f : Core → Core) :
    (s.onCoreAt h f).poolFatal = s.poolFatal := rfl
@[simp] theorem State.onCoreAt_plan (s : State) (h : Nat) (f : Core → Core) : (s.onCoreAt h f).plan = s.plan := rfl
@[simp] theorem State.onCoreAt_freq (s : State) (h : Nat) (f : Core → Core) : (s.onCoreAt h f).freq = s.freq := rfl
@[simp] theorem State.onCoreAt_load (s : State) (h : Nat) (f : Core → Core) : (s.onCoreAt h f).load = s.load := rfl
@[simp] theorem State.onCoreAt_dtime (s : State) (h : Nat) (f : Core → Core) : (s.onCoreAt h f).dtime = s.dtime := rfl
@[simp] theorem State.onCoreAt_twrap (s : State) (h : Nat) (f : Core → Core) : (s.onCoreAt h f).twrap = s.twrap := rfl
@[simp] theorem State.onCoreAt_tstat (s : State) (h : Nat) (f : Core → Core) : (s.onCoreAt h f).tstat = s.tstat := rfl
@[simp] theorem State.onCoreAt_tfail (s : State) (h : Nat) (f : Core → Core) : (s.onCoreAt h f).tfail = s.tfail := rfl
@[simp] theorem State.onCoreAt_aligned (s : State) (h : Nat) (f : Core → Core) :
    (s.onCoreAt h f).aligned = s.aligned := rfl
@[simp] theorem State.onCoreAt_held (s : State) (h : Nat) (f : Core → Core) : (s.onCoreAt h f).held = s.held := rfl
@[simp] theorem State.onCoreAt_tripCause (s : State) (h : Nat) (f : Core → Core) :
    (s.onCoreAt h f).tripCause = s.tripCause := rfl
@[simp] theorem State.onCoreAt_gated (s : State) (h : Nat) (f : Core → Core) : (s.onCoreAt h f).gated = s.gated := rfl
@[simp] theorem State.onCoreAt_fwCap (s : State) (h : Nat) (f : Core → Core) : (s.onCoreAt h f).fwCap = s.fwCap := rfl
@[simp] theorem State.onCoreAt_failing (s : State) (h : Nat) (f : Core → Core) :
    (s.onCoreAt h f).failing = s.failing := rfl
@[simp] theorem State.onCoreAt_fwImage (s : State) (h : Nat) (f : Core → Core) :
    (s.onCoreAt h f).fwImage = s.fwImage := rfl
@[simp] theorem State.onCoreAt_fwLen (s : State) (h : Nat) (f : Core → Core) : (s.onCoreAt h f).fwLen = s.fwLen := rfl
@[simp] theorem State.onCoreAt_fwVersion (s : State) (h : Nat) (f : Core → Core) :
    (s.onCoreAt h f).fwVersion = s.fwVersion := rfl
@[simp] theorem State.onCoreAt_fwCounter (s : State) (h : Nat) (f : Core → Core) :
    (s.onCoreAt h f).fwCounter = s.fwCounter := rfl
@[simp] theorem State.onCoreAt_fwValid (s : State) (h : Nat) (f : Core → Core) :
    (s.onCoreAt h f).fwValid = s.fwValid := rfl
@[simp] theorem State.onCoreAt_fwRecovery (s : State) (h : Nat) (f : Core → Core) :
    (s.onCoreAt h f).fwRecovery = s.fwRecovery := rfl
@[simp] theorem State.onCoreAt_fwParts (s : State) (h : Nat) (f : Core → Core) :
    (s.onCoreAt h f).fwParts = s.fwParts := rfl
@[simp] theorem State.onCoreAt_bootDigest (s : State) (h : Nat) (f : Core → Core) :
    (s.onCoreAt h f).bootDigest = s.bootDigest := rfl
@[simp] theorem State.onCoreAt_ports (s : State) (h : Nat) (f : Core → Core) : (s.onCoreAt h f).ports = s.ports := rfl
@[simp] theorem State.onCoreAt_collIdx (s : State) (h : Nat) (f : Core → Core) :
    (s.onCoreAt h f).collIdx = s.collIdx := rfl
@[simp] theorem State.onCoreAt_colls (s : State) (h : Nat) (f : Core → Core) : (s.onCoreAt h f).colls = s.colls := rfl
@[simp] theorem State.onCoreAt_collSeq (s : State) (h : Nat) (f : Core → Core) :
    (s.onCoreAt h f).collSeq = s.collSeq := rfl
@[simp] theorem State.onCoreAt_rules (s : State) (h : Nat) (f : Core → Core) : (s.onCoreAt h f).rules = s.rules := rfl
@[simp] theorem State.onCoreAt_ruleLoad (s : State) (h : Nat) (f : Core → Core) :
    (s.onCoreAt h f).ruleLoad = s.ruleLoad := rfl
@[simp] theorem State.onCoreAt_rings (s : State) (h : Nat) (f : Core → Core) : (s.onCoreAt h f).rings = s.rings := rfl
@[simp] theorem State.onCoreAt_xoff (s : State) (h : Nat) (f : Core → Core) : (s.onCoreAt h f).xoff = s.xoff := rfl
@[simp] theorem State.onCoreAt_ingHeld (s : State) (h : Nat) (f : Core → Core) :
    (s.onCoreAt h f).ingHeld = s.ingHeld := rfl
@[simp] theorem State.onCoreAt_delivered (s : State) (h : Nat) (f : Core → Core) :
    (s.onCoreAt h f).delivered = s.delivered := rfl
@[simp] theorem State.onCoreAt_flitWait (s : State) (h : Nat) (f : Core → Core) :
    (s.onCoreAt h f).flitWait = s.flitWait := rfl
@[simp] theorem State.onCoreAt_poolRd (s : State) (h : Nat) (f : Core → Core) :
    (s.onCoreAt h f).poolRd = s.poolRd := rfl
@[simp] theorem State.onCoreAt_poolWr (s : State) (h : Nat) (f : Core → Core) :
    (s.onCoreAt h f).poolWr = s.poolWr := rfl
@[simp] theorem State.onCoreAt_poolFailed (s : State) (h : Nat) (f : Core → Core) :
    (s.onCoreAt h f).poolFailed = s.poolFailed := rfl
@[simp] theorem State.onCoreAt_poolCtx (s : State) (h : Nat) (f : Core → Core) :
    (s.onCoreAt h f).poolCtx = s.poolCtx := rfl
@[simp] theorem State.onCoreAt_hdmRegs (s : State) (h : Nat) (f : Core → Core) :
    (s.onCoreAt h f).hdmRegs = s.hdmRegs := rfl
@[simp] theorem State.onCoreAt_hdmBase (s : State) (h : Nat) (f : Core → Core) :
    (s.onCoreAt h f).hdmBase = s.hdmBase := rfl
@[simp] theorem State.onCoreAt_hostDirty (s : State) (h : Nat) (f : Core → Core) :
    (s.onCoreAt h f).hostDirty = s.hostDirty := rfl
@[simp] theorem State.onCoreAt_hostBad (s : State) (h : Nat) (f : Core → Core) :
    (s.onCoreAt h f).hostBad = s.hostBad := rfl
@[simp] theorem State.onCoreAt_cmds (s : State) (h : Nat) (f : Core → Core) : (s.onCoreAt h f).cmds = s.cmds := rfl
@[simp] theorem State.onCoreAt_evHost (s : State) (h : Nat) (f : Core → Core) :
    (s.onCoreAt h f).evHost = s.evHost := rfl
@[simp] theorem State.onCoreAt_evAcc (s : State) (h : Nat) (f : Core → Core) : (s.onCoreAt h f).evAcc = s.evAcc := rfl
@[simp] theorem State.onCoreAt_frames (s : State) (h : Nat) (f : Core → Core) :
    (s.onCoreAt h f).frames = s.frames := rfl
@[simp] theorem State.onCoreAt_revokes (s : State) (h : Nat) (f : Core → Core) :
    (s.onCoreAt h f).revokes = s.revokes := rfl
@[simp] theorem State.onCoreAt_hostChk (s : State) (h : Nat) (f : Core → Core) :
    (s.onCoreAt h f).hostChk = s.hostChk := rfl
@[simp] theorem State.onCoreAt_keys (s : State) (h : Nat) (f : Core → Core) : (s.onCoreAt h f).keys = s.keys := rfl
@[simp] theorem State.onCoreAt_keyData (s : State) (h : Nat) (f : Core → Core) :
    (s.onCoreAt h f).keyData = s.keyData := rfl
@[simp] theorem State.onCoreAt_vfResets (s : State) (h : Nat) (f : Core → Core) :
    (s.onCoreAt h f).vfResets = s.vfResets := rfl
@[simp] theorem State.onCoreAt_exclBusy (s : State) (h : Nat) (f : Core → Core) :
    (s.onCoreAt h f).exclBusy = s.exclBusy := rfl
@[simp] theorem State.onCoreAt_exclWait (s : State) (h : Nat) (f : Core → Core) :
    (s.onCoreAt h f).exclWait = s.exclWait := rfl
@[simp] theorem State.onCoreAt_scrubMarked (s : State) (h : Nat) (f : Core → Core) :
    (s.onCoreAt h f).scrubMarked = s.scrubMarked := rfl
@[simp] theorem State.onCoreAt_scrubHeld (s : State) (h : Nat) (f : Core → Core) :
    (s.onCoreAt h f).scrubHeld = s.scrubHeld := rfl
@[simp] theorem State.onCoreAt_fcClk (s : State) (h : Nat) (f : Core → Core) : (s.onCoreAt h f).fcClk = s.fcClk := rfl
@[simp] theorem State.onCoreAt_partSeen (s : State) (h : Nat) (f : Core → Core) :
    (s.onCoreAt h f).partSeen = s.partSeen := rfl
@[simp] theorem State.onCoreAt_bootDue (s : State) (h : Nat) (f : Core → Core) :
    (s.onCoreAt h f).bootDue = s.bootDue := rfl
@[simp] theorem State.onCoreAt_parts (s : State) (h : Nat) (f : Core → Core) : (s.onCoreAt h f).parts = s.parts := rfl
@[simp] theorem State.onCoreAt_launches (s : State) (h : Nat) (f : Core → Core) :
    (s.onCoreAt h f).launches = s.launches := rfl
@[simp] theorem State.onCoreAt_saved (s : State) (h : Nat) (f : Core → Core) : (s.onCoreAt h f).saved = s.saved := rfl
@[simp] theorem State.onCoreAt_quads (s : State) (h : Nat) (f : Core → Core) : (s.onCoreAt h f).quads = s.quads := rfl
@[simp] theorem State.onCoreAt_mem (s : State) (h : Nat) (f : Core → Core) : (s.onCoreAt h f).mem = s.mem := rfl
@[simp] theorem State.onCoreAt_fe (s : State) (h : Nat) (f : Core → Core) : (s.onCoreAt h f).fe = s.fe := rfl
@[simp] theorem State.onCoreAt_poison (s : State) (h : Nat) (f : Core → Core) :
    (s.onCoreAt h f).poison = s.poison := rfl
@[simp] theorem State.onCoreAt_rewritten (s : State) (h : Nat) (f : Core → Core) :
    (s.onCoreAt h f).rewritten = s.rewritten := rfl
@[simp] theorem State.onCoreAt_packed (s : State) (h : Nat) (f : Core → Core) :
    (s.onCoreAt h f).packed = s.packed := rfl
@[simp] theorem State.onCoreAt_noSym (s : State) (h : Nat) (f : Core → Core) : (s.onCoreAt h f).noSym = s.noSym := rfl
@[simp] theorem State.onCoreAt_accs (s : State) (h : Nat) (f : Core → Core) : (s.onCoreAt h f).accs = s.accs := rfl
@[simp] theorem State.onCoreAt_entered (s : State) (h : Nat) (f : Core → Core) :
    (s.onCoreAt h f).entered = s.entered := rfl
@[simp] theorem State.onCoreAt_sent (s : State) (h : Nat) (f : Core → Core) : (s.onCoreAt h f).sent = s.sent := rfl
@[simp] theorem State.onCoreAt_xls (s : State) (h : Nat) (f : Core → Core) : (s.onCoreAt h f).xls = s.xls := rfl
@[simp] theorem State.onCoreAt_hot (s : State) (h : Nat) (f : Core → Core) : (s.onCoreAt h f).hot = s.hot := rfl
@[simp] theorem State.onCoreAt_mig (s : State) (h : Nat) (f : Core → Core) : (s.onCoreAt h f).mig = s.mig := rfl
@[simp] theorem State.onCoreAt_hotRows (s : State) (h : Nat) (f : Core → Core) :
    (s.onCoreAt h f).hotRows = s.hotRows := rfl
@[simp] theorem State.onCoreAt_bitErr (s : State) (h : Nat) (f : Core → Core) :
    (s.onCoreAt h f).bitErr = s.bitErr := rfl
@[simp] theorem State.onCoreAt_corrReads (s : State) (h : Nat) (f : Core → Core) :
    (s.onCoreAt h f).corrReads = s.corrReads := rfl
@[simp] theorem State.onCoreAt_uncorr (s : State) (h : Nat) (f : Core → Core) :
    (s.onCoreAt h f).uncorr = s.uncorr := rfl
@[simp] theorem State.onCoreAt_recLost (s : State) (h : Nat) (f : Core → Core) :
    (s.onCoreAt h f).recLost = s.recLost := rfl
@[simp] theorem State.onCoreAt_recAt (s : State) (h : Nat) (f : Core → Core) : (s.onCoreAt h f).recAt = s.recAt := rfl
@[simp] theorem State.onCoreAt_race (s : State) (h : Nat) (f : Core → Core) : (s.onCoreAt h f).race = s.race := rfl
@[simp] theorem State.onCoreAt_relClk (s : State) (h : Nat) (f : Core → Core) :
    (s.onCoreAt h f).relClk = s.relClk := rfl
@[simp] theorem State.onCoreAt_sweeps (s : State) (h : Nat) (f : Core → Core) :
    (s.onCoreAt h f).sweeps = s.sweeps := rfl

@[simp] theorem State.onThr_agenda (s : State) (h k : Nat) (f : Thread → Thread) :
    (s.onThr h k f).agenda = s.agenda := rfl
@[simp] theorem State.onThr_params (s : State) (h k : Nat) (f : Thread → Thread) :
    (s.onThr h k f).params = s.params := rfl
@[simp] theorem State.onThr_curH (s : State) (h k : Nat) (f : Thread → Thread) : (s.onThr h k f).curH = s.curH := rfl
@[simp] theorem State.onThr_curSlot (s : State) (h k : Nat) (f : Thread → Thread) :
    (s.onThr h k f).curSlot = s.curSlot := rfl
@[simp] theorem State.onThr_fresh (s : State) (h k : Nat) (f : Thread → Thread) : (s.onThr h k f).fresh = s.fresh := rfl
@[simp] theorem State.onThr_nextId (s : State) (h k : Nat) (f : Thread → Thread) :
    (s.onThr h k f).nextId = s.nextId := rfl
@[simp] theorem State.onThr_out (s : State) (h k : Nat) (f : Thread → Thread) : (s.onThr h k f).out = s.out := rfl
@[simp] theorem State.onThr_sr (s : State) (h k : Nat) (f : Thread → Thread) : (s.onThr h k f).sr = s.sr := rfl
@[simp] theorem State.onThr_hcw (s : State) (h k : Nat) (f : Thread → Thread) : (s.onThr h k f).hcw = s.hcw := rfl
@[simp] theorem State.onThr_powered (s : State) (h k : Nat) (f : Thread → Thread) :
    (s.onThr h k f).powered = s.powered := rfl
@[simp] theorem State.onThr_recordFatal (s : State) (h k : Nat) (f : Thread → Thread) :
    (s.onThr h k f).recordFatal = s.recordFatal := rfl
@[simp] theorem State.onThr_poolFatal (s : State) (h k : Nat) (f : Thread → Thread) :
    (s.onThr h k f).poolFatal = s.poolFatal := rfl
@[simp] theorem State.onThr_plan (s : State) (h k : Nat) (f : Thread → Thread) : (s.onThr h k f).plan = s.plan := rfl
@[simp] theorem State.onThr_freq (s : State) (h k : Nat) (f : Thread → Thread) : (s.onThr h k f).freq = s.freq := rfl
@[simp] theorem State.onThr_load (s : State) (h k : Nat) (f : Thread → Thread) : (s.onThr h k f).load = s.load := rfl
@[simp] theorem State.onThr_dtime (s : State) (h k : Nat) (f : Thread → Thread) : (s.onThr h k f).dtime = s.dtime := rfl
@[simp] theorem State.onThr_twrap (s : State) (h k : Nat) (f : Thread → Thread) : (s.onThr h k f).twrap = s.twrap := rfl
@[simp] theorem State.onThr_tstat (s : State) (h k : Nat) (f : Thread → Thread) : (s.onThr h k f).tstat = s.tstat := rfl
@[simp] theorem State.onThr_tfail (s : State) (h k : Nat) (f : Thread → Thread) : (s.onThr h k f).tfail = s.tfail := rfl
@[simp] theorem State.onThr_aligned (s : State) (h k : Nat) (f : Thread → Thread) :
    (s.onThr h k f).aligned = s.aligned := rfl
@[simp] theorem State.onThr_held (s : State) (h k : Nat) (f : Thread → Thread) : (s.onThr h k f).held = s.held := rfl
@[simp] theorem State.onThr_tripCause (s : State) (h k : Nat) (f : Thread → Thread) :
    (s.onThr h k f).tripCause = s.tripCause := rfl
@[simp] theorem State.onThr_gated (s : State) (h k : Nat) (f : Thread → Thread) : (s.onThr h k f).gated = s.gated := rfl
@[simp] theorem State.onThr_fwCap (s : State) (h k : Nat) (f : Thread → Thread) : (s.onThr h k f).fwCap = s.fwCap := rfl
@[simp] theorem State.onThr_failing (s : State) (h k : Nat) (f : Thread → Thread) :
    (s.onThr h k f).failing = s.failing := rfl
@[simp] theorem State.onThr_fwImage (s : State) (h k : Nat) (f : Thread → Thread) :
    (s.onThr h k f).fwImage = s.fwImage := rfl
@[simp] theorem State.onThr_fwLen (s : State) (h k : Nat) (f : Thread → Thread) : (s.onThr h k f).fwLen = s.fwLen := rfl
@[simp] theorem State.onThr_fwVersion (s : State) (h k : Nat) (f : Thread → Thread) :
    (s.onThr h k f).fwVersion = s.fwVersion := rfl
@[simp] theorem State.onThr_fwCounter (s : State) (h k : Nat) (f : Thread → Thread) :
    (s.onThr h k f).fwCounter = s.fwCounter := rfl
@[simp] theorem State.onThr_fwValid (s : State) (h k : Nat) (f : Thread → Thread) :
    (s.onThr h k f).fwValid = s.fwValid := rfl
@[simp] theorem State.onThr_fwRecovery (s : State) (h k : Nat) (f : Thread → Thread) :
    (s.onThr h k f).fwRecovery = s.fwRecovery := rfl
@[simp] theorem State.onThr_fwParts (s : State) (h k : Nat) (f : Thread → Thread) :
    (s.onThr h k f).fwParts = s.fwParts := rfl
@[simp] theorem State.onThr_bootDigest (s : State) (h k : Nat) (f : Thread → Thread) :
    (s.onThr h k f).bootDigest = s.bootDigest := rfl
@[simp] theorem State.onThr_ports (s : State) (h k : Nat) (f : Thread → Thread) : (s.onThr h k f).ports = s.ports := rfl
@[simp] theorem State.onThr_collIdx (s : State) (h k : Nat) (f : Thread → Thread) :
    (s.onThr h k f).collIdx = s.collIdx := rfl
@[simp] theorem State.onThr_colls (s : State) (h k : Nat) (f : Thread → Thread) : (s.onThr h k f).colls = s.colls := rfl
@[simp] theorem State.onThr_collSeq (s : State) (h k : Nat) (f : Thread → Thread) :
    (s.onThr h k f).collSeq = s.collSeq := rfl
@[simp] theorem State.onThr_rules (s : State) (h k : Nat) (f : Thread → Thread) : (s.onThr h k f).rules = s.rules := rfl
@[simp] theorem State.onThr_ruleLoad (s : State) (h k : Nat) (f : Thread → Thread) :
    (s.onThr h k f).ruleLoad = s.ruleLoad := rfl
@[simp] theorem State.onThr_rings (s : State) (h k : Nat) (f : Thread → Thread) : (s.onThr h k f).rings = s.rings := rfl
@[simp] theorem State.onThr_xoff (s : State) (h k : Nat) (f : Thread → Thread) : (s.onThr h k f).xoff = s.xoff := rfl
@[simp] theorem State.onThr_ingHeld (s : State) (h k : Nat) (f : Thread → Thread) :
    (s.onThr h k f).ingHeld = s.ingHeld := rfl
@[simp] theorem State.onThr_delivered (s : State) (h k : Nat) (f : Thread → Thread) :
    (s.onThr h k f).delivered = s.delivered := rfl
@[simp] theorem State.onThr_flitWait (s : State) (h k : Nat) (f : Thread → Thread) :
    (s.onThr h k f).flitWait = s.flitWait := rfl
@[simp] theorem State.onThr_poolRd (s : State) (h k : Nat) (f : Thread → Thread) :
    (s.onThr h k f).poolRd = s.poolRd := rfl
@[simp] theorem State.onThr_poolWr (s : State) (h k : Nat) (f : Thread → Thread) :
    (s.onThr h k f).poolWr = s.poolWr := rfl
@[simp] theorem State.onThr_poolFailed (s : State) (h k : Nat) (f : Thread → Thread) :
    (s.onThr h k f).poolFailed = s.poolFailed := rfl
@[simp] theorem State.onThr_poolCtx (s : State) (h k : Nat) (f : Thread → Thread) :
    (s.onThr h k f).poolCtx = s.poolCtx := rfl
@[simp] theorem State.onThr_hdmRegs (s : State) (h k : Nat) (f : Thread → Thread) :
    (s.onThr h k f).hdmRegs = s.hdmRegs := rfl
@[simp] theorem State.onThr_hdmBase (s : State) (h k : Nat) (f : Thread → Thread) :
    (s.onThr h k f).hdmBase = s.hdmBase := rfl
@[simp] theorem State.onThr_hostDirty (s : State) (h k : Nat) (f : Thread → Thread) :
    (s.onThr h k f).hostDirty = s.hostDirty := rfl
@[simp] theorem State.onThr_hostBad (s : State) (h k : Nat) (f : Thread → Thread) :
    (s.onThr h k f).hostBad = s.hostBad := rfl
@[simp] theorem State.onThr_cmds (s : State) (h k : Nat) (f : Thread → Thread) : (s.onThr h k f).cmds = s.cmds := rfl
@[simp] theorem State.onThr_evHost (s : State) (h k : Nat) (f : Thread → Thread) :
    (s.onThr h k f).evHost = s.evHost := rfl
@[simp] theorem State.onThr_evAcc (s : State) (h k : Nat) (f : Thread → Thread) : (s.onThr h k f).evAcc = s.evAcc := rfl
@[simp] theorem State.onThr_frames (s : State) (h k : Nat) (f : Thread → Thread) :
    (s.onThr h k f).frames = s.frames := rfl
@[simp] theorem State.onThr_revokes (s : State) (h k : Nat) (f : Thread → Thread) :
    (s.onThr h k f).revokes = s.revokes := rfl
@[simp] theorem State.onThr_hostChk (s : State) (h k : Nat) (f : Thread → Thread) :
    (s.onThr h k f).hostChk = s.hostChk := rfl
@[simp] theorem State.onThr_keys (s : State) (h k : Nat) (f : Thread → Thread) : (s.onThr h k f).keys = s.keys := rfl
@[simp] theorem State.onThr_keyData (s : State) (h k : Nat) (f : Thread → Thread) :
    (s.onThr h k f).keyData = s.keyData := rfl
@[simp] theorem State.onThr_vfResets (s : State) (h k : Nat) (f : Thread → Thread) :
    (s.onThr h k f).vfResets = s.vfResets := rfl
@[simp] theorem State.onThr_exclBusy (s : State) (h k : Nat) (f : Thread → Thread) :
    (s.onThr h k f).exclBusy = s.exclBusy := rfl
@[simp] theorem State.onThr_exclWait (s : State) (h k : Nat) (f : Thread → Thread) :
    (s.onThr h k f).exclWait = s.exclWait := rfl
@[simp] theorem State.onThr_scrubMarked (s : State) (h k : Nat) (f : Thread → Thread) :
    (s.onThr h k f).scrubMarked = s.scrubMarked := rfl
@[simp] theorem State.onThr_scrubHeld (s : State) (h k : Nat) (f : Thread → Thread) :
    (s.onThr h k f).scrubHeld = s.scrubHeld := rfl
@[simp] theorem State.onThr_fcClk (s : State) (h k : Nat) (f : Thread → Thread) : (s.onThr h k f).fcClk = s.fcClk := rfl
@[simp] theorem State.onThr_partSeen (s : State) (h k : Nat) (f : Thread → Thread) :
    (s.onThr h k f).partSeen = s.partSeen := rfl
@[simp] theorem State.onThr_bootDue (s : State) (h k : Nat) (f : Thread → Thread) :
    (s.onThr h k f).bootDue = s.bootDue := rfl
@[simp] theorem State.onThr_parts (s : State) (h k : Nat) (f : Thread → Thread) : (s.onThr h k f).parts = s.parts := rfl
@[simp] theorem State.onThr_launches (s : State) (h k : Nat) (f : Thread → Thread) :
    (s.onThr h k f).launches = s.launches := rfl
@[simp] theorem State.onThr_saved (s : State) (h k : Nat) (f : Thread → Thread) : (s.onThr h k f).saved = s.saved := rfl
@[simp] theorem State.onThr_quads (s : State) (h k : Nat) (f : Thread → Thread) : (s.onThr h k f).quads = s.quads := rfl
@[simp] theorem State.onThr_mem (s : State) (h k : Nat) (f : Thread → Thread) : (s.onThr h k f).mem = s.mem := rfl
@[simp] theorem State.onThr_fe (s : State) (h k : Nat) (f : Thread → Thread) : (s.onThr h k f).fe = s.fe := rfl
@[simp] theorem State.onThr_poison (s : State) (h k : Nat) (f : Thread → Thread) :
    (s.onThr h k f).poison = s.poison := rfl
@[simp] theorem State.onThr_rewritten (s : State) (h k : Nat) (f : Thread → Thread) :
    (s.onThr h k f).rewritten = s.rewritten := rfl
@[simp] theorem State.onThr_packed (s : State) (h k : Nat) (f : Thread → Thread) :
    (s.onThr h k f).packed = s.packed := rfl
@[simp] theorem State.onThr_noSym (s : State) (h k : Nat) (f : Thread → Thread) : (s.onThr h k f).noSym = s.noSym := rfl
@[simp] theorem State.onThr_accs (s : State) (h k : Nat) (f : Thread → Thread) : (s.onThr h k f).accs = s.accs := rfl
@[simp] theorem State.onThr_entered (s : State) (h k : Nat) (f : Thread → Thread) :
    (s.onThr h k f).entered = s.entered := rfl
@[simp] theorem State.onThr_sent (s : State) (h k : Nat) (f : Thread → Thread) : (s.onThr h k f).sent = s.sent := rfl
@[simp] theorem State.onThr_xls (s : State) (h k : Nat) (f : Thread → Thread) : (s.onThr h k f).xls = s.xls := rfl
@[simp] theorem State.onThr_hot (s : State) (h k : Nat) (f : Thread → Thread) : (s.onThr h k f).hot = s.hot := rfl
@[simp] theorem State.onThr_mig (s : State) (h k : Nat) (f : Thread → Thread) : (s.onThr h k f).mig = s.mig := rfl
@[simp] theorem State.onThr_hotRows (s : State) (h k : Nat) (f : Thread → Thread) :
    (s.onThr h k f).hotRows = s.hotRows := rfl
@[simp] theorem State.onThr_bitErr (s : State) (h k : Nat) (f : Thread → Thread) :
    (s.onThr h k f).bitErr = s.bitErr := rfl
@[simp] theorem State.onThr_corrReads (s : State) (h k : Nat) (f : Thread → Thread) :
    (s.onThr h k f).corrReads = s.corrReads := rfl
@[simp] theorem State.onThr_uncorr (s : State) (h k : Nat) (f : Thread → Thread) :
    (s.onThr h k f).uncorr = s.uncorr := rfl
@[simp] theorem State.onThr_recLost (s : State) (h k : Nat) (f : Thread → Thread) :
    (s.onThr h k f).recLost = s.recLost := rfl
@[simp] theorem State.onThr_recAt (s : State) (h k : Nat) (f : Thread → Thread) : (s.onThr h k f).recAt = s.recAt := rfl
@[simp] theorem State.onThr_race (s : State) (h k : Nat) (f : Thread → Thread) : (s.onThr h k f).race = s.race := rfl
@[simp] theorem State.onThr_relClk (s : State) (h k : Nat) (f : Thread → Thread) :
    (s.onThr h k f).relClk = s.relClk := rfl
@[simp] theorem State.onThr_sweeps (s : State) (h k : Nat) (f : Thread → Thread) :
    (s.onThr h k f).sweeps = s.sweeps := rfl

@[simp] theorem State.onCur_agenda (s : State) (f : Thread → Thread) : (s.onCur f).agenda = s.agenda := rfl
@[simp] theorem State.onCur_params (s : State) (f : Thread → Thread) : (s.onCur f).params = s.params := rfl
@[simp] theorem State.onCur_curH (s : State) (f : Thread → Thread) : (s.onCur f).curH = s.curH := rfl
@[simp] theorem State.onCur_curSlot (s : State) (f : Thread → Thread) : (s.onCur f).curSlot = s.curSlot := rfl
@[simp] theorem State.onCur_fresh (s : State) (f : Thread → Thread) : (s.onCur f).fresh = s.fresh := rfl
@[simp] theorem State.onCur_nextId (s : State) (f : Thread → Thread) : (s.onCur f).nextId = s.nextId := rfl
@[simp] theorem State.onCur_out (s : State) (f : Thread → Thread) : (s.onCur f).out = s.out := rfl
@[simp] theorem State.onCur_sr (s : State) (f : Thread → Thread) : (s.onCur f).sr = s.sr := rfl
@[simp] theorem State.onCur_hcw (s : State) (f : Thread → Thread) : (s.onCur f).hcw = s.hcw := rfl
@[simp] theorem State.onCur_powered (s : State) (f : Thread → Thread) : (s.onCur f).powered = s.powered := rfl
@[simp] theorem State.onCur_recordFatal (s : State) (f : Thread → Thread) :
    (s.onCur f).recordFatal = s.recordFatal := rfl
@[simp] theorem State.onCur_poolFatal (s : State) (f : Thread → Thread) : (s.onCur f).poolFatal = s.poolFatal := rfl
@[simp] theorem State.onCur_plan (s : State) (f : Thread → Thread) : (s.onCur f).plan = s.plan := rfl
@[simp] theorem State.onCur_freq (s : State) (f : Thread → Thread) : (s.onCur f).freq = s.freq := rfl
@[simp] theorem State.onCur_load (s : State) (f : Thread → Thread) : (s.onCur f).load = s.load := rfl
@[simp] theorem State.onCur_dtime (s : State) (f : Thread → Thread) : (s.onCur f).dtime = s.dtime := rfl
@[simp] theorem State.onCur_twrap (s : State) (f : Thread → Thread) : (s.onCur f).twrap = s.twrap := rfl
@[simp] theorem State.onCur_tstat (s : State) (f : Thread → Thread) : (s.onCur f).tstat = s.tstat := rfl
@[simp] theorem State.onCur_tfail (s : State) (f : Thread → Thread) : (s.onCur f).tfail = s.tfail := rfl
@[simp] theorem State.onCur_aligned (s : State) (f : Thread → Thread) : (s.onCur f).aligned = s.aligned := rfl
@[simp] theorem State.onCur_held (s : State) (f : Thread → Thread) : (s.onCur f).held = s.held := rfl
@[simp] theorem State.onCur_tripCause (s : State) (f : Thread → Thread) : (s.onCur f).tripCause = s.tripCause := rfl
@[simp] theorem State.onCur_gated (s : State) (f : Thread → Thread) : (s.onCur f).gated = s.gated := rfl
@[simp] theorem State.onCur_fwCap (s : State) (f : Thread → Thread) : (s.onCur f).fwCap = s.fwCap := rfl
@[simp] theorem State.onCur_failing (s : State) (f : Thread → Thread) : (s.onCur f).failing = s.failing := rfl
@[simp] theorem State.onCur_fwImage (s : State) (f : Thread → Thread) : (s.onCur f).fwImage = s.fwImage := rfl
@[simp] theorem State.onCur_fwLen (s : State) (f : Thread → Thread) : (s.onCur f).fwLen = s.fwLen := rfl
@[simp] theorem State.onCur_fwVersion (s : State) (f : Thread → Thread) : (s.onCur f).fwVersion = s.fwVersion := rfl
@[simp] theorem State.onCur_fwCounter (s : State) (f : Thread → Thread) : (s.onCur f).fwCounter = s.fwCounter := rfl
@[simp] theorem State.onCur_fwValid (s : State) (f : Thread → Thread) : (s.onCur f).fwValid = s.fwValid := rfl
@[simp] theorem State.onCur_fwRecovery (s : State) (f : Thread → Thread) : (s.onCur f).fwRecovery = s.fwRecovery := rfl
@[simp] theorem State.onCur_fwParts (s : State) (f : Thread → Thread) : (s.onCur f).fwParts = s.fwParts := rfl
@[simp] theorem State.onCur_bootDigest (s : State) (f : Thread → Thread) : (s.onCur f).bootDigest = s.bootDigest := rfl
@[simp] theorem State.onCur_ports (s : State) (f : Thread → Thread) : (s.onCur f).ports = s.ports := rfl
@[simp] theorem State.onCur_collIdx (s : State) (f : Thread → Thread) : (s.onCur f).collIdx = s.collIdx := rfl
@[simp] theorem State.onCur_colls (s : State) (f : Thread → Thread) : (s.onCur f).colls = s.colls := rfl
@[simp] theorem State.onCur_collSeq (s : State) (f : Thread → Thread) : (s.onCur f).collSeq = s.collSeq := rfl
@[simp] theorem State.onCur_rules (s : State) (f : Thread → Thread) : (s.onCur f).rules = s.rules := rfl
@[simp] theorem State.onCur_ruleLoad (s : State) (f : Thread → Thread) : (s.onCur f).ruleLoad = s.ruleLoad := rfl
@[simp] theorem State.onCur_rings (s : State) (f : Thread → Thread) : (s.onCur f).rings = s.rings := rfl
@[simp] theorem State.onCur_xoff (s : State) (f : Thread → Thread) : (s.onCur f).xoff = s.xoff := rfl
@[simp] theorem State.onCur_ingHeld (s : State) (f : Thread → Thread) : (s.onCur f).ingHeld = s.ingHeld := rfl
@[simp] theorem State.onCur_delivered (s : State) (f : Thread → Thread) : (s.onCur f).delivered = s.delivered := rfl
@[simp] theorem State.onCur_flitWait (s : State) (f : Thread → Thread) : (s.onCur f).flitWait = s.flitWait := rfl
@[simp] theorem State.onCur_poolRd (s : State) (f : Thread → Thread) : (s.onCur f).poolRd = s.poolRd := rfl
@[simp] theorem State.onCur_poolWr (s : State) (f : Thread → Thread) : (s.onCur f).poolWr = s.poolWr := rfl
@[simp] theorem State.onCur_poolFailed (s : State) (f : Thread → Thread) : (s.onCur f).poolFailed = s.poolFailed := rfl
@[simp] theorem State.onCur_poolCtx (s : State) (f : Thread → Thread) : (s.onCur f).poolCtx = s.poolCtx := rfl
@[simp] theorem State.onCur_hdmRegs (s : State) (f : Thread → Thread) : (s.onCur f).hdmRegs = s.hdmRegs := rfl
@[simp] theorem State.onCur_hdmBase (s : State) (f : Thread → Thread) : (s.onCur f).hdmBase = s.hdmBase := rfl
@[simp] theorem State.onCur_hostDirty (s : State) (f : Thread → Thread) : (s.onCur f).hostDirty = s.hostDirty := rfl
@[simp] theorem State.onCur_hostBad (s : State) (f : Thread → Thread) : (s.onCur f).hostBad = s.hostBad := rfl
@[simp] theorem State.onCur_cmds (s : State) (f : Thread → Thread) : (s.onCur f).cmds = s.cmds := rfl
@[simp] theorem State.onCur_evHost (s : State) (f : Thread → Thread) : (s.onCur f).evHost = s.evHost := rfl
@[simp] theorem State.onCur_evAcc (s : State) (f : Thread → Thread) : (s.onCur f).evAcc = s.evAcc := rfl
@[simp] theorem State.onCur_frames (s : State) (f : Thread → Thread) : (s.onCur f).frames = s.frames := rfl
@[simp] theorem State.onCur_revokes (s : State) (f : Thread → Thread) : (s.onCur f).revokes = s.revokes := rfl
@[simp] theorem State.onCur_hostChk (s : State) (f : Thread → Thread) : (s.onCur f).hostChk = s.hostChk := rfl
@[simp] theorem State.onCur_keys (s : State) (f : Thread → Thread) : (s.onCur f).keys = s.keys := rfl
@[simp] theorem State.onCur_keyData (s : State) (f : Thread → Thread) : (s.onCur f).keyData = s.keyData := rfl
@[simp] theorem State.onCur_vfResets (s : State) (f : Thread → Thread) : (s.onCur f).vfResets = s.vfResets := rfl
@[simp] theorem State.onCur_exclBusy (s : State) (f : Thread → Thread) : (s.onCur f).exclBusy = s.exclBusy := rfl
@[simp] theorem State.onCur_exclWait (s : State) (f : Thread → Thread) : (s.onCur f).exclWait = s.exclWait := rfl
@[simp] theorem State.onCur_scrubMarked (s : State) (f : Thread → Thread) :
    (s.onCur f).scrubMarked = s.scrubMarked := rfl
@[simp] theorem State.onCur_scrubHeld (s : State) (f : Thread → Thread) : (s.onCur f).scrubHeld = s.scrubHeld := rfl
@[simp] theorem State.onCur_fcClk (s : State) (f : Thread → Thread) : (s.onCur f).fcClk = s.fcClk := rfl
@[simp] theorem State.onCur_partSeen (s : State) (f : Thread → Thread) : (s.onCur f).partSeen = s.partSeen := rfl
@[simp] theorem State.onCur_bootDue (s : State) (f : Thread → Thread) : (s.onCur f).bootDue = s.bootDue := rfl
@[simp] theorem State.onCur_parts (s : State) (f : Thread → Thread) : (s.onCur f).parts = s.parts := rfl
@[simp] theorem State.onCur_launches (s : State) (f : Thread → Thread) : (s.onCur f).launches = s.launches := rfl
@[simp] theorem State.onCur_saved (s : State) (f : Thread → Thread) : (s.onCur f).saved = s.saved := rfl
@[simp] theorem State.onCur_quads (s : State) (f : Thread → Thread) : (s.onCur f).quads = s.quads := rfl
@[simp] theorem State.onCur_mem (s : State) (f : Thread → Thread) : (s.onCur f).mem = s.mem := rfl
@[simp] theorem State.onCur_fe (s : State) (f : Thread → Thread) : (s.onCur f).fe = s.fe := rfl
@[simp] theorem State.onCur_poison (s : State) (f : Thread → Thread) : (s.onCur f).poison = s.poison := rfl
@[simp] theorem State.onCur_rewritten (s : State) (f : Thread → Thread) : (s.onCur f).rewritten = s.rewritten := rfl
@[simp] theorem State.onCur_packed (s : State) (f : Thread → Thread) : (s.onCur f).packed = s.packed := rfl
@[simp] theorem State.onCur_noSym (s : State) (f : Thread → Thread) : (s.onCur f).noSym = s.noSym := rfl
@[simp] theorem State.onCur_accs (s : State) (f : Thread → Thread) : (s.onCur f).accs = s.accs := rfl
@[simp] theorem State.onCur_entered (s : State) (f : Thread → Thread) : (s.onCur f).entered = s.entered := rfl
@[simp] theorem State.onCur_sent (s : State) (f : Thread → Thread) : (s.onCur f).sent = s.sent := rfl
@[simp] theorem State.onCur_xls (s : State) (f : Thread → Thread) : (s.onCur f).xls = s.xls := rfl
@[simp] theorem State.onCur_hot (s : State) (f : Thread → Thread) : (s.onCur f).hot = s.hot := rfl
@[simp] theorem State.onCur_mig (s : State) (f : Thread → Thread) : (s.onCur f).mig = s.mig := rfl
@[simp] theorem State.onCur_hotRows (s : State) (f : Thread → Thread) : (s.onCur f).hotRows = s.hotRows := rfl
@[simp] theorem State.onCur_bitErr (s : State) (f : Thread → Thread) : (s.onCur f).bitErr = s.bitErr := rfl
@[simp] theorem State.onCur_corrReads (s : State) (f : Thread → Thread) : (s.onCur f).corrReads = s.corrReads := rfl
@[simp] theorem State.onCur_uncorr (s : State) (f : Thread → Thread) : (s.onCur f).uncorr = s.uncorr := rfl
@[simp] theorem State.onCur_recLost (s : State) (f : Thread → Thread) : (s.onCur f).recLost = s.recLost := rfl
@[simp] theorem State.onCur_recAt (s : State) (f : Thread → Thread) : (s.onCur f).recAt = s.recAt := rfl
@[simp] theorem State.onCur_race (s : State) (f : Thread → Thread) : (s.onCur f).race = s.race := rfl
@[simp] theorem State.onCur_relClk (s : State) (f : Thread → Thread) : (s.onCur f).relClk = s.relClk := rfl
@[simp] theorem State.onCur_sweeps (s : State) (f : Thread → Thread) : (s.onCur f).sweeps = s.sweeps := rfl

@[simp] theorem State.onCC_agenda (s : State) (f : Core → Core) : (s.onCC f).agenda = s.agenda := rfl
@[simp] theorem State.onCC_params (s : State) (f : Core → Core) : (s.onCC f).params = s.params := rfl
@[simp] theorem State.onCC_curH (s : State) (f : Core → Core) : (s.onCC f).curH = s.curH := rfl
@[simp] theorem State.onCC_curSlot (s : State) (f : Core → Core) : (s.onCC f).curSlot = s.curSlot := rfl
@[simp] theorem State.onCC_fresh (s : State) (f : Core → Core) : (s.onCC f).fresh = s.fresh := rfl
@[simp] theorem State.onCC_nextId (s : State) (f : Core → Core) : (s.onCC f).nextId = s.nextId := rfl
@[simp] theorem State.onCC_out (s : State) (f : Core → Core) : (s.onCC f).out = s.out := rfl
@[simp] theorem State.onCC_sr (s : State) (f : Core → Core) : (s.onCC f).sr = s.sr := rfl
@[simp] theorem State.onCC_hcw (s : State) (f : Core → Core) : (s.onCC f).hcw = s.hcw := rfl
@[simp] theorem State.onCC_powered (s : State) (f : Core → Core) : (s.onCC f).powered = s.powered := rfl
@[simp] theorem State.onCC_recordFatal (s : State) (f : Core → Core) : (s.onCC f).recordFatal = s.recordFatal := rfl
@[simp] theorem State.onCC_poolFatal (s : State) (f : Core → Core) : (s.onCC f).poolFatal = s.poolFatal := rfl
@[simp] theorem State.onCC_plan (s : State) (f : Core → Core) : (s.onCC f).plan = s.plan := rfl
@[simp] theorem State.onCC_freq (s : State) (f : Core → Core) : (s.onCC f).freq = s.freq := rfl
@[simp] theorem State.onCC_load (s : State) (f : Core → Core) : (s.onCC f).load = s.load := rfl
@[simp] theorem State.onCC_dtime (s : State) (f : Core → Core) : (s.onCC f).dtime = s.dtime := rfl
@[simp] theorem State.onCC_twrap (s : State) (f : Core → Core) : (s.onCC f).twrap = s.twrap := rfl
@[simp] theorem State.onCC_tstat (s : State) (f : Core → Core) : (s.onCC f).tstat = s.tstat := rfl
@[simp] theorem State.onCC_tfail (s : State) (f : Core → Core) : (s.onCC f).tfail = s.tfail := rfl
@[simp] theorem State.onCC_aligned (s : State) (f : Core → Core) : (s.onCC f).aligned = s.aligned := rfl
@[simp] theorem State.onCC_held (s : State) (f : Core → Core) : (s.onCC f).held = s.held := rfl
@[simp] theorem State.onCC_tripCause (s : State) (f : Core → Core) : (s.onCC f).tripCause = s.tripCause := rfl
@[simp] theorem State.onCC_gated (s : State) (f : Core → Core) : (s.onCC f).gated = s.gated := rfl
@[simp] theorem State.onCC_fwCap (s : State) (f : Core → Core) : (s.onCC f).fwCap = s.fwCap := rfl
@[simp] theorem State.onCC_failing (s : State) (f : Core → Core) : (s.onCC f).failing = s.failing := rfl
@[simp] theorem State.onCC_fwImage (s : State) (f : Core → Core) : (s.onCC f).fwImage = s.fwImage := rfl
@[simp] theorem State.onCC_fwLen (s : State) (f : Core → Core) : (s.onCC f).fwLen = s.fwLen := rfl
@[simp] theorem State.onCC_fwVersion (s : State) (f : Core → Core) : (s.onCC f).fwVersion = s.fwVersion := rfl
@[simp] theorem State.onCC_fwCounter (s : State) (f : Core → Core) : (s.onCC f).fwCounter = s.fwCounter := rfl
@[simp] theorem State.onCC_fwValid (s : State) (f : Core → Core) : (s.onCC f).fwValid = s.fwValid := rfl
@[simp] theorem State.onCC_fwRecovery (s : State) (f : Core → Core) : (s.onCC f).fwRecovery = s.fwRecovery := rfl
@[simp] theorem State.onCC_fwParts (s : State) (f : Core → Core) : (s.onCC f).fwParts = s.fwParts := rfl
@[simp] theorem State.onCC_bootDigest (s : State) (f : Core → Core) : (s.onCC f).bootDigest = s.bootDigest := rfl
@[simp] theorem State.onCC_ports (s : State) (f : Core → Core) : (s.onCC f).ports = s.ports := rfl
@[simp] theorem State.onCC_collIdx (s : State) (f : Core → Core) : (s.onCC f).collIdx = s.collIdx := rfl
@[simp] theorem State.onCC_colls (s : State) (f : Core → Core) : (s.onCC f).colls = s.colls := rfl
@[simp] theorem State.onCC_collSeq (s : State) (f : Core → Core) : (s.onCC f).collSeq = s.collSeq := rfl
@[simp] theorem State.onCC_rules (s : State) (f : Core → Core) : (s.onCC f).rules = s.rules := rfl
@[simp] theorem State.onCC_ruleLoad (s : State) (f : Core → Core) : (s.onCC f).ruleLoad = s.ruleLoad := rfl
@[simp] theorem State.onCC_rings (s : State) (f : Core → Core) : (s.onCC f).rings = s.rings := rfl
@[simp] theorem State.onCC_xoff (s : State) (f : Core → Core) : (s.onCC f).xoff = s.xoff := rfl
@[simp] theorem State.onCC_ingHeld (s : State) (f : Core → Core) : (s.onCC f).ingHeld = s.ingHeld := rfl
@[simp] theorem State.onCC_delivered (s : State) (f : Core → Core) : (s.onCC f).delivered = s.delivered := rfl
@[simp] theorem State.onCC_flitWait (s : State) (f : Core → Core) : (s.onCC f).flitWait = s.flitWait := rfl
@[simp] theorem State.onCC_poolRd (s : State) (f : Core → Core) : (s.onCC f).poolRd = s.poolRd := rfl
@[simp] theorem State.onCC_poolWr (s : State) (f : Core → Core) : (s.onCC f).poolWr = s.poolWr := rfl
@[simp] theorem State.onCC_poolFailed (s : State) (f : Core → Core) : (s.onCC f).poolFailed = s.poolFailed := rfl
@[simp] theorem State.onCC_poolCtx (s : State) (f : Core → Core) : (s.onCC f).poolCtx = s.poolCtx := rfl
@[simp] theorem State.onCC_hdmRegs (s : State) (f : Core → Core) : (s.onCC f).hdmRegs = s.hdmRegs := rfl
@[simp] theorem State.onCC_hdmBase (s : State) (f : Core → Core) : (s.onCC f).hdmBase = s.hdmBase := rfl
@[simp] theorem State.onCC_hostDirty (s : State) (f : Core → Core) : (s.onCC f).hostDirty = s.hostDirty := rfl
@[simp] theorem State.onCC_hostBad (s : State) (f : Core → Core) : (s.onCC f).hostBad = s.hostBad := rfl
@[simp] theorem State.onCC_cmds (s : State) (f : Core → Core) : (s.onCC f).cmds = s.cmds := rfl
@[simp] theorem State.onCC_evHost (s : State) (f : Core → Core) : (s.onCC f).evHost = s.evHost := rfl
@[simp] theorem State.onCC_evAcc (s : State) (f : Core → Core) : (s.onCC f).evAcc = s.evAcc := rfl
@[simp] theorem State.onCC_frames (s : State) (f : Core → Core) : (s.onCC f).frames = s.frames := rfl
@[simp] theorem State.onCC_revokes (s : State) (f : Core → Core) : (s.onCC f).revokes = s.revokes := rfl
@[simp] theorem State.onCC_hostChk (s : State) (f : Core → Core) : (s.onCC f).hostChk = s.hostChk := rfl
@[simp] theorem State.onCC_keys (s : State) (f : Core → Core) : (s.onCC f).keys = s.keys := rfl
@[simp] theorem State.onCC_keyData (s : State) (f : Core → Core) : (s.onCC f).keyData = s.keyData := rfl
@[simp] theorem State.onCC_vfResets (s : State) (f : Core → Core) : (s.onCC f).vfResets = s.vfResets := rfl
@[simp] theorem State.onCC_exclBusy (s : State) (f : Core → Core) : (s.onCC f).exclBusy = s.exclBusy := rfl
@[simp] theorem State.onCC_exclWait (s : State) (f : Core → Core) : (s.onCC f).exclWait = s.exclWait := rfl
@[simp] theorem State.onCC_scrubMarked (s : State) (f : Core → Core) : (s.onCC f).scrubMarked = s.scrubMarked := rfl
@[simp] theorem State.onCC_scrubHeld (s : State) (f : Core → Core) : (s.onCC f).scrubHeld = s.scrubHeld := rfl
@[simp] theorem State.onCC_fcClk (s : State) (f : Core → Core) : (s.onCC f).fcClk = s.fcClk := rfl
@[simp] theorem State.onCC_partSeen (s : State) (f : Core → Core) : (s.onCC f).partSeen = s.partSeen := rfl
@[simp] theorem State.onCC_bootDue (s : State) (f : Core → Core) : (s.onCC f).bootDue = s.bootDue := rfl
@[simp] theorem State.onCC_parts (s : State) (f : Core → Core) : (s.onCC f).parts = s.parts := rfl
@[simp] theorem State.onCC_launches (s : State) (f : Core → Core) : (s.onCC f).launches = s.launches := rfl
@[simp] theorem State.onCC_saved (s : State) (f : Core → Core) : (s.onCC f).saved = s.saved := rfl
@[simp] theorem State.onCC_quads (s : State) (f : Core → Core) : (s.onCC f).quads = s.quads := rfl
@[simp] theorem State.onCC_mem (s : State) (f : Core → Core) : (s.onCC f).mem = s.mem := rfl
@[simp] theorem State.onCC_fe (s : State) (f : Core → Core) : (s.onCC f).fe = s.fe := rfl
@[simp] theorem State.onCC_poison (s : State) (f : Core → Core) : (s.onCC f).poison = s.poison := rfl
@[simp] theorem State.onCC_rewritten (s : State) (f : Core → Core) : (s.onCC f).rewritten = s.rewritten := rfl
@[simp] theorem State.onCC_packed (s : State) (f : Core → Core) : (s.onCC f).packed = s.packed := rfl
@[simp] theorem State.onCC_noSym (s : State) (f : Core → Core) : (s.onCC f).noSym = s.noSym := rfl
@[simp] theorem State.onCC_accs (s : State) (f : Core → Core) : (s.onCC f).accs = s.accs := rfl
@[simp] theorem State.onCC_entered (s : State) (f : Core → Core) : (s.onCC f).entered = s.entered := rfl
@[simp] theorem State.onCC_sent (s : State) (f : Core → Core) : (s.onCC f).sent = s.sent := rfl
@[simp] theorem State.onCC_xls (s : State) (f : Core → Core) : (s.onCC f).xls = s.xls := rfl
@[simp] theorem State.onCC_hot (s : State) (f : Core → Core) : (s.onCC f).hot = s.hot := rfl
@[simp] theorem State.onCC_mig (s : State) (f : Core → Core) : (s.onCC f).mig = s.mig := rfl
@[simp] theorem State.onCC_hotRows (s : State) (f : Core → Core) : (s.onCC f).hotRows = s.hotRows := rfl
@[simp] theorem State.onCC_bitErr (s : State) (f : Core → Core) : (s.onCC f).bitErr = s.bitErr := rfl
@[simp] theorem State.onCC_corrReads (s : State) (f : Core → Core) : (s.onCC f).corrReads = s.corrReads := rfl
@[simp] theorem State.onCC_uncorr (s : State) (f : Core → Core) : (s.onCC f).uncorr = s.uncorr := rfl
@[simp] theorem State.onCC_recLost (s : State) (f : Core → Core) : (s.onCC f).recLost = s.recLost := rfl
@[simp] theorem State.onCC_recAt (s : State) (f : Core → Core) : (s.onCC f).recAt = s.recAt := rfl
@[simp] theorem State.onCC_race (s : State) (f : Core → Core) : (s.onCC f).race = s.race := rfl
@[simp] theorem State.onCC_relClk (s : State) (f : Core → Core) : (s.onCC f).relClk = s.relClk := rfl
@[simp] theorem State.onCC_sweeps (s : State) (f : Core → Core) : (s.onCC f).sweeps = s.sweeps := rfl

@[simp] theorem State.onQuad_agenda (s : State) (q : Nat) (f : Quad → Quad) : (s.onQuad q f).agenda = s.agenda := rfl
@[simp] theorem State.onQuad_params (s : State) (q : Nat) (f : Quad → Quad) : (s.onQuad q f).params = s.params := rfl
@[simp] theorem State.onQuad_curH (s : State) (q : Nat) (f : Quad → Quad) : (s.onQuad q f).curH = s.curH := rfl
@[simp] theorem State.onQuad_curSlot (s : State) (q : Nat) (f : Quad → Quad) : (s.onQuad q f).curSlot = s.curSlot := rfl
@[simp] theorem State.onQuad_fresh (s : State) (q : Nat) (f : Quad → Quad) : (s.onQuad q f).fresh = s.fresh := rfl
@[simp] theorem State.onQuad_nextId (s : State) (q : Nat) (f : Quad → Quad) : (s.onQuad q f).nextId = s.nextId := rfl
@[simp] theorem State.onQuad_out (s : State) (q : Nat) (f : Quad → Quad) : (s.onQuad q f).out = s.out := rfl
@[simp] theorem State.onQuad_sr (s : State) (q : Nat) (f : Quad → Quad) : (s.onQuad q f).sr = s.sr := rfl
@[simp] theorem State.onQuad_hcw (s : State) (q : Nat) (f : Quad → Quad) : (s.onQuad q f).hcw = s.hcw := rfl
@[simp] theorem State.onQuad_powered (s : State) (q : Nat) (f : Quad → Quad) : (s.onQuad q f).powered = s.powered := rfl
@[simp] theorem State.onQuad_recordFatal (s : State) (q : Nat) (f : Quad → Quad) :
    (s.onQuad q f).recordFatal = s.recordFatal := rfl
@[simp] theorem State.onQuad_poolFatal (s : State) (q : Nat) (f : Quad → Quad) :
    (s.onQuad q f).poolFatal = s.poolFatal := rfl
@[simp] theorem State.onQuad_plan (s : State) (q : Nat) (f : Quad → Quad) : (s.onQuad q f).plan = s.plan := rfl
@[simp] theorem State.onQuad_freq (s : State) (q : Nat) (f : Quad → Quad) : (s.onQuad q f).freq = s.freq := rfl
@[simp] theorem State.onQuad_load (s : State) (q : Nat) (f : Quad → Quad) : (s.onQuad q f).load = s.load := rfl
@[simp] theorem State.onQuad_dtime (s : State) (q : Nat) (f : Quad → Quad) : (s.onQuad q f).dtime = s.dtime := rfl
@[simp] theorem State.onQuad_twrap (s : State) (q : Nat) (f : Quad → Quad) : (s.onQuad q f).twrap = s.twrap := rfl
@[simp] theorem State.onQuad_tstat (s : State) (q : Nat) (f : Quad → Quad) : (s.onQuad q f).tstat = s.tstat := rfl
@[simp] theorem State.onQuad_tfail (s : State) (q : Nat) (f : Quad → Quad) : (s.onQuad q f).tfail = s.tfail := rfl
@[simp] theorem State.onQuad_aligned (s : State) (q : Nat) (f : Quad → Quad) : (s.onQuad q f).aligned = s.aligned := rfl
@[simp] theorem State.onQuad_held (s : State) (q : Nat) (f : Quad → Quad) : (s.onQuad q f).held = s.held := rfl
@[simp] theorem State.onQuad_tripCause (s : State) (q : Nat) (f : Quad → Quad) :
    (s.onQuad q f).tripCause = s.tripCause := rfl
@[simp] theorem State.onQuad_gated (s : State) (q : Nat) (f : Quad → Quad) : (s.onQuad q f).gated = s.gated := rfl
@[simp] theorem State.onQuad_fwCap (s : State) (q : Nat) (f : Quad → Quad) : (s.onQuad q f).fwCap = s.fwCap := rfl
@[simp] theorem State.onQuad_failing (s : State) (q : Nat) (f : Quad → Quad) : (s.onQuad q f).failing = s.failing := rfl
@[simp] theorem State.onQuad_fwImage (s : State) (q : Nat) (f : Quad → Quad) : (s.onQuad q f).fwImage = s.fwImage := rfl
@[simp] theorem State.onQuad_fwLen (s : State) (q : Nat) (f : Quad → Quad) : (s.onQuad q f).fwLen = s.fwLen := rfl
@[simp] theorem State.onQuad_fwVersion (s : State) (q : Nat) (f : Quad → Quad) :
    (s.onQuad q f).fwVersion = s.fwVersion := rfl
@[simp] theorem State.onQuad_fwCounter (s : State) (q : Nat) (f : Quad → Quad) :
    (s.onQuad q f).fwCounter = s.fwCounter := rfl
@[simp] theorem State.onQuad_fwValid (s : State) (q : Nat) (f : Quad → Quad) : (s.onQuad q f).fwValid = s.fwValid := rfl
@[simp] theorem State.onQuad_fwRecovery (s : State) (q : Nat) (f : Quad → Quad) :
    (s.onQuad q f).fwRecovery = s.fwRecovery := rfl
@[simp] theorem State.onQuad_fwParts (s : State) (q : Nat) (f : Quad → Quad) : (s.onQuad q f).fwParts = s.fwParts := rfl
@[simp] theorem State.onQuad_bootDigest (s : State) (q : Nat) (f : Quad → Quad) :
    (s.onQuad q f).bootDigest = s.bootDigest := rfl
@[simp] theorem State.onQuad_ports (s : State) (q : Nat) (f : Quad → Quad) : (s.onQuad q f).ports = s.ports := rfl
@[simp] theorem State.onQuad_collIdx (s : State) (q : Nat) (f : Quad → Quad) : (s.onQuad q f).collIdx = s.collIdx := rfl
@[simp] theorem State.onQuad_colls (s : State) (q : Nat) (f : Quad → Quad) : (s.onQuad q f).colls = s.colls := rfl
@[simp] theorem State.onQuad_collSeq (s : State) (q : Nat) (f : Quad → Quad) : (s.onQuad q f).collSeq = s.collSeq := rfl
@[simp] theorem State.onQuad_rules (s : State) (q : Nat) (f : Quad → Quad) : (s.onQuad q f).rules = s.rules := rfl
@[simp] theorem State.onQuad_ruleLoad (s : State) (q : Nat) (f : Quad → Quad) :
    (s.onQuad q f).ruleLoad = s.ruleLoad := rfl
@[simp] theorem State.onQuad_rings (s : State) (q : Nat) (f : Quad → Quad) : (s.onQuad q f).rings = s.rings := rfl
@[simp] theorem State.onQuad_xoff (s : State) (q : Nat) (f : Quad → Quad) : (s.onQuad q f).xoff = s.xoff := rfl
@[simp] theorem State.onQuad_ingHeld (s : State) (q : Nat) (f : Quad → Quad) : (s.onQuad q f).ingHeld = s.ingHeld := rfl
@[simp] theorem State.onQuad_delivered (s : State) (q : Nat) (f : Quad → Quad) :
    (s.onQuad q f).delivered = s.delivered := rfl
@[simp] theorem State.onQuad_flitWait (s : State) (q : Nat) (f : Quad → Quad) :
    (s.onQuad q f).flitWait = s.flitWait := rfl
@[simp] theorem State.onQuad_poolRd (s : State) (q : Nat) (f : Quad → Quad) : (s.onQuad q f).poolRd = s.poolRd := rfl
@[simp] theorem State.onQuad_poolWr (s : State) (q : Nat) (f : Quad → Quad) : (s.onQuad q f).poolWr = s.poolWr := rfl
@[simp] theorem State.onQuad_poolFailed (s : State) (q : Nat) (f : Quad → Quad) :
    (s.onQuad q f).poolFailed = s.poolFailed := rfl
@[simp] theorem State.onQuad_poolCtx (s : State) (q : Nat) (f : Quad → Quad) : (s.onQuad q f).poolCtx = s.poolCtx := rfl
@[simp] theorem State.onQuad_hdmRegs (s : State) (q : Nat) (f : Quad → Quad) : (s.onQuad q f).hdmRegs = s.hdmRegs := rfl
@[simp] theorem State.onQuad_hdmBase (s : State) (q : Nat) (f : Quad → Quad) : (s.onQuad q f).hdmBase = s.hdmBase := rfl
@[simp] theorem State.onQuad_hostDirty (s : State) (q : Nat) (f : Quad → Quad) :
    (s.onQuad q f).hostDirty = s.hostDirty := rfl
@[simp] theorem State.onQuad_hostBad (s : State) (q : Nat) (f : Quad → Quad) : (s.onQuad q f).hostBad = s.hostBad := rfl
@[simp] theorem State.onQuad_cmds (s : State) (q : Nat) (f : Quad → Quad) : (s.onQuad q f).cmds = s.cmds := rfl
@[simp] theorem State.onQuad_evHost (s : State) (q : Nat) (f : Quad → Quad) : (s.onQuad q f).evHost = s.evHost := rfl
@[simp] theorem State.onQuad_evAcc (s : State) (q : Nat) (f : Quad → Quad) : (s.onQuad q f).evAcc = s.evAcc := rfl
@[simp] theorem State.onQuad_frames (s : State) (q : Nat) (f : Quad → Quad) : (s.onQuad q f).frames = s.frames := rfl
@[simp] theorem State.onQuad_revokes (s : State) (q : Nat) (f : Quad → Quad) : (s.onQuad q f).revokes = s.revokes := rfl
@[simp] theorem State.onQuad_hostChk (s : State) (q : Nat) (f : Quad → Quad) : (s.onQuad q f).hostChk = s.hostChk := rfl
@[simp] theorem State.onQuad_keys (s : State) (q : Nat) (f : Quad → Quad) : (s.onQuad q f).keys = s.keys := rfl
@[simp] theorem State.onQuad_keyData (s : State) (q : Nat) (f : Quad → Quad) : (s.onQuad q f).keyData = s.keyData := rfl
@[simp] theorem State.onQuad_vfResets (s : State) (q : Nat) (f : Quad → Quad) :
    (s.onQuad q f).vfResets = s.vfResets := rfl
@[simp] theorem State.onQuad_exclBusy (s : State) (q : Nat) (f : Quad → Quad) :
    (s.onQuad q f).exclBusy = s.exclBusy := rfl
@[simp] theorem State.onQuad_exclWait (s : State) (q : Nat) (f : Quad → Quad) :
    (s.onQuad q f).exclWait = s.exclWait := rfl
@[simp] theorem State.onQuad_scrubMarked (s : State) (q : Nat) (f : Quad → Quad) :
    (s.onQuad q f).scrubMarked = s.scrubMarked := rfl
@[simp] theorem State.onQuad_scrubHeld (s : State) (q : Nat) (f : Quad → Quad) :
    (s.onQuad q f).scrubHeld = s.scrubHeld := rfl
@[simp] theorem State.onQuad_fcClk (s : State) (q : Nat) (f : Quad → Quad) : (s.onQuad q f).fcClk = s.fcClk := rfl
@[simp] theorem State.onQuad_partSeen (s : State) (q : Nat) (f : Quad → Quad) :
    (s.onQuad q f).partSeen = s.partSeen := rfl
@[simp] theorem State.onQuad_bootDue (s : State) (q : Nat) (f : Quad → Quad) : (s.onQuad q f).bootDue = s.bootDue := rfl
@[simp] theorem State.onQuad_parts (s : State) (q : Nat) (f : Quad → Quad) : (s.onQuad q f).parts = s.parts := rfl
@[simp] theorem State.onQuad_launches (s : State) (q : Nat) (f : Quad → Quad) :
    (s.onQuad q f).launches = s.launches := rfl
@[simp] theorem State.onQuad_saved (s : State) (q : Nat) (f : Quad → Quad) : (s.onQuad q f).saved = s.saved := rfl
@[simp] theorem State.onQuad_cores (s : State) (q : Nat) (f : Quad → Quad) : (s.onQuad q f).cores = s.cores := rfl
@[simp] theorem State.onQuad_mem (s : State) (q : Nat) (f : Quad → Quad) : (s.onQuad q f).mem = s.mem := rfl
@[simp] theorem State.onQuad_fe (s : State) (q : Nat) (f : Quad → Quad) : (s.onQuad q f).fe = s.fe := rfl
@[simp] theorem State.onQuad_poison (s : State) (q : Nat) (f : Quad → Quad) : (s.onQuad q f).poison = s.poison := rfl
@[simp] theorem State.onQuad_rewritten (s : State) (q : Nat) (f : Quad → Quad) :
    (s.onQuad q f).rewritten = s.rewritten := rfl
@[simp] theorem State.onQuad_packed (s : State) (q : Nat) (f : Quad → Quad) : (s.onQuad q f).packed = s.packed := rfl
@[simp] theorem State.onQuad_noSym (s : State) (q : Nat) (f : Quad → Quad) : (s.onQuad q f).noSym = s.noSym := rfl
@[simp] theorem State.onQuad_accs (s : State) (q : Nat) (f : Quad → Quad) : (s.onQuad q f).accs = s.accs := rfl
@[simp] theorem State.onQuad_entered (s : State) (q : Nat) (f : Quad → Quad) : (s.onQuad q f).entered = s.entered := rfl
@[simp] theorem State.onQuad_sent (s : State) (q : Nat) (f : Quad → Quad) : (s.onQuad q f).sent = s.sent := rfl
@[simp] theorem State.onQuad_xls (s : State) (q : Nat) (f : Quad → Quad) : (s.onQuad q f).xls = s.xls := rfl
@[simp] theorem State.onQuad_hot (s : State) (q : Nat) (f : Quad → Quad) : (s.onQuad q f).hot = s.hot := rfl
@[simp] theorem State.onQuad_mig (s : State) (q : Nat) (f : Quad → Quad) : (s.onQuad q f).mig = s.mig := rfl
@[simp] theorem State.onQuad_hotRows (s : State) (q : Nat) (f : Quad → Quad) : (s.onQuad q f).hotRows = s.hotRows := rfl
@[simp] theorem State.onQuad_bitErr (s : State) (q : Nat) (f : Quad → Quad) : (s.onQuad q f).bitErr = s.bitErr := rfl
@[simp] theorem State.onQuad_corrReads (s : State) (q : Nat) (f : Quad → Quad) :
    (s.onQuad q f).corrReads = s.corrReads := rfl
@[simp] theorem State.onQuad_uncorr (s : State) (q : Nat) (f : Quad → Quad) : (s.onQuad q f).uncorr = s.uncorr := rfl
@[simp] theorem State.onQuad_recLost (s : State) (q : Nat) (f : Quad → Quad) : (s.onQuad q f).recLost = s.recLost := rfl
@[simp] theorem State.onQuad_recAt (s : State) (q : Nat) (f : Quad → Quad) : (s.onQuad q f).recAt = s.recAt := rfl
@[simp] theorem State.onQuad_race (s : State) (q : Nat) (f : Quad → Quad) : (s.onQuad q f).race = s.race := rfl
@[simp] theorem State.onQuad_relClk (s : State) (q : Nat) (f : Quad → Quad) : (s.onQuad q f).relClk = s.relClk := rfl
@[simp] theorem State.onQuad_sweeps (s : State) (q : Nat) (f : Quad → Quad) : (s.onQuad q f).sweeps = s.sweeps := rfl

@[simp] theorem State.setSr_agenda (s : State) (n i : Nat) (v : Word) : (s.setSr n i v).agenda = s.agenda := rfl
@[simp] theorem State.setSr_params (s : State) (n i : Nat) (v : Word) : (s.setSr n i v).params = s.params := rfl
@[simp] theorem State.setSr_curH (s : State) (n i : Nat) (v : Word) : (s.setSr n i v).curH = s.curH := rfl
@[simp] theorem State.setSr_curSlot (s : State) (n i : Nat) (v : Word) : (s.setSr n i v).curSlot = s.curSlot := rfl
@[simp] theorem State.setSr_fresh (s : State) (n i : Nat) (v : Word) : (s.setSr n i v).fresh = s.fresh := rfl
@[simp] theorem State.setSr_nextId (s : State) (n i : Nat) (v : Word) : (s.setSr n i v).nextId = s.nextId := rfl
@[simp] theorem State.setSr_out (s : State) (n i : Nat) (v : Word) : (s.setSr n i v).out = s.out := rfl
@[simp] theorem State.setSr_hcw (s : State) (n i : Nat) (v : Word) : (s.setSr n i v).hcw = s.hcw := rfl
@[simp] theorem State.setSr_powered (s : State) (n i : Nat) (v : Word) : (s.setSr n i v).powered = s.powered := rfl
@[simp] theorem State.setSr_recordFatal (s : State) (n i : Nat) (v : Word) :
    (s.setSr n i v).recordFatal = s.recordFatal := rfl
@[simp] theorem State.setSr_poolFatal (s : State) (n i : Nat) (v : Word) :
    (s.setSr n i v).poolFatal = s.poolFatal := rfl
@[simp] theorem State.setSr_plan (s : State) (n i : Nat) (v : Word) : (s.setSr n i v).plan = s.plan := rfl
@[simp] theorem State.setSr_freq (s : State) (n i : Nat) (v : Word) : (s.setSr n i v).freq = s.freq := rfl
@[simp] theorem State.setSr_load (s : State) (n i : Nat) (v : Word) : (s.setSr n i v).load = s.load := rfl
@[simp] theorem State.setSr_dtime (s : State) (n i : Nat) (v : Word) : (s.setSr n i v).dtime = s.dtime := rfl
@[simp] theorem State.setSr_twrap (s : State) (n i : Nat) (v : Word) : (s.setSr n i v).twrap = s.twrap := rfl
@[simp] theorem State.setSr_tstat (s : State) (n i : Nat) (v : Word) : (s.setSr n i v).tstat = s.tstat := rfl
@[simp] theorem State.setSr_tfail (s : State) (n i : Nat) (v : Word) : (s.setSr n i v).tfail = s.tfail := rfl
@[simp] theorem State.setSr_aligned (s : State) (n i : Nat) (v : Word) : (s.setSr n i v).aligned = s.aligned := rfl
@[simp] theorem State.setSr_held (s : State) (n i : Nat) (v : Word) : (s.setSr n i v).held = s.held := rfl
@[simp] theorem State.setSr_tripCause (s : State) (n i : Nat) (v : Word) :
    (s.setSr n i v).tripCause = s.tripCause := rfl
@[simp] theorem State.setSr_gated (s : State) (n i : Nat) (v : Word) : (s.setSr n i v).gated = s.gated := rfl
@[simp] theorem State.setSr_fwCap (s : State) (n i : Nat) (v : Word) : (s.setSr n i v).fwCap = s.fwCap := rfl
@[simp] theorem State.setSr_failing (s : State) (n i : Nat) (v : Word) : (s.setSr n i v).failing = s.failing := rfl
@[simp] theorem State.setSr_fwImage (s : State) (n i : Nat) (v : Word) : (s.setSr n i v).fwImage = s.fwImage := rfl
@[simp] theorem State.setSr_fwLen (s : State) (n i : Nat) (v : Word) : (s.setSr n i v).fwLen = s.fwLen := rfl
@[simp] theorem State.setSr_fwVersion (s : State) (n i : Nat) (v : Word) :
    (s.setSr n i v).fwVersion = s.fwVersion := rfl
@[simp] theorem State.setSr_fwCounter (s : State) (n i : Nat) (v : Word) :
    (s.setSr n i v).fwCounter = s.fwCounter := rfl
@[simp] theorem State.setSr_fwValid (s : State) (n i : Nat) (v : Word) : (s.setSr n i v).fwValid = s.fwValid := rfl
@[simp] theorem State.setSr_fwRecovery (s : State) (n i : Nat) (v : Word) :
    (s.setSr n i v).fwRecovery = s.fwRecovery := rfl
@[simp] theorem State.setSr_fwParts (s : State) (n i : Nat) (v : Word) : (s.setSr n i v).fwParts = s.fwParts := rfl
@[simp] theorem State.setSr_bootDigest (s : State) (n i : Nat) (v : Word) :
    (s.setSr n i v).bootDigest = s.bootDigest := rfl
@[simp] theorem State.setSr_ports (s : State) (n i : Nat) (v : Word) : (s.setSr n i v).ports = s.ports := rfl
@[simp] theorem State.setSr_collIdx (s : State) (n i : Nat) (v : Word) : (s.setSr n i v).collIdx = s.collIdx := rfl
@[simp] theorem State.setSr_colls (s : State) (n i : Nat) (v : Word) : (s.setSr n i v).colls = s.colls := rfl
@[simp] theorem State.setSr_collSeq (s : State) (n i : Nat) (v : Word) : (s.setSr n i v).collSeq = s.collSeq := rfl
@[simp] theorem State.setSr_rules (s : State) (n i : Nat) (v : Word) : (s.setSr n i v).rules = s.rules := rfl
@[simp] theorem State.setSr_ruleLoad (s : State) (n i : Nat) (v : Word) : (s.setSr n i v).ruleLoad = s.ruleLoad := rfl
@[simp] theorem State.setSr_rings (s : State) (n i : Nat) (v : Word) : (s.setSr n i v).rings = s.rings := rfl
@[simp] theorem State.setSr_xoff (s : State) (n i : Nat) (v : Word) : (s.setSr n i v).xoff = s.xoff := rfl
@[simp] theorem State.setSr_ingHeld (s : State) (n i : Nat) (v : Word) : (s.setSr n i v).ingHeld = s.ingHeld := rfl
@[simp] theorem State.setSr_delivered (s : State) (n i : Nat) (v : Word) :
    (s.setSr n i v).delivered = s.delivered := rfl
@[simp] theorem State.setSr_flitWait (s : State) (n i : Nat) (v : Word) : (s.setSr n i v).flitWait = s.flitWait := rfl
@[simp] theorem State.setSr_poolRd (s : State) (n i : Nat) (v : Word) : (s.setSr n i v).poolRd = s.poolRd := rfl
@[simp] theorem State.setSr_poolWr (s : State) (n i : Nat) (v : Word) : (s.setSr n i v).poolWr = s.poolWr := rfl
@[simp] theorem State.setSr_poolFailed (s : State) (n i : Nat) (v : Word) :
    (s.setSr n i v).poolFailed = s.poolFailed := rfl
@[simp] theorem State.setSr_poolCtx (s : State) (n i : Nat) (v : Word) : (s.setSr n i v).poolCtx = s.poolCtx := rfl
@[simp] theorem State.setSr_hdmRegs (s : State) (n i : Nat) (v : Word) : (s.setSr n i v).hdmRegs = s.hdmRegs := rfl
@[simp] theorem State.setSr_hdmBase (s : State) (n i : Nat) (v : Word) : (s.setSr n i v).hdmBase = s.hdmBase := rfl
@[simp] theorem State.setSr_hostDirty (s : State) (n i : Nat) (v : Word) :
    (s.setSr n i v).hostDirty = s.hostDirty := rfl
@[simp] theorem State.setSr_hostBad (s : State) (n i : Nat) (v : Word) : (s.setSr n i v).hostBad = s.hostBad := rfl
@[simp] theorem State.setSr_cmds (s : State) (n i : Nat) (v : Word) : (s.setSr n i v).cmds = s.cmds := rfl
@[simp] theorem State.setSr_evHost (s : State) (n i : Nat) (v : Word) : (s.setSr n i v).evHost = s.evHost := rfl
@[simp] theorem State.setSr_evAcc (s : State) (n i : Nat) (v : Word) : (s.setSr n i v).evAcc = s.evAcc := rfl
@[simp] theorem State.setSr_frames (s : State) (n i : Nat) (v : Word) : (s.setSr n i v).frames = s.frames := rfl
@[simp] theorem State.setSr_revokes (s : State) (n i : Nat) (v : Word) : (s.setSr n i v).revokes = s.revokes := rfl
@[simp] theorem State.setSr_hostChk (s : State) (n i : Nat) (v : Word) : (s.setSr n i v).hostChk = s.hostChk := rfl
@[simp] theorem State.setSr_keys (s : State) (n i : Nat) (v : Word) : (s.setSr n i v).keys = s.keys := rfl
@[simp] theorem State.setSr_keyData (s : State) (n i : Nat) (v : Word) : (s.setSr n i v).keyData = s.keyData := rfl
@[simp] theorem State.setSr_vfResets (s : State) (n i : Nat) (v : Word) : (s.setSr n i v).vfResets = s.vfResets := rfl
@[simp] theorem State.setSr_exclBusy (s : State) (n i : Nat) (v : Word) : (s.setSr n i v).exclBusy = s.exclBusy := rfl
@[simp] theorem State.setSr_exclWait (s : State) (n i : Nat) (v : Word) : (s.setSr n i v).exclWait = s.exclWait := rfl
@[simp] theorem State.setSr_scrubMarked (s : State) (n i : Nat) (v : Word) :
    (s.setSr n i v).scrubMarked = s.scrubMarked := rfl
@[simp] theorem State.setSr_scrubHeld (s : State) (n i : Nat) (v : Word) :
    (s.setSr n i v).scrubHeld = s.scrubHeld := rfl
@[simp] theorem State.setSr_fcClk (s : State) (n i : Nat) (v : Word) : (s.setSr n i v).fcClk = s.fcClk := rfl
@[simp] theorem State.setSr_partSeen (s : State) (n i : Nat) (v : Word) : (s.setSr n i v).partSeen = s.partSeen := rfl
@[simp] theorem State.setSr_bootDue (s : State) (n i : Nat) (v : Word) : (s.setSr n i v).bootDue = s.bootDue := rfl
@[simp] theorem State.setSr_parts (s : State) (n i : Nat) (v : Word) : (s.setSr n i v).parts = s.parts := rfl
@[simp] theorem State.setSr_launches (s : State) (n i : Nat) (v : Word) : (s.setSr n i v).launches = s.launches := rfl
@[simp] theorem State.setSr_saved (s : State) (n i : Nat) (v : Word) : (s.setSr n i v).saved = s.saved := rfl
@[simp] theorem State.setSr_cores (s : State) (n i : Nat) (v : Word) : (s.setSr n i v).cores = s.cores := rfl
@[simp] theorem State.setSr_quads (s : State) (n i : Nat) (v : Word) : (s.setSr n i v).quads = s.quads := rfl
@[simp] theorem State.setSr_mem (s : State) (n i : Nat) (v : Word) : (s.setSr n i v).mem = s.mem := rfl
@[simp] theorem State.setSr_fe (s : State) (n i : Nat) (v : Word) : (s.setSr n i v).fe = s.fe := rfl
@[simp] theorem State.setSr_poison (s : State) (n i : Nat) (v : Word) : (s.setSr n i v).poison = s.poison := rfl
@[simp] theorem State.setSr_rewritten (s : State) (n i : Nat) (v : Word) :
    (s.setSr n i v).rewritten = s.rewritten := rfl
@[simp] theorem State.setSr_packed (s : State) (n i : Nat) (v : Word) : (s.setSr n i v).packed = s.packed := rfl
@[simp] theorem State.setSr_noSym (s : State) (n i : Nat) (v : Word) : (s.setSr n i v).noSym = s.noSym := rfl
@[simp] theorem State.setSr_accs (s : State) (n i : Nat) (v : Word) : (s.setSr n i v).accs = s.accs := rfl
@[simp] theorem State.setSr_entered (s : State) (n i : Nat) (v : Word) : (s.setSr n i v).entered = s.entered := rfl
@[simp] theorem State.setSr_sent (s : State) (n i : Nat) (v : Word) : (s.setSr n i v).sent = s.sent := rfl
@[simp] theorem State.setSr_xls (s : State) (n i : Nat) (v : Word) : (s.setSr n i v).xls = s.xls := rfl
@[simp] theorem State.setSr_hot (s : State) (n i : Nat) (v : Word) : (s.setSr n i v).hot = s.hot := rfl
@[simp] theorem State.setSr_mig (s : State) (n i : Nat) (v : Word) : (s.setSr n i v).mig = s.mig := rfl
@[simp] theorem State.setSr_hotRows (s : State) (n i : Nat) (v : Word) : (s.setSr n i v).hotRows = s.hotRows := rfl
@[simp] theorem State.setSr_bitErr (s : State) (n i : Nat) (v : Word) : (s.setSr n i v).bitErr = s.bitErr := rfl
@[simp] theorem State.setSr_corrReads (s : State) (n i : Nat) (v : Word) :
    (s.setSr n i v).corrReads = s.corrReads := rfl
@[simp] theorem State.setSr_uncorr (s : State) (n i : Nat) (v : Word) : (s.setSr n i v).uncorr = s.uncorr := rfl
@[simp] theorem State.setSr_recLost (s : State) (n i : Nat) (v : Word) : (s.setSr n i v).recLost = s.recLost := rfl
@[simp] theorem State.setSr_recAt (s : State) (n i : Nat) (v : Word) : (s.setSr n i v).recAt = s.recAt := rfl
@[simp] theorem State.setSr_race (s : State) (n i : Nat) (v : Word) : (s.setSr n i v).race = s.race := rfl
@[simp] theorem State.setSr_relClk (s : State) (n i : Nat) (v : Word) : (s.setSr n i v).relClk = s.relClk := rfl
@[simp] theorem State.setSr_sweeps (s : State) (n i : Nat) (v : Word) : (s.setSr n i v).sweeps = s.sweeps := rfl

@[simp] theorem State.wr8_agenda (s : State) (loc v : Nat) : (s.wr8 loc v).agenda = s.agenda := rfl
@[simp] theorem State.wr8_params (s : State) (loc v : Nat) : (s.wr8 loc v).params = s.params := rfl
@[simp] theorem State.wr8_curH (s : State) (loc v : Nat) : (s.wr8 loc v).curH = s.curH := rfl
@[simp] theorem State.wr8_curSlot (s : State) (loc v : Nat) : (s.wr8 loc v).curSlot = s.curSlot := rfl
@[simp] theorem State.wr8_fresh (s : State) (loc v : Nat) : (s.wr8 loc v).fresh = s.fresh := rfl
@[simp] theorem State.wr8_nextId (s : State) (loc v : Nat) : (s.wr8 loc v).nextId = s.nextId := rfl
@[simp] theorem State.wr8_out (s : State) (loc v : Nat) : (s.wr8 loc v).out = s.out := rfl
@[simp] theorem State.wr8_sr (s : State) (loc v : Nat) : (s.wr8 loc v).sr = s.sr := rfl
@[simp] theorem State.wr8_hcw (s : State) (loc v : Nat) : (s.wr8 loc v).hcw = s.hcw := rfl
@[simp] theorem State.wr8_powered (s : State) (loc v : Nat) : (s.wr8 loc v).powered = s.powered := rfl
@[simp] theorem State.wr8_recordFatal (s : State) (loc v : Nat) : (s.wr8 loc v).recordFatal = s.recordFatal := rfl
@[simp] theorem State.wr8_poolFatal (s : State) (loc v : Nat) : (s.wr8 loc v).poolFatal = s.poolFatal := rfl
@[simp] theorem State.wr8_plan (s : State) (loc v : Nat) : (s.wr8 loc v).plan = s.plan := rfl
@[simp] theorem State.wr8_freq (s : State) (loc v : Nat) : (s.wr8 loc v).freq = s.freq := rfl
@[simp] theorem State.wr8_load (s : State) (loc v : Nat) : (s.wr8 loc v).load = s.load := rfl
@[simp] theorem State.wr8_dtime (s : State) (loc v : Nat) : (s.wr8 loc v).dtime = s.dtime := rfl
@[simp] theorem State.wr8_twrap (s : State) (loc v : Nat) : (s.wr8 loc v).twrap = s.twrap := rfl
@[simp] theorem State.wr8_tstat (s : State) (loc v : Nat) : (s.wr8 loc v).tstat = s.tstat := rfl
@[simp] theorem State.wr8_tfail (s : State) (loc v : Nat) : (s.wr8 loc v).tfail = s.tfail := rfl
@[simp] theorem State.wr8_aligned (s : State) (loc v : Nat) : (s.wr8 loc v).aligned = s.aligned := rfl
@[simp] theorem State.wr8_held (s : State) (loc v : Nat) : (s.wr8 loc v).held = s.held := rfl
@[simp] theorem State.wr8_tripCause (s : State) (loc v : Nat) : (s.wr8 loc v).tripCause = s.tripCause := rfl
@[simp] theorem State.wr8_gated (s : State) (loc v : Nat) : (s.wr8 loc v).gated = s.gated := rfl
@[simp] theorem State.wr8_fwCap (s : State) (loc v : Nat) : (s.wr8 loc v).fwCap = s.fwCap := rfl
@[simp] theorem State.wr8_failing (s : State) (loc v : Nat) : (s.wr8 loc v).failing = s.failing := rfl
@[simp] theorem State.wr8_fwImage (s : State) (loc v : Nat) : (s.wr8 loc v).fwImage = s.fwImage := rfl
@[simp] theorem State.wr8_fwLen (s : State) (loc v : Nat) : (s.wr8 loc v).fwLen = s.fwLen := rfl
@[simp] theorem State.wr8_fwVersion (s : State) (loc v : Nat) : (s.wr8 loc v).fwVersion = s.fwVersion := rfl
@[simp] theorem State.wr8_fwCounter (s : State) (loc v : Nat) : (s.wr8 loc v).fwCounter = s.fwCounter := rfl
@[simp] theorem State.wr8_fwValid (s : State) (loc v : Nat) : (s.wr8 loc v).fwValid = s.fwValid := rfl
@[simp] theorem State.wr8_fwRecovery (s : State) (loc v : Nat) : (s.wr8 loc v).fwRecovery = s.fwRecovery := rfl
@[simp] theorem State.wr8_fwParts (s : State) (loc v : Nat) : (s.wr8 loc v).fwParts = s.fwParts := rfl
@[simp] theorem State.wr8_bootDigest (s : State) (loc v : Nat) : (s.wr8 loc v).bootDigest = s.bootDigest := rfl
@[simp] theorem State.wr8_ports (s : State) (loc v : Nat) : (s.wr8 loc v).ports = s.ports := rfl
@[simp] theorem State.wr8_collIdx (s : State) (loc v : Nat) : (s.wr8 loc v).collIdx = s.collIdx := rfl
@[simp] theorem State.wr8_colls (s : State) (loc v : Nat) : (s.wr8 loc v).colls = s.colls := rfl
@[simp] theorem State.wr8_collSeq (s : State) (loc v : Nat) : (s.wr8 loc v).collSeq = s.collSeq := rfl
@[simp] theorem State.wr8_rules (s : State) (loc v : Nat) : (s.wr8 loc v).rules = s.rules := rfl
@[simp] theorem State.wr8_ruleLoad (s : State) (loc v : Nat) : (s.wr8 loc v).ruleLoad = s.ruleLoad := rfl
@[simp] theorem State.wr8_rings (s : State) (loc v : Nat) : (s.wr8 loc v).rings = s.rings := rfl
@[simp] theorem State.wr8_xoff (s : State) (loc v : Nat) : (s.wr8 loc v).xoff = s.xoff := rfl
@[simp] theorem State.wr8_ingHeld (s : State) (loc v : Nat) : (s.wr8 loc v).ingHeld = s.ingHeld := rfl
@[simp] theorem State.wr8_delivered (s : State) (loc v : Nat) : (s.wr8 loc v).delivered = s.delivered := rfl
@[simp] theorem State.wr8_flitWait (s : State) (loc v : Nat) : (s.wr8 loc v).flitWait = s.flitWait := rfl
@[simp] theorem State.wr8_poolRd (s : State) (loc v : Nat) : (s.wr8 loc v).poolRd = s.poolRd := rfl
@[simp] theorem State.wr8_poolWr (s : State) (loc v : Nat) : (s.wr8 loc v).poolWr = s.poolWr := rfl
@[simp] theorem State.wr8_poolFailed (s : State) (loc v : Nat) : (s.wr8 loc v).poolFailed = s.poolFailed := rfl
@[simp] theorem State.wr8_poolCtx (s : State) (loc v : Nat) : (s.wr8 loc v).poolCtx = s.poolCtx := rfl
@[simp] theorem State.wr8_hdmRegs (s : State) (loc v : Nat) : (s.wr8 loc v).hdmRegs = s.hdmRegs := rfl
@[simp] theorem State.wr8_hdmBase (s : State) (loc v : Nat) : (s.wr8 loc v).hdmBase = s.hdmBase := rfl
@[simp] theorem State.wr8_hostDirty (s : State) (loc v : Nat) : (s.wr8 loc v).hostDirty = s.hostDirty := rfl
@[simp] theorem State.wr8_hostBad (s : State) (loc v : Nat) : (s.wr8 loc v).hostBad = s.hostBad := rfl
@[simp] theorem State.wr8_cmds (s : State) (loc v : Nat) : (s.wr8 loc v).cmds = s.cmds := rfl
@[simp] theorem State.wr8_evHost (s : State) (loc v : Nat) : (s.wr8 loc v).evHost = s.evHost := rfl
@[simp] theorem State.wr8_evAcc (s : State) (loc v : Nat) : (s.wr8 loc v).evAcc = s.evAcc := rfl
@[simp] theorem State.wr8_frames (s : State) (loc v : Nat) : (s.wr8 loc v).frames = s.frames := rfl
@[simp] theorem State.wr8_revokes (s : State) (loc v : Nat) : (s.wr8 loc v).revokes = s.revokes := rfl
@[simp] theorem State.wr8_hostChk (s : State) (loc v : Nat) : (s.wr8 loc v).hostChk = s.hostChk := rfl
@[simp] theorem State.wr8_keys (s : State) (loc v : Nat) : (s.wr8 loc v).keys = s.keys := rfl
@[simp] theorem State.wr8_keyData (s : State) (loc v : Nat) : (s.wr8 loc v).keyData = s.keyData := rfl
@[simp] theorem State.wr8_vfResets (s : State) (loc v : Nat) : (s.wr8 loc v).vfResets = s.vfResets := rfl
@[simp] theorem State.wr8_exclBusy (s : State) (loc v : Nat) : (s.wr8 loc v).exclBusy = s.exclBusy := rfl
@[simp] theorem State.wr8_exclWait (s : State) (loc v : Nat) : (s.wr8 loc v).exclWait = s.exclWait := rfl
@[simp] theorem State.wr8_scrubMarked (s : State) (loc v : Nat) : (s.wr8 loc v).scrubMarked = s.scrubMarked := rfl
@[simp] theorem State.wr8_scrubHeld (s : State) (loc v : Nat) : (s.wr8 loc v).scrubHeld = s.scrubHeld := rfl
@[simp] theorem State.wr8_fcClk (s : State) (loc v : Nat) : (s.wr8 loc v).fcClk = s.fcClk := rfl
@[simp] theorem State.wr8_partSeen (s : State) (loc v : Nat) : (s.wr8 loc v).partSeen = s.partSeen := rfl
@[simp] theorem State.wr8_bootDue (s : State) (loc v : Nat) : (s.wr8 loc v).bootDue = s.bootDue := rfl
@[simp] theorem State.wr8_parts (s : State) (loc v : Nat) : (s.wr8 loc v).parts = s.parts := rfl
@[simp] theorem State.wr8_launches (s : State) (loc v : Nat) : (s.wr8 loc v).launches = s.launches := rfl
@[simp] theorem State.wr8_saved (s : State) (loc v : Nat) : (s.wr8 loc v).saved = s.saved := rfl
@[simp] theorem State.wr8_cores (s : State) (loc v : Nat) : (s.wr8 loc v).cores = s.cores := rfl
@[simp] theorem State.wr8_quads (s : State) (loc v : Nat) : (s.wr8 loc v).quads = s.quads := rfl
@[simp] theorem State.wr8_fe (s : State) (loc v : Nat) : (s.wr8 loc v).fe = s.fe := rfl
@[simp] theorem State.wr8_poison (s : State) (loc v : Nat) : (s.wr8 loc v).poison = s.poison := rfl
@[simp] theorem State.wr8_rewritten (s : State) (loc v : Nat) : (s.wr8 loc v).rewritten = s.rewritten := rfl
@[simp] theorem State.wr8_packed (s : State) (loc v : Nat) : (s.wr8 loc v).packed = s.packed := rfl
@[simp] theorem State.wr8_noSym (s : State) (loc v : Nat) : (s.wr8 loc v).noSym = s.noSym := rfl
@[simp] theorem State.wr8_accs (s : State) (loc v : Nat) : (s.wr8 loc v).accs = s.accs := rfl
@[simp] theorem State.wr8_entered (s : State) (loc v : Nat) : (s.wr8 loc v).entered = s.entered := rfl
@[simp] theorem State.wr8_sent (s : State) (loc v : Nat) : (s.wr8 loc v).sent = s.sent := rfl
@[simp] theorem State.wr8_xls (s : State) (loc v : Nat) : (s.wr8 loc v).xls = s.xls := rfl
@[simp] theorem State.wr8_hot (s : State) (loc v : Nat) : (s.wr8 loc v).hot = s.hot := rfl
@[simp] theorem State.wr8_mig (s : State) (loc v : Nat) : (s.wr8 loc v).mig = s.mig := rfl
@[simp] theorem State.wr8_hotRows (s : State) (loc v : Nat) : (s.wr8 loc v).hotRows = s.hotRows := rfl
@[simp] theorem State.wr8_bitErr (s : State) (loc v : Nat) : (s.wr8 loc v).bitErr = s.bitErr := rfl
@[simp] theorem State.wr8_corrReads (s : State) (loc v : Nat) : (s.wr8 loc v).corrReads = s.corrReads := rfl
@[simp] theorem State.wr8_uncorr (s : State) (loc v : Nat) : (s.wr8 loc v).uncorr = s.uncorr := rfl
@[simp] theorem State.wr8_recLost (s : State) (loc v : Nat) : (s.wr8 loc v).recLost = s.recLost := rfl
@[simp] theorem State.wr8_recAt (s : State) (loc v : Nat) : (s.wr8 loc v).recAt = s.recAt := rfl
@[simp] theorem State.wr8_race (s : State) (loc v : Nat) : (s.wr8 loc v).race = s.race := rfl
@[simp] theorem State.wr8_relClk (s : State) (loc v : Nat) : (s.wr8 loc v).relClk = s.relClk := rfl
@[simp] theorem State.wr8_sweeps (s : State) (loc v : Nat) : (s.wr8 loc v).sweeps = s.sweeps := rfl

@[simp] theorem State.setFull_agenda (s : State) (loc : Nat) (b : Bool) : (s.setFull loc b).agenda = s.agenda := rfl
@[simp] theorem State.setFull_params (s : State) (loc : Nat) (b : Bool) : (s.setFull loc b).params = s.params := rfl
@[simp] theorem State.setFull_curH (s : State) (loc : Nat) (b : Bool) : (s.setFull loc b).curH = s.curH := rfl
@[simp] theorem State.setFull_curSlot (s : State) (loc : Nat) (b : Bool) : (s.setFull loc b).curSlot = s.curSlot := rfl
@[simp] theorem State.setFull_fresh (s : State) (loc : Nat) (b : Bool) : (s.setFull loc b).fresh = s.fresh := rfl
@[simp] theorem State.setFull_nextId (s : State) (loc : Nat) (b : Bool) : (s.setFull loc b).nextId = s.nextId := rfl
@[simp] theorem State.setFull_out (s : State) (loc : Nat) (b : Bool) : (s.setFull loc b).out = s.out := rfl
@[simp] theorem State.setFull_sr (s : State) (loc : Nat) (b : Bool) : (s.setFull loc b).sr = s.sr := rfl
@[simp] theorem State.setFull_hcw (s : State) (loc : Nat) (b : Bool) : (s.setFull loc b).hcw = s.hcw := rfl
@[simp] theorem State.setFull_powered (s : State) (loc : Nat) (b : Bool) : (s.setFull loc b).powered = s.powered := rfl
@[simp] theorem State.setFull_recordFatal (s : State) (loc : Nat) (b : Bool) :
    (s.setFull loc b).recordFatal = s.recordFatal := rfl
@[simp] theorem State.setFull_poolFatal (s : State) (loc : Nat) (b : Bool) :
    (s.setFull loc b).poolFatal = s.poolFatal := rfl
@[simp] theorem State.setFull_plan (s : State) (loc : Nat) (b : Bool) : (s.setFull loc b).plan = s.plan := rfl
@[simp] theorem State.setFull_freq (s : State) (loc : Nat) (b : Bool) : (s.setFull loc b).freq = s.freq := rfl
@[simp] theorem State.setFull_load (s : State) (loc : Nat) (b : Bool) : (s.setFull loc b).load = s.load := rfl
@[simp] theorem State.setFull_dtime (s : State) (loc : Nat) (b : Bool) : (s.setFull loc b).dtime = s.dtime := rfl
@[simp] theorem State.setFull_twrap (s : State) (loc : Nat) (b : Bool) : (s.setFull loc b).twrap = s.twrap := rfl
@[simp] theorem State.setFull_tstat (s : State) (loc : Nat) (b : Bool) : (s.setFull loc b).tstat = s.tstat := rfl
@[simp] theorem State.setFull_tfail (s : State) (loc : Nat) (b : Bool) : (s.setFull loc b).tfail = s.tfail := rfl
@[simp] theorem State.setFull_aligned (s : State) (loc : Nat) (b : Bool) : (s.setFull loc b).aligned = s.aligned := rfl
@[simp] theorem State.setFull_held (s : State) (loc : Nat) (b : Bool) : (s.setFull loc b).held = s.held := rfl
@[simp] theorem State.setFull_tripCause (s : State) (loc : Nat) (b : Bool) :
    (s.setFull loc b).tripCause = s.tripCause := rfl
@[simp] theorem State.setFull_gated (s : State) (loc : Nat) (b : Bool) : (s.setFull loc b).gated = s.gated := rfl
@[simp] theorem State.setFull_fwCap (s : State) (loc : Nat) (b : Bool) : (s.setFull loc b).fwCap = s.fwCap := rfl
@[simp] theorem State.setFull_failing (s : State) (loc : Nat) (b : Bool) : (s.setFull loc b).failing = s.failing := rfl
@[simp] theorem State.setFull_fwImage (s : State) (loc : Nat) (b : Bool) : (s.setFull loc b).fwImage = s.fwImage := rfl
@[simp] theorem State.setFull_fwLen (s : State) (loc : Nat) (b : Bool) : (s.setFull loc b).fwLen = s.fwLen := rfl
@[simp] theorem State.setFull_fwVersion (s : State) (loc : Nat) (b : Bool) :
    (s.setFull loc b).fwVersion = s.fwVersion := rfl
@[simp] theorem State.setFull_fwCounter (s : State) (loc : Nat) (b : Bool) :
    (s.setFull loc b).fwCounter = s.fwCounter := rfl
@[simp] theorem State.setFull_fwValid (s : State) (loc : Nat) (b : Bool) : (s.setFull loc b).fwValid = s.fwValid := rfl
@[simp] theorem State.setFull_fwRecovery (s : State) (loc : Nat) (b : Bool) :
    (s.setFull loc b).fwRecovery = s.fwRecovery := rfl
@[simp] theorem State.setFull_fwParts (s : State) (loc : Nat) (b : Bool) : (s.setFull loc b).fwParts = s.fwParts := rfl
@[simp] theorem State.setFull_bootDigest (s : State) (loc : Nat) (b : Bool) :
    (s.setFull loc b).bootDigest = s.bootDigest := rfl
@[simp] theorem State.setFull_ports (s : State) (loc : Nat) (b : Bool) : (s.setFull loc b).ports = s.ports := rfl
@[simp] theorem State.setFull_collIdx (s : State) (loc : Nat) (b : Bool) : (s.setFull loc b).collIdx = s.collIdx := rfl
@[simp] theorem State.setFull_colls (s : State) (loc : Nat) (b : Bool) : (s.setFull loc b).colls = s.colls := rfl
@[simp] theorem State.setFull_collSeq (s : State) (loc : Nat) (b : Bool) : (s.setFull loc b).collSeq = s.collSeq := rfl
@[simp] theorem State.setFull_rules (s : State) (loc : Nat) (b : Bool) : (s.setFull loc b).rules = s.rules := rfl
@[simp] theorem State.setFull_ruleLoad (s : State) (loc : Nat) (b : Bool) :
    (s.setFull loc b).ruleLoad = s.ruleLoad := rfl
@[simp] theorem State.setFull_rings (s : State) (loc : Nat) (b : Bool) : (s.setFull loc b).rings = s.rings := rfl
@[simp] theorem State.setFull_xoff (s : State) (loc : Nat) (b : Bool) : (s.setFull loc b).xoff = s.xoff := rfl
@[simp] theorem State.setFull_ingHeld (s : State) (loc : Nat) (b : Bool) : (s.setFull loc b).ingHeld = s.ingHeld := rfl
@[simp] theorem State.setFull_delivered (s : State) (loc : Nat) (b : Bool) :
    (s.setFull loc b).delivered = s.delivered := rfl
@[simp] theorem State.setFull_flitWait (s : State) (loc : Nat) (b : Bool) :
    (s.setFull loc b).flitWait = s.flitWait := rfl
@[simp] theorem State.setFull_poolRd (s : State) (loc : Nat) (b : Bool) : (s.setFull loc b).poolRd = s.poolRd := rfl
@[simp] theorem State.setFull_poolWr (s : State) (loc : Nat) (b : Bool) : (s.setFull loc b).poolWr = s.poolWr := rfl
@[simp] theorem State.setFull_poolFailed (s : State) (loc : Nat) (b : Bool) :
    (s.setFull loc b).poolFailed = s.poolFailed := rfl
@[simp] theorem State.setFull_poolCtx (s : State) (loc : Nat) (b : Bool) : (s.setFull loc b).poolCtx = s.poolCtx := rfl
@[simp] theorem State.setFull_hdmRegs (s : State) (loc : Nat) (b : Bool) : (s.setFull loc b).hdmRegs = s.hdmRegs := rfl
@[simp] theorem State.setFull_hdmBase (s : State) (loc : Nat) (b : Bool) : (s.setFull loc b).hdmBase = s.hdmBase := rfl
@[simp] theorem State.setFull_hostDirty (s : State) (loc : Nat) (b : Bool) :
    (s.setFull loc b).hostDirty = s.hostDirty := rfl
@[simp] theorem State.setFull_hostBad (s : State) (loc : Nat) (b : Bool) : (s.setFull loc b).hostBad = s.hostBad := rfl
@[simp] theorem State.setFull_cmds (s : State) (loc : Nat) (b : Bool) : (s.setFull loc b).cmds = s.cmds := rfl
@[simp] theorem State.setFull_evHost (s : State) (loc : Nat) (b : Bool) : (s.setFull loc b).evHost = s.evHost := rfl
@[simp] theorem State.setFull_evAcc (s : State) (loc : Nat) (b : Bool) : (s.setFull loc b).evAcc = s.evAcc := rfl
@[simp] theorem State.setFull_frames (s : State) (loc : Nat) (b : Bool) : (s.setFull loc b).frames = s.frames := rfl
@[simp] theorem State.setFull_revokes (s : State) (loc : Nat) (b : Bool) : (s.setFull loc b).revokes = s.revokes := rfl
@[simp] theorem State.setFull_hostChk (s : State) (loc : Nat) (b : Bool) : (s.setFull loc b).hostChk = s.hostChk := rfl
@[simp] theorem State.setFull_keys (s : State) (loc : Nat) (b : Bool) : (s.setFull loc b).keys = s.keys := rfl
@[simp] theorem State.setFull_keyData (s : State) (loc : Nat) (b : Bool) : (s.setFull loc b).keyData = s.keyData := rfl
@[simp] theorem State.setFull_vfResets (s : State) (loc : Nat) (b : Bool) :
    (s.setFull loc b).vfResets = s.vfResets := rfl
@[simp] theorem State.setFull_exclBusy (s : State) (loc : Nat) (b : Bool) :
    (s.setFull loc b).exclBusy = s.exclBusy := rfl
@[simp] theorem State.setFull_exclWait (s : State) (loc : Nat) (b : Bool) :
    (s.setFull loc b).exclWait = s.exclWait := rfl
@[simp] theorem State.setFull_scrubMarked (s : State) (loc : Nat) (b : Bool) :
    (s.setFull loc b).scrubMarked = s.scrubMarked := rfl
@[simp] theorem State.setFull_scrubHeld (s : State) (loc : Nat) (b : Bool) :
    (s.setFull loc b).scrubHeld = s.scrubHeld := rfl
@[simp] theorem State.setFull_fcClk (s : State) (loc : Nat) (b : Bool) : (s.setFull loc b).fcClk = s.fcClk := rfl
@[simp] theorem State.setFull_partSeen (s : State) (loc : Nat) (b : Bool) :
    (s.setFull loc b).partSeen = s.partSeen := rfl
@[simp] theorem State.setFull_bootDue (s : State) (loc : Nat) (b : Bool) : (s.setFull loc b).bootDue = s.bootDue := rfl
@[simp] theorem State.setFull_parts (s : State) (loc : Nat) (b : Bool) : (s.setFull loc b).parts = s.parts := rfl
@[simp] theorem State.setFull_launches (s : State) (loc : Nat) (b : Bool) :
    (s.setFull loc b).launches = s.launches := rfl
@[simp] theorem State.setFull_saved (s : State) (loc : Nat) (b : Bool) : (s.setFull loc b).saved = s.saved := rfl
@[simp] theorem State.setFull_cores (s : State) (loc : Nat) (b : Bool) : (s.setFull loc b).cores = s.cores := rfl
@[simp] theorem State.setFull_quads (s : State) (loc : Nat) (b : Bool) : (s.setFull loc b).quads = s.quads := rfl
@[simp] theorem State.setFull_mem (s : State) (loc : Nat) (b : Bool) : (s.setFull loc b).mem = s.mem := rfl
@[simp] theorem State.setFull_poison (s : State) (loc : Nat) (b : Bool) : (s.setFull loc b).poison = s.poison := rfl
@[simp] theorem State.setFull_rewritten (s : State) (loc : Nat) (b : Bool) :
    (s.setFull loc b).rewritten = s.rewritten := rfl
@[simp] theorem State.setFull_packed (s : State) (loc : Nat) (b : Bool) : (s.setFull loc b).packed = s.packed := rfl
@[simp] theorem State.setFull_noSym (s : State) (loc : Nat) (b : Bool) : (s.setFull loc b).noSym = s.noSym := rfl
@[simp] theorem State.setFull_accs (s : State) (loc : Nat) (b : Bool) : (s.setFull loc b).accs = s.accs := rfl
@[simp] theorem State.setFull_entered (s : State) (loc : Nat) (b : Bool) : (s.setFull loc b).entered = s.entered := rfl
@[simp] theorem State.setFull_sent (s : State) (loc : Nat) (b : Bool) : (s.setFull loc b).sent = s.sent := rfl
@[simp] theorem State.setFull_xls (s : State) (loc : Nat) (b : Bool) : (s.setFull loc b).xls = s.xls := rfl
@[simp] theorem State.setFull_hot (s : State) (loc : Nat) (b : Bool) : (s.setFull loc b).hot = s.hot := rfl
@[simp] theorem State.setFull_mig (s : State) (loc : Nat) (b : Bool) : (s.setFull loc b).mig = s.mig := rfl
@[simp] theorem State.setFull_hotRows (s : State) (loc : Nat) (b : Bool) : (s.setFull loc b).hotRows = s.hotRows := rfl
@[simp] theorem State.setFull_bitErr (s : State) (loc : Nat) (b : Bool) : (s.setFull loc b).bitErr = s.bitErr := rfl
@[simp] theorem State.setFull_corrReads (s : State) (loc : Nat) (b : Bool) :
    (s.setFull loc b).corrReads = s.corrReads := rfl
@[simp] theorem State.setFull_uncorr (s : State) (loc : Nat) (b : Bool) : (s.setFull loc b).uncorr = s.uncorr := rfl
@[simp] theorem State.setFull_recLost (s : State) (loc : Nat) (b : Bool) : (s.setFull loc b).recLost = s.recLost := rfl
@[simp] theorem State.setFull_recAt (s : State) (loc : Nat) (b : Bool) : (s.setFull loc b).recAt = s.recAt := rfl
@[simp] theorem State.setFull_race (s : State) (loc : Nat) (b : Bool) : (s.setFull loc b).race = s.race := rfl
@[simp] theorem State.setFull_relClk (s : State) (loc : Nat) (b : Bool) : (s.setFull loc b).relClk = s.relClk := rfl
@[simp] theorem State.setFull_sweeps (s : State) (loc : Nat) (b : Bool) : (s.setFull loc b).sweeps = s.sweeps := rfl

@[simp] theorem State.retire_agenda (s : State) (len : Nat) : (s.retire len).agenda = s.agenda := rfl
@[simp] theorem State.retire_params (s : State) (len : Nat) : (s.retire len).params = s.params := rfl
@[simp] theorem State.retire_curH (s : State) (len : Nat) : (s.retire len).curH = s.curH := rfl
@[simp] theorem State.retire_curSlot (s : State) (len : Nat) : (s.retire len).curSlot = s.curSlot := rfl
@[simp] theorem State.retire_fresh (s : State) (len : Nat) : (s.retire len).fresh = s.fresh := rfl
@[simp] theorem State.retire_nextId (s : State) (len : Nat) : (s.retire len).nextId = s.nextId := rfl
@[simp] theorem State.retire_out (s : State) (len : Nat) : (s.retire len).out = s.out := rfl
@[simp] theorem State.retire_sr (s : State) (len : Nat) : (s.retire len).sr = s.sr := rfl
@[simp] theorem State.retire_hcw (s : State) (len : Nat) : (s.retire len).hcw = s.hcw := rfl
@[simp] theorem State.retire_powered (s : State) (len : Nat) : (s.retire len).powered = s.powered := rfl
@[simp] theorem State.retire_recordFatal (s : State) (len : Nat) : (s.retire len).recordFatal = s.recordFatal := rfl
@[simp] theorem State.retire_poolFatal (s : State) (len : Nat) : (s.retire len).poolFatal = s.poolFatal := rfl
@[simp] theorem State.retire_plan (s : State) (len : Nat) : (s.retire len).plan = s.plan := rfl
@[simp] theorem State.retire_freq (s : State) (len : Nat) : (s.retire len).freq = s.freq := rfl
@[simp] theorem State.retire_load (s : State) (len : Nat) : (s.retire len).load = s.load := rfl
@[simp] theorem State.retire_dtime (s : State) (len : Nat) : (s.retire len).dtime = s.dtime := rfl
@[simp] theorem State.retire_twrap (s : State) (len : Nat) : (s.retire len).twrap = s.twrap := rfl
@[simp] theorem State.retire_tstat (s : State) (len : Nat) : (s.retire len).tstat = s.tstat := rfl
@[simp] theorem State.retire_tfail (s : State) (len : Nat) : (s.retire len).tfail = s.tfail := rfl
@[simp] theorem State.retire_aligned (s : State) (len : Nat) : (s.retire len).aligned = s.aligned := rfl
@[simp] theorem State.retire_held (s : State) (len : Nat) : (s.retire len).held = s.held := rfl
@[simp] theorem State.retire_tripCause (s : State) (len : Nat) : (s.retire len).tripCause = s.tripCause := rfl
@[simp] theorem State.retire_gated (s : State) (len : Nat) : (s.retire len).gated = s.gated := rfl
@[simp] theorem State.retire_fwCap (s : State) (len : Nat) : (s.retire len).fwCap = s.fwCap := rfl
@[simp] theorem State.retire_failing (s : State) (len : Nat) : (s.retire len).failing = s.failing := rfl
@[simp] theorem State.retire_fwImage (s : State) (len : Nat) : (s.retire len).fwImage = s.fwImage := rfl
@[simp] theorem State.retire_fwLen (s : State) (len : Nat) : (s.retire len).fwLen = s.fwLen := rfl
@[simp] theorem State.retire_fwVersion (s : State) (len : Nat) : (s.retire len).fwVersion = s.fwVersion := rfl
@[simp] theorem State.retire_fwCounter (s : State) (len : Nat) : (s.retire len).fwCounter = s.fwCounter := rfl
@[simp] theorem State.retire_fwValid (s : State) (len : Nat) : (s.retire len).fwValid = s.fwValid := rfl
@[simp] theorem State.retire_fwRecovery (s : State) (len : Nat) : (s.retire len).fwRecovery = s.fwRecovery := rfl
@[simp] theorem State.retire_fwParts (s : State) (len : Nat) : (s.retire len).fwParts = s.fwParts := rfl
@[simp] theorem State.retire_bootDigest (s : State) (len : Nat) : (s.retire len).bootDigest = s.bootDigest := rfl
@[simp] theorem State.retire_ports (s : State) (len : Nat) : (s.retire len).ports = s.ports := rfl
@[simp] theorem State.retire_collIdx (s : State) (len : Nat) : (s.retire len).collIdx = s.collIdx := rfl
@[simp] theorem State.retire_colls (s : State) (len : Nat) : (s.retire len).colls = s.colls := rfl
@[simp] theorem State.retire_collSeq (s : State) (len : Nat) : (s.retire len).collSeq = s.collSeq := rfl
@[simp] theorem State.retire_rules (s : State) (len : Nat) : (s.retire len).rules = s.rules := rfl
@[simp] theorem State.retire_ruleLoad (s : State) (len : Nat) : (s.retire len).ruleLoad = s.ruleLoad := rfl
@[simp] theorem State.retire_rings (s : State) (len : Nat) : (s.retire len).rings = s.rings := rfl
@[simp] theorem State.retire_xoff (s : State) (len : Nat) : (s.retire len).xoff = s.xoff := rfl
@[simp] theorem State.retire_ingHeld (s : State) (len : Nat) : (s.retire len).ingHeld = s.ingHeld := rfl
@[simp] theorem State.retire_delivered (s : State) (len : Nat) : (s.retire len).delivered = s.delivered := rfl
@[simp] theorem State.retire_flitWait (s : State) (len : Nat) : (s.retire len).flitWait = s.flitWait := rfl
@[simp] theorem State.retire_poolRd (s : State) (len : Nat) : (s.retire len).poolRd = s.poolRd := rfl
@[simp] theorem State.retire_poolWr (s : State) (len : Nat) : (s.retire len).poolWr = s.poolWr := rfl
@[simp] theorem State.retire_poolFailed (s : State) (len : Nat) : (s.retire len).poolFailed = s.poolFailed := rfl
@[simp] theorem State.retire_poolCtx (s : State) (len : Nat) : (s.retire len).poolCtx = s.poolCtx := rfl
@[simp] theorem State.retire_hdmRegs (s : State) (len : Nat) : (s.retire len).hdmRegs = s.hdmRegs := rfl
@[simp] theorem State.retire_hdmBase (s : State) (len : Nat) : (s.retire len).hdmBase = s.hdmBase := rfl
@[simp] theorem State.retire_hostDirty (s : State) (len : Nat) : (s.retire len).hostDirty = s.hostDirty := rfl
@[simp] theorem State.retire_hostBad (s : State) (len : Nat) : (s.retire len).hostBad = s.hostBad := rfl
@[simp] theorem State.retire_cmds (s : State) (len : Nat) : (s.retire len).cmds = s.cmds := rfl
@[simp] theorem State.retire_evHost (s : State) (len : Nat) : (s.retire len).evHost = s.evHost := rfl
@[simp] theorem State.retire_evAcc (s : State) (len : Nat) : (s.retire len).evAcc = s.evAcc := rfl
@[simp] theorem State.retire_frames (s : State) (len : Nat) : (s.retire len).frames = s.frames := rfl
@[simp] theorem State.retire_revokes (s : State) (len : Nat) : (s.retire len).revokes = s.revokes := rfl
@[simp] theorem State.retire_hostChk (s : State) (len : Nat) : (s.retire len).hostChk = s.hostChk := rfl
@[simp] theorem State.retire_keys (s : State) (len : Nat) : (s.retire len).keys = s.keys := rfl
@[simp] theorem State.retire_keyData (s : State) (len : Nat) : (s.retire len).keyData = s.keyData := rfl
@[simp] theorem State.retire_vfResets (s : State) (len : Nat) : (s.retire len).vfResets = s.vfResets := rfl
@[simp] theorem State.retire_exclBusy (s : State) (len : Nat) : (s.retire len).exclBusy = s.exclBusy := rfl
@[simp] theorem State.retire_exclWait (s : State) (len : Nat) : (s.retire len).exclWait = s.exclWait := rfl
@[simp] theorem State.retire_scrubMarked (s : State) (len : Nat) : (s.retire len).scrubMarked = s.scrubMarked := rfl
@[simp] theorem State.retire_scrubHeld (s : State) (len : Nat) : (s.retire len).scrubHeld = s.scrubHeld := rfl
@[simp] theorem State.retire_fcClk (s : State) (len : Nat) : (s.retire len).fcClk = s.fcClk := rfl
@[simp] theorem State.retire_partSeen (s : State) (len : Nat) : (s.retire len).partSeen = s.partSeen := rfl
@[simp] theorem State.retire_bootDue (s : State) (len : Nat) : (s.retire len).bootDue = s.bootDue := rfl
@[simp] theorem State.retire_parts (s : State) (len : Nat) : (s.retire len).parts = s.parts := rfl
@[simp] theorem State.retire_launches (s : State) (len : Nat) : (s.retire len).launches = s.launches := rfl
@[simp] theorem State.retire_saved (s : State) (len : Nat) : (s.retire len).saved = s.saved := rfl
@[simp] theorem State.retire_quads (s : State) (len : Nat) : (s.retire len).quads = s.quads := rfl
@[simp] theorem State.retire_mem (s : State) (len : Nat) : (s.retire len).mem = s.mem := rfl
@[simp] theorem State.retire_fe (s : State) (len : Nat) : (s.retire len).fe = s.fe := rfl
@[simp] theorem State.retire_poison (s : State) (len : Nat) : (s.retire len).poison = s.poison := rfl
@[simp] theorem State.retire_rewritten (s : State) (len : Nat) : (s.retire len).rewritten = s.rewritten := rfl
@[simp] theorem State.retire_packed (s : State) (len : Nat) : (s.retire len).packed = s.packed := rfl
@[simp] theorem State.retire_noSym (s : State) (len : Nat) : (s.retire len).noSym = s.noSym := rfl
@[simp] theorem State.retire_accs (s : State) (len : Nat) : (s.retire len).accs = s.accs := rfl
@[simp] theorem State.retire_entered (s : State) (len : Nat) : (s.retire len).entered = s.entered := rfl
@[simp] theorem State.retire_sent (s : State) (len : Nat) : (s.retire len).sent = s.sent := rfl
@[simp] theorem State.retire_xls (s : State) (len : Nat) : (s.retire len).xls = s.xls := rfl
@[simp] theorem State.retire_hot (s : State) (len : Nat) : (s.retire len).hot = s.hot := rfl
@[simp] theorem State.retire_mig (s : State) (len : Nat) : (s.retire len).mig = s.mig := rfl
@[simp] theorem State.retire_hotRows (s : State) (len : Nat) : (s.retire len).hotRows = s.hotRows := rfl
@[simp] theorem State.retire_bitErr (s : State) (len : Nat) : (s.retire len).bitErr = s.bitErr := rfl
@[simp] theorem State.retire_corrReads (s : State) (len : Nat) : (s.retire len).corrReads = s.corrReads := rfl
@[simp] theorem State.retire_uncorr (s : State) (len : Nat) : (s.retire len).uncorr = s.uncorr := rfl
@[simp] theorem State.retire_recLost (s : State) (len : Nat) : (s.retire len).recLost = s.recLost := rfl
@[simp] theorem State.retire_recAt (s : State) (len : Nat) : (s.retire len).recAt = s.recAt := rfl
@[simp] theorem State.retire_race (s : State) (len : Nat) : (s.retire len).race = s.race := rfl
@[simp] theorem State.retire_relClk (s : State) (len : Nat) : (s.retire len).relClk = s.relClk := rfl
@[simp] theorem State.retire_sweeps (s : State) (len : Nat) : (s.retire len).sweeps = s.sweeps := rfl

@[simp] theorem State.goto_agenda (s : State) (pc : Word) : (s.goto pc).agenda = s.agenda := rfl
@[simp] theorem State.goto_params (s : State) (pc : Word) : (s.goto pc).params = s.params := rfl
@[simp] theorem State.goto_curH (s : State) (pc : Word) : (s.goto pc).curH = s.curH := rfl
@[simp] theorem State.goto_curSlot (s : State) (pc : Word) : (s.goto pc).curSlot = s.curSlot := rfl
@[simp] theorem State.goto_fresh (s : State) (pc : Word) : (s.goto pc).fresh = s.fresh := rfl
@[simp] theorem State.goto_nextId (s : State) (pc : Word) : (s.goto pc).nextId = s.nextId := rfl
@[simp] theorem State.goto_out (s : State) (pc : Word) : (s.goto pc).out = s.out := rfl
@[simp] theorem State.goto_sr (s : State) (pc : Word) : (s.goto pc).sr = s.sr := rfl
@[simp] theorem State.goto_hcw (s : State) (pc : Word) : (s.goto pc).hcw = s.hcw := rfl
@[simp] theorem State.goto_powered (s : State) (pc : Word) : (s.goto pc).powered = s.powered := rfl
@[simp] theorem State.goto_recordFatal (s : State) (pc : Word) : (s.goto pc).recordFatal = s.recordFatal := rfl
@[simp] theorem State.goto_poolFatal (s : State) (pc : Word) : (s.goto pc).poolFatal = s.poolFatal := rfl
@[simp] theorem State.goto_plan (s : State) (pc : Word) : (s.goto pc).plan = s.plan := rfl
@[simp] theorem State.goto_freq (s : State) (pc : Word) : (s.goto pc).freq = s.freq := rfl
@[simp] theorem State.goto_load (s : State) (pc : Word) : (s.goto pc).load = s.load := rfl
@[simp] theorem State.goto_dtime (s : State) (pc : Word) : (s.goto pc).dtime = s.dtime := rfl
@[simp] theorem State.goto_twrap (s : State) (pc : Word) : (s.goto pc).twrap = s.twrap := rfl
@[simp] theorem State.goto_tstat (s : State) (pc : Word) : (s.goto pc).tstat = s.tstat := rfl
@[simp] theorem State.goto_tfail (s : State) (pc : Word) : (s.goto pc).tfail = s.tfail := rfl
@[simp] theorem State.goto_aligned (s : State) (pc : Word) : (s.goto pc).aligned = s.aligned := rfl
@[simp] theorem State.goto_held (s : State) (pc : Word) : (s.goto pc).held = s.held := rfl
@[simp] theorem State.goto_tripCause (s : State) (pc : Word) : (s.goto pc).tripCause = s.tripCause := rfl
@[simp] theorem State.goto_gated (s : State) (pc : Word) : (s.goto pc).gated = s.gated := rfl
@[simp] theorem State.goto_fwCap (s : State) (pc : Word) : (s.goto pc).fwCap = s.fwCap := rfl
@[simp] theorem State.goto_failing (s : State) (pc : Word) : (s.goto pc).failing = s.failing := rfl
@[simp] theorem State.goto_fwImage (s : State) (pc : Word) : (s.goto pc).fwImage = s.fwImage := rfl
@[simp] theorem State.goto_fwLen (s : State) (pc : Word) : (s.goto pc).fwLen = s.fwLen := rfl
@[simp] theorem State.goto_fwVersion (s : State) (pc : Word) : (s.goto pc).fwVersion = s.fwVersion := rfl
@[simp] theorem State.goto_fwCounter (s : State) (pc : Word) : (s.goto pc).fwCounter = s.fwCounter := rfl
@[simp] theorem State.goto_fwValid (s : State) (pc : Word) : (s.goto pc).fwValid = s.fwValid := rfl
@[simp] theorem State.goto_fwRecovery (s : State) (pc : Word) : (s.goto pc).fwRecovery = s.fwRecovery := rfl
@[simp] theorem State.goto_fwParts (s : State) (pc : Word) : (s.goto pc).fwParts = s.fwParts := rfl
@[simp] theorem State.goto_bootDigest (s : State) (pc : Word) : (s.goto pc).bootDigest = s.bootDigest := rfl
@[simp] theorem State.goto_ports (s : State) (pc : Word) : (s.goto pc).ports = s.ports := rfl
@[simp] theorem State.goto_collIdx (s : State) (pc : Word) : (s.goto pc).collIdx = s.collIdx := rfl
@[simp] theorem State.goto_colls (s : State) (pc : Word) : (s.goto pc).colls = s.colls := rfl
@[simp] theorem State.goto_collSeq (s : State) (pc : Word) : (s.goto pc).collSeq = s.collSeq := rfl
@[simp] theorem State.goto_rules (s : State) (pc : Word) : (s.goto pc).rules = s.rules := rfl
@[simp] theorem State.goto_ruleLoad (s : State) (pc : Word) : (s.goto pc).ruleLoad = s.ruleLoad := rfl
@[simp] theorem State.goto_rings (s : State) (pc : Word) : (s.goto pc).rings = s.rings := rfl
@[simp] theorem State.goto_xoff (s : State) (pc : Word) : (s.goto pc).xoff = s.xoff := rfl
@[simp] theorem State.goto_ingHeld (s : State) (pc : Word) : (s.goto pc).ingHeld = s.ingHeld := rfl
@[simp] theorem State.goto_delivered (s : State) (pc : Word) : (s.goto pc).delivered = s.delivered := rfl
@[simp] theorem State.goto_flitWait (s : State) (pc : Word) : (s.goto pc).flitWait = s.flitWait := rfl
@[simp] theorem State.goto_poolRd (s : State) (pc : Word) : (s.goto pc).poolRd = s.poolRd := rfl
@[simp] theorem State.goto_poolWr (s : State) (pc : Word) : (s.goto pc).poolWr = s.poolWr := rfl
@[simp] theorem State.goto_poolFailed (s : State) (pc : Word) : (s.goto pc).poolFailed = s.poolFailed := rfl
@[simp] theorem State.goto_poolCtx (s : State) (pc : Word) : (s.goto pc).poolCtx = s.poolCtx := rfl
@[simp] theorem State.goto_hdmRegs (s : State) (pc : Word) : (s.goto pc).hdmRegs = s.hdmRegs := rfl
@[simp] theorem State.goto_hdmBase (s : State) (pc : Word) : (s.goto pc).hdmBase = s.hdmBase := rfl
@[simp] theorem State.goto_hostDirty (s : State) (pc : Word) : (s.goto pc).hostDirty = s.hostDirty := rfl
@[simp] theorem State.goto_hostBad (s : State) (pc : Word) : (s.goto pc).hostBad = s.hostBad := rfl
@[simp] theorem State.goto_cmds (s : State) (pc : Word) : (s.goto pc).cmds = s.cmds := rfl
@[simp] theorem State.goto_evHost (s : State) (pc : Word) : (s.goto pc).evHost = s.evHost := rfl
@[simp] theorem State.goto_evAcc (s : State) (pc : Word) : (s.goto pc).evAcc = s.evAcc := rfl
@[simp] theorem State.goto_frames (s : State) (pc : Word) : (s.goto pc).frames = s.frames := rfl
@[simp] theorem State.goto_revokes (s : State) (pc : Word) : (s.goto pc).revokes = s.revokes := rfl
@[simp] theorem State.goto_hostChk (s : State) (pc : Word) : (s.goto pc).hostChk = s.hostChk := rfl
@[simp] theorem State.goto_keys (s : State) (pc : Word) : (s.goto pc).keys = s.keys := rfl
@[simp] theorem State.goto_keyData (s : State) (pc : Word) : (s.goto pc).keyData = s.keyData := rfl
@[simp] theorem State.goto_vfResets (s : State) (pc : Word) : (s.goto pc).vfResets = s.vfResets := rfl
@[simp] theorem State.goto_exclBusy (s : State) (pc : Word) : (s.goto pc).exclBusy = s.exclBusy := rfl
@[simp] theorem State.goto_exclWait (s : State) (pc : Word) : (s.goto pc).exclWait = s.exclWait := rfl
@[simp] theorem State.goto_scrubMarked (s : State) (pc : Word) : (s.goto pc).scrubMarked = s.scrubMarked := rfl
@[simp] theorem State.goto_scrubHeld (s : State) (pc : Word) : (s.goto pc).scrubHeld = s.scrubHeld := rfl
@[simp] theorem State.goto_fcClk (s : State) (pc : Word) : (s.goto pc).fcClk = s.fcClk := rfl
@[simp] theorem State.goto_partSeen (s : State) (pc : Word) : (s.goto pc).partSeen = s.partSeen := rfl
@[simp] theorem State.goto_bootDue (s : State) (pc : Word) : (s.goto pc).bootDue = s.bootDue := rfl
@[simp] theorem State.goto_parts (s : State) (pc : Word) : (s.goto pc).parts = s.parts := rfl
@[simp] theorem State.goto_launches (s : State) (pc : Word) : (s.goto pc).launches = s.launches := rfl
@[simp] theorem State.goto_saved (s : State) (pc : Word) : (s.goto pc).saved = s.saved := rfl
@[simp] theorem State.goto_quads (s : State) (pc : Word) : (s.goto pc).quads = s.quads := rfl
@[simp] theorem State.goto_mem (s : State) (pc : Word) : (s.goto pc).mem = s.mem := rfl
@[simp] theorem State.goto_fe (s : State) (pc : Word) : (s.goto pc).fe = s.fe := rfl
@[simp] theorem State.goto_poison (s : State) (pc : Word) : (s.goto pc).poison = s.poison := rfl
@[simp] theorem State.goto_rewritten (s : State) (pc : Word) : (s.goto pc).rewritten = s.rewritten := rfl
@[simp] theorem State.goto_packed (s : State) (pc : Word) : (s.goto pc).packed = s.packed := rfl
@[simp] theorem State.goto_noSym (s : State) (pc : Word) : (s.goto pc).noSym = s.noSym := rfl
@[simp] theorem State.goto_accs (s : State) (pc : Word) : (s.goto pc).accs = s.accs := rfl
@[simp] theorem State.goto_entered (s : State) (pc : Word) : (s.goto pc).entered = s.entered := rfl
@[simp] theorem State.goto_sent (s : State) (pc : Word) : (s.goto pc).sent = s.sent := rfl
@[simp] theorem State.goto_xls (s : State) (pc : Word) : (s.goto pc).xls = s.xls := rfl
@[simp] theorem State.goto_hot (s : State) (pc : Word) : (s.goto pc).hot = s.hot := rfl
@[simp] theorem State.goto_mig (s : State) (pc : Word) : (s.goto pc).mig = s.mig := rfl
@[simp] theorem State.goto_hotRows (s : State) (pc : Word) : (s.goto pc).hotRows = s.hotRows := rfl
@[simp] theorem State.goto_bitErr (s : State) (pc : Word) : (s.goto pc).bitErr = s.bitErr := rfl
@[simp] theorem State.goto_corrReads (s : State) (pc : Word) : (s.goto pc).corrReads = s.corrReads := rfl
@[simp] theorem State.goto_uncorr (s : State) (pc : Word) : (s.goto pc).uncorr = s.uncorr := rfl
@[simp] theorem State.goto_recLost (s : State) (pc : Word) : (s.goto pc).recLost = s.recLost := rfl
@[simp] theorem State.goto_recAt (s : State) (pc : Word) : (s.goto pc).recAt = s.recAt := rfl
@[simp] theorem State.goto_race (s : State) (pc : Word) : (s.goto pc).race = s.race := rfl
@[simp] theorem State.goto_relClk (s : State) (pc : Word) : (s.goto pc).relClk = s.relClk := rfl
@[simp] theorem State.goto_sweeps (s : State) (pc : Word) : (s.goto pc).sweeps = s.sweeps := rfl

@[simp] theorem State.wrG_agenda (s : State) (n : Nat) (x : Word) : (s.wrG n x).agenda = s.agenda := rfl
@[simp] theorem State.wrG_params (s : State) (n : Nat) (x : Word) : (s.wrG n x).params = s.params := rfl
@[simp] theorem State.wrG_curH (s : State) (n : Nat) (x : Word) : (s.wrG n x).curH = s.curH := rfl
@[simp] theorem State.wrG_curSlot (s : State) (n : Nat) (x : Word) : (s.wrG n x).curSlot = s.curSlot := rfl
@[simp] theorem State.wrG_fresh (s : State) (n : Nat) (x : Word) : (s.wrG n x).fresh = s.fresh := rfl
@[simp] theorem State.wrG_nextId (s : State) (n : Nat) (x : Word) : (s.wrG n x).nextId = s.nextId := rfl
@[simp] theorem State.wrG_out (s : State) (n : Nat) (x : Word) : (s.wrG n x).out = s.out := rfl
@[simp] theorem State.wrG_sr (s : State) (n : Nat) (x : Word) : (s.wrG n x).sr = s.sr := rfl
@[simp] theorem State.wrG_hcw (s : State) (n : Nat) (x : Word) : (s.wrG n x).hcw = s.hcw := rfl
@[simp] theorem State.wrG_powered (s : State) (n : Nat) (x : Word) : (s.wrG n x).powered = s.powered := rfl
@[simp] theorem State.wrG_recordFatal (s : State) (n : Nat) (x : Word) : (s.wrG n x).recordFatal = s.recordFatal := rfl
@[simp] theorem State.wrG_poolFatal (s : State) (n : Nat) (x : Word) : (s.wrG n x).poolFatal = s.poolFatal := rfl
@[simp] theorem State.wrG_plan (s : State) (n : Nat) (x : Word) : (s.wrG n x).plan = s.plan := rfl
@[simp] theorem State.wrG_freq (s : State) (n : Nat) (x : Word) : (s.wrG n x).freq = s.freq := rfl
@[simp] theorem State.wrG_load (s : State) (n : Nat) (x : Word) : (s.wrG n x).load = s.load := rfl
@[simp] theorem State.wrG_dtime (s : State) (n : Nat) (x : Word) : (s.wrG n x).dtime = s.dtime := rfl
@[simp] theorem State.wrG_twrap (s : State) (n : Nat) (x : Word) : (s.wrG n x).twrap = s.twrap := rfl
@[simp] theorem State.wrG_tstat (s : State) (n : Nat) (x : Word) : (s.wrG n x).tstat = s.tstat := rfl
@[simp] theorem State.wrG_tfail (s : State) (n : Nat) (x : Word) : (s.wrG n x).tfail = s.tfail := rfl
@[simp] theorem State.wrG_aligned (s : State) (n : Nat) (x : Word) : (s.wrG n x).aligned = s.aligned := rfl
@[simp] theorem State.wrG_held (s : State) (n : Nat) (x : Word) : (s.wrG n x).held = s.held := rfl
@[simp] theorem State.wrG_tripCause (s : State) (n : Nat) (x : Word) : (s.wrG n x).tripCause = s.tripCause := rfl
@[simp] theorem State.wrG_gated (s : State) (n : Nat) (x : Word) : (s.wrG n x).gated = s.gated := rfl
@[simp] theorem State.wrG_fwCap (s : State) (n : Nat) (x : Word) : (s.wrG n x).fwCap = s.fwCap := rfl
@[simp] theorem State.wrG_failing (s : State) (n : Nat) (x : Word) : (s.wrG n x).failing = s.failing := rfl
@[simp] theorem State.wrG_fwImage (s : State) (n : Nat) (x : Word) : (s.wrG n x).fwImage = s.fwImage := rfl
@[simp] theorem State.wrG_fwLen (s : State) (n : Nat) (x : Word) : (s.wrG n x).fwLen = s.fwLen := rfl
@[simp] theorem State.wrG_fwVersion (s : State) (n : Nat) (x : Word) : (s.wrG n x).fwVersion = s.fwVersion := rfl
@[simp] theorem State.wrG_fwCounter (s : State) (n : Nat) (x : Word) : (s.wrG n x).fwCounter = s.fwCounter := rfl
@[simp] theorem State.wrG_fwValid (s : State) (n : Nat) (x : Word) : (s.wrG n x).fwValid = s.fwValid := rfl
@[simp] theorem State.wrG_fwRecovery (s : State) (n : Nat) (x : Word) : (s.wrG n x).fwRecovery = s.fwRecovery := rfl
@[simp] theorem State.wrG_fwParts (s : State) (n : Nat) (x : Word) : (s.wrG n x).fwParts = s.fwParts := rfl
@[simp] theorem State.wrG_bootDigest (s : State) (n : Nat) (x : Word) : (s.wrG n x).bootDigest = s.bootDigest := rfl
@[simp] theorem State.wrG_ports (s : State) (n : Nat) (x : Word) : (s.wrG n x).ports = s.ports := rfl
@[simp] theorem State.wrG_collIdx (s : State) (n : Nat) (x : Word) : (s.wrG n x).collIdx = s.collIdx := rfl
@[simp] theorem State.wrG_colls (s : State) (n : Nat) (x : Word) : (s.wrG n x).colls = s.colls := rfl
@[simp] theorem State.wrG_collSeq (s : State) (n : Nat) (x : Word) : (s.wrG n x).collSeq = s.collSeq := rfl
@[simp] theorem State.wrG_rules (s : State) (n : Nat) (x : Word) : (s.wrG n x).rules = s.rules := rfl
@[simp] theorem State.wrG_ruleLoad (s : State) (n : Nat) (x : Word) : (s.wrG n x).ruleLoad = s.ruleLoad := rfl
@[simp] theorem State.wrG_rings (s : State) (n : Nat) (x : Word) : (s.wrG n x).rings = s.rings := rfl
@[simp] theorem State.wrG_xoff (s : State) (n : Nat) (x : Word) : (s.wrG n x).xoff = s.xoff := rfl
@[simp] theorem State.wrG_ingHeld (s : State) (n : Nat) (x : Word) : (s.wrG n x).ingHeld = s.ingHeld := rfl
@[simp] theorem State.wrG_delivered (s : State) (n : Nat) (x : Word) : (s.wrG n x).delivered = s.delivered := rfl
@[simp] theorem State.wrG_flitWait (s : State) (n : Nat) (x : Word) : (s.wrG n x).flitWait = s.flitWait := rfl
@[simp] theorem State.wrG_poolRd (s : State) (n : Nat) (x : Word) : (s.wrG n x).poolRd = s.poolRd := rfl
@[simp] theorem State.wrG_poolWr (s : State) (n : Nat) (x : Word) : (s.wrG n x).poolWr = s.poolWr := rfl
@[simp] theorem State.wrG_poolFailed (s : State) (n : Nat) (x : Word) : (s.wrG n x).poolFailed = s.poolFailed := rfl
@[simp] theorem State.wrG_poolCtx (s : State) (n : Nat) (x : Word) : (s.wrG n x).poolCtx = s.poolCtx := rfl
@[simp] theorem State.wrG_hdmRegs (s : State) (n : Nat) (x : Word) : (s.wrG n x).hdmRegs = s.hdmRegs := rfl
@[simp] theorem State.wrG_hdmBase (s : State) (n : Nat) (x : Word) : (s.wrG n x).hdmBase = s.hdmBase := rfl
@[simp] theorem State.wrG_hostDirty (s : State) (n : Nat) (x : Word) : (s.wrG n x).hostDirty = s.hostDirty := rfl
@[simp] theorem State.wrG_hostBad (s : State) (n : Nat) (x : Word) : (s.wrG n x).hostBad = s.hostBad := rfl
@[simp] theorem State.wrG_cmds (s : State) (n : Nat) (x : Word) : (s.wrG n x).cmds = s.cmds := rfl
@[simp] theorem State.wrG_evHost (s : State) (n : Nat) (x : Word) : (s.wrG n x).evHost = s.evHost := rfl
@[simp] theorem State.wrG_evAcc (s : State) (n : Nat) (x : Word) : (s.wrG n x).evAcc = s.evAcc := rfl
@[simp] theorem State.wrG_frames (s : State) (n : Nat) (x : Word) : (s.wrG n x).frames = s.frames := rfl
@[simp] theorem State.wrG_revokes (s : State) (n : Nat) (x : Word) : (s.wrG n x).revokes = s.revokes := rfl
@[simp] theorem State.wrG_hostChk (s : State) (n : Nat) (x : Word) : (s.wrG n x).hostChk = s.hostChk := rfl
@[simp] theorem State.wrG_keys (s : State) (n : Nat) (x : Word) : (s.wrG n x).keys = s.keys := rfl
@[simp] theorem State.wrG_keyData (s : State) (n : Nat) (x : Word) : (s.wrG n x).keyData = s.keyData := rfl
@[simp] theorem State.wrG_vfResets (s : State) (n : Nat) (x : Word) : (s.wrG n x).vfResets = s.vfResets := rfl
@[simp] theorem State.wrG_exclBusy (s : State) (n : Nat) (x : Word) : (s.wrG n x).exclBusy = s.exclBusy := rfl
@[simp] theorem State.wrG_exclWait (s : State) (n : Nat) (x : Word) : (s.wrG n x).exclWait = s.exclWait := rfl
@[simp] theorem State.wrG_scrubMarked (s : State) (n : Nat) (x : Word) : (s.wrG n x).scrubMarked = s.scrubMarked := rfl
@[simp] theorem State.wrG_scrubHeld (s : State) (n : Nat) (x : Word) : (s.wrG n x).scrubHeld = s.scrubHeld := rfl
@[simp] theorem State.wrG_fcClk (s : State) (n : Nat) (x : Word) : (s.wrG n x).fcClk = s.fcClk := rfl
@[simp] theorem State.wrG_partSeen (s : State) (n : Nat) (x : Word) : (s.wrG n x).partSeen = s.partSeen := rfl
@[simp] theorem State.wrG_bootDue (s : State) (n : Nat) (x : Word) : (s.wrG n x).bootDue = s.bootDue := rfl
@[simp] theorem State.wrG_parts (s : State) (n : Nat) (x : Word) : (s.wrG n x).parts = s.parts := rfl
@[simp] theorem State.wrG_launches (s : State) (n : Nat) (x : Word) : (s.wrG n x).launches = s.launches := rfl
@[simp] theorem State.wrG_saved (s : State) (n : Nat) (x : Word) : (s.wrG n x).saved = s.saved := rfl
@[simp] theorem State.wrG_quads (s : State) (n : Nat) (x : Word) : (s.wrG n x).quads = s.quads := rfl
@[simp] theorem State.wrG_mem (s : State) (n : Nat) (x : Word) : (s.wrG n x).mem = s.mem := rfl
@[simp] theorem State.wrG_fe (s : State) (n : Nat) (x : Word) : (s.wrG n x).fe = s.fe := rfl
@[simp] theorem State.wrG_poison (s : State) (n : Nat) (x : Word) : (s.wrG n x).poison = s.poison := rfl
@[simp] theorem State.wrG_rewritten (s : State) (n : Nat) (x : Word) : (s.wrG n x).rewritten = s.rewritten := rfl
@[simp] theorem State.wrG_packed (s : State) (n : Nat) (x : Word) : (s.wrG n x).packed = s.packed := rfl
@[simp] theorem State.wrG_noSym (s : State) (n : Nat) (x : Word) : (s.wrG n x).noSym = s.noSym := rfl
@[simp] theorem State.wrG_accs (s : State) (n : Nat) (x : Word) : (s.wrG n x).accs = s.accs := rfl
@[simp] theorem State.wrG_entered (s : State) (n : Nat) (x : Word) : (s.wrG n x).entered = s.entered := rfl
@[simp] theorem State.wrG_sent (s : State) (n : Nat) (x : Word) : (s.wrG n x).sent = s.sent := rfl
@[simp] theorem State.wrG_xls (s : State) (n : Nat) (x : Word) : (s.wrG n x).xls = s.xls := rfl
@[simp] theorem State.wrG_hot (s : State) (n : Nat) (x : Word) : (s.wrG n x).hot = s.hot := rfl
@[simp] theorem State.wrG_mig (s : State) (n : Nat) (x : Word) : (s.wrG n x).mig = s.mig := rfl
@[simp] theorem State.wrG_hotRows (s : State) (n : Nat) (x : Word) : (s.wrG n x).hotRows = s.hotRows := rfl
@[simp] theorem State.wrG_bitErr (s : State) (n : Nat) (x : Word) : (s.wrG n x).bitErr = s.bitErr := rfl
@[simp] theorem State.wrG_corrReads (s : State) (n : Nat) (x : Word) : (s.wrG n x).corrReads = s.corrReads := rfl
@[simp] theorem State.wrG_uncorr (s : State) (n : Nat) (x : Word) : (s.wrG n x).uncorr = s.uncorr := rfl
@[simp] theorem State.wrG_recLost (s : State) (n : Nat) (x : Word) : (s.wrG n x).recLost = s.recLost := rfl
@[simp] theorem State.wrG_recAt (s : State) (n : Nat) (x : Word) : (s.wrG n x).recAt = s.recAt := rfl
@[simp] theorem State.wrG_race (s : State) (n : Nat) (x : Word) : (s.wrG n x).race = s.race := rfl
@[simp] theorem State.wrG_relClk (s : State) (n : Nat) (x : Word) : (s.wrG n x).relClk = s.relClk := rfl
@[simp] theorem State.wrG_sweeps (s : State) (n : Nat) (x : Word) : (s.wrG n x).sweeps = s.sweeps := rfl

@[simp] theorem Core.setThr_sclk (c : Core) (k : Nat) (t : Thread) : (c.setThr k t).sclk = c.sclk := rfl
@[simp] theorem Core.setThr_clkEx (c : Core) (k : Nat) (t : Thread) : (c.setThr k t).clkEx = c.clkEx := rfl
@[simp] theorem Core.setThr_nxm (c : Core) (k : Nat) (t : Thread) : (c.setThr k t).nxm = c.nxm := rfl
@[simp] theorem Core.setThr_ctag (c : Core) (k : Nat) (t : Thread) : (c.setThr k t).ctag = c.ctag := rfl
@[simp] theorem Core.setThr_ctagErr (c : Core) (k : Nat) (t : Thread) : (c.setThr k t).ctagErr = c.ctagErr := rfl
@[simp] theorem Core.setThr_msgDisc (c : Core) (k : Nat) (t : Thread) : (c.setThr k t).msgDisc = c.msgDisc := rfl
@[simp] theorem Core.setThr_dom (c : Core) (k : Nat) (t : Thread) : (c.setThr k t).dom = c.dom := rfl
@[simp] theorem Core.setThr_adjBase (c : Core) (k : Nat) (t : Thread) : (c.setThr k t).adjBase = c.adjBase := rfl
@[simp] theorem Core.setThr_adjLimit (c : Core) (k : Nat) (t : Thread) : (c.setThr k t).adjLimit = c.adjLimit := rfl
@[simp] theorem Core.setThr_adjPtr (c : Core) (k : Nat) (t : Thread) : (c.setThr k t).adjPtr = c.adjPtr := rfl
@[simp] theorem Core.setThr_adjCtl (c : Core) (k : Nat) (t : Thread) : (c.setThr k t).adjCtl = c.adjCtl := rfl
@[simp] theorem Core.setThr_adjStat (c : Core) (k : Nat) (t : Thread) : (c.setThr k t).adjStat = c.adjStat := rfl
@[simp] theorem Core.setThr_acc (c : Core) (k : Nat) (t : Thread) : (c.setThr k t).acc = c.acc := rfl
@[simp] theorem Core.setThr_uprog (c : Core) (k : Nat) (t : Thread) : (c.setThr k t).uprog = c.uprog := rfl
@[simp] theorem Core.setThr_slog (c : Core) (k : Nat) (t : Thread) : (c.setThr k t).slog = c.slog := rfl
@[simp] theorem Core.setThr_slogHeld (c : Core) (k : Nat) (t : Thread) : (c.setThr k t).slogHeld = c.slogHeld := rfl
@[simp] theorem Core.setThr_slogDrop (c : Core) (k : Nat) (t : Thread) : (c.setThr k t).slogDrop = c.slogDrop := rfl
@[simp] theorem Core.setThr_dq (c : Core) (k : Nat) (t : Thread) : (c.setThr k t).dq = c.dq := rfl
@[simp] theorem Core.setThr_copies (c : Core) (k : Nat) (t : Thread) : (c.setThr k t).copies = c.copies := rfl
@[simp] theorem Core.setThr_permit (c : Core) (k : Nat) (t : Thread) : (c.setThr k t).permit = c.permit := rfl
@[simp] theorem Core.setThr_pcount (c : Core) (k : Nat) (t : Thread) : (c.setThr k t).pcount = c.pcount := rfl
@[simp] theorem Core.setThr_mcWait (c : Core) (k : Nat) (t : Thread) : (c.setThr k t).mcWait = c.mcWait := rfl
@[simp] theorem Core.setThr_lastSlot (c : Core) (k : Nat) (t : Thread) : (c.setThr k t).lastSlot = c.lastSlot := rfl
@[simp] theorem Core.setThr_lastK (c : Core) (k : Nat) (t : Thread) : (c.setThr k t).lastK = c.lastK := rfl
@[simp] theorem Core.setThr_ret (c : Core) (k : Nat) (t : Thread) : (c.setThr k t).ret = c.ret := rfl
@[simp] theorem Core.setThr_retain (c : Core) (k : Nat) (t : Thread) : (c.setThr k t).retain = c.retain := rfl
@[simp] theorem Core.setThr_gang (c : Core) (k : Nat) (t : Thread) : (c.setThr k t).gang = c.gang := rfl
@[simp] theorem Core.setThr_relay (c : Core) (k : Nat) (t : Thread) : (c.setThr k t).relay = c.relay := rfl
@[simp] theorem Core.setThr_frecs (c : Core) (k : Nat) (t : Thread) : (c.setThr k t).frecs = c.frecs := rfl
@[simp] theorem Core.setThr_ipend (c : Core) (k : Nat) (t : Thread) : (c.setThr k t).ipend = c.ipend := rfl
@[simp] theorem Core.setThr_imask (c : Core) (k : Nat) (t : Thread) : (c.setThr k t).imask = c.imask := rfl
@[simp] theorem Core.setThr_ictlEn (c : Core) (k : Nat) (t : Thread) : (c.setThr k t).ictlEn = c.ictlEn := rfl
@[simp] theorem Core.setThr_ictlSlot (c : Core) (k : Nat) (t : Thread) : (c.setThr k t).ictlSlot = c.ictlSlot := rfl
@[simp] theorem Core.setThr_share (c : Core) (k : Nat) (t : Thread) : (c.setThr k t).share = c.share := rfl
@[simp] theorem Core.setThr_replay (c : Core) (k : Nat) (t : Thread) : (c.setThr k t).replay = c.replay := rfl
@[simp] theorem Core.setThr_haltK (c : Core) (k : Nat) (t : Thread) : (c.setThr k t).haltK = c.haltK := rfl
@[simp] theorem Core.setThr_quiesce (c : Core) (k : Nat) (t : Thread) : (c.setThr k t).quiesce = c.quiesce := rfl

@[simp] theorem Thread.count_st (t : Thread) : (t.count).st = t.st := rfl
@[simp] theorem Thread.count_pc (t : Thread) : (t.count).pc = t.pc := rfl
@[simp] theorem Thread.count_g (t : Thread) : (t.count).g = t.g := rfl
@[simp] theorem Thread.count_stk (t : Thread) : (t.count).stk = t.stk := rfl
@[simp] theorem Thread.count_base (t : Thread) : (t.count).base = t.base := rfl
@[simp] theorem Thread.count_low (t : Thread) : (t.count).low = t.low := rfl
@[simp] theorem Thread.count_wbsp (t : Thread) : (t.count).wbsp = t.wbsp := rfl
@[simp] theorem Thread.count_wprog (t : Thread) : (t.count).wprog = t.wprog := rfl
@[simp] theorem Thread.count_rep (t : Thread) : (t.count).rep = t.rep := rfl
@[simp] theorem Thread.count_v (t : Thread) : (t.count).v = t.v := rfl
@[simp] theorem Thread.count_p (t : Thread) : (t.count).p = t.p := rfl
@[simp] theorem Thread.count_d (t : Thread) : (t.count).d = t.d := rfl
@[simp] theorem Thread.count_utvec (t : Thread) : (t.count).utvec = t.utvec := rfl
@[simp] theorem Thread.count_asid (t : Thread) : (t.count).asid = t.asid := rfl
@[simp] theorem Thread.count_limit (t : Thread) : (t.count).limit = t.limit := rfl
@[simp] theorem Thread.count_cyc (t : Thread) : (t.count).cyc = t.cyc := rfl
@[simp] theorem Thread.count_trap (t : Thread) : (t.count).trap = t.trap := rfl
@[simp] theorem Thread.count_chans (t : Thread) : (t.count).chans = t.chans := rfl
@[simp] theorem Thread.count_offers (t : Thread) : (t.count).offers = t.offers := rfl
@[simp] theorem Thread.count_offer (t : Thread) : (t.count).offer = t.offer := rfl
@[simp] theorem Thread.count_arrivals (t : Thread) : (t.count).arrivals = t.arrivals := rfl
@[simp] theorem Thread.count_acqs (t : Thread) : (t.count).acqs = t.acqs := rfl
@[simp] theorem Thread.count_wait (t : Thread) : (t.count).wait = t.wait := rfl
@[simp] theorem Thread.count_pent (t : Thread) : (t.count).pent = t.pent := rfl
@[simp] theorem Thread.count_role (t : Thread) : (t.count).role = t.role := rfl
@[simp] theorem Thread.count_saved (t : Thread) : (t.count).saved = t.saved := rfl
@[simp] theorem Thread.count_inGang (t : Thread) : (t.count).inGang = t.inGang := rfl
@[simp] theorem Thread.count_stopped (t : Thread) : (t.count).stopped = t.stopped := rfl

@[simp] theorem Thread.wrV_st (t : Thread) (n : Nat) (x : VReg) : (t.wrV n x).st = t.st := rfl
@[simp] theorem Thread.wrV_pc (t : Thread) (n : Nat) (x : VReg) : (t.wrV n x).pc = t.pc := rfl
@[simp] theorem Thread.wrV_g (t : Thread) (n : Nat) (x : VReg) : (t.wrV n x).g = t.g := rfl
@[simp] theorem Thread.wrV_stk (t : Thread) (n : Nat) (x : VReg) : (t.wrV n x).stk = t.stk := rfl
@[simp] theorem Thread.wrV_base (t : Thread) (n : Nat) (x : VReg) : (t.wrV n x).base = t.base := rfl
@[simp] theorem Thread.wrV_low (t : Thread) (n : Nat) (x : VReg) : (t.wrV n x).low = t.low := rfl
@[simp] theorem Thread.wrV_wbsp (t : Thread) (n : Nat) (x : VReg) : (t.wrV n x).wbsp = t.wbsp := rfl
@[simp] theorem Thread.wrV_wprog (t : Thread) (n : Nat) (x : VReg) : (t.wrV n x).wprog = t.wprog := rfl
@[simp] theorem Thread.wrV_rep (t : Thread) (n : Nat) (x : VReg) : (t.wrV n x).rep = t.rep := rfl
@[simp] theorem Thread.wrV_p (t : Thread) (n : Nat) (x : VReg) : (t.wrV n x).p = t.p := rfl
@[simp] theorem Thread.wrV_d (t : Thread) (n : Nat) (x : VReg) : (t.wrV n x).d = t.d := rfl
@[simp] theorem Thread.wrV_pend (t : Thread) (n : Nat) (x : VReg) : (t.wrV n x).pend = t.pend := rfl
@[simp] theorem Thread.wrV_utvec (t : Thread) (n : Nat) (x : VReg) : (t.wrV n x).utvec = t.utvec := rfl
@[simp] theorem Thread.wrV_asid (t : Thread) (n : Nat) (x : VReg) : (t.wrV n x).asid = t.asid := rfl
@[simp] theorem Thread.wrV_limit (t : Thread) (n : Nat) (x : VReg) : (t.wrV n x).limit = t.limit := rfl
@[simp] theorem Thread.wrV_cyc (t : Thread) (n : Nat) (x : VReg) : (t.wrV n x).cyc = t.cyc := rfl
@[simp] theorem Thread.wrV_trap (t : Thread) (n : Nat) (x : VReg) : (t.wrV n x).trap = t.trap := rfl
@[simp] theorem Thread.wrV_supp (t : Thread) (n : Nat) (x : VReg) : (t.wrV n x).supp = t.supp := rfl
@[simp] theorem Thread.wrV_chans (t : Thread) (n : Nat) (x : VReg) : (t.wrV n x).chans = t.chans := rfl
@[simp] theorem Thread.wrV_offers (t : Thread) (n : Nat) (x : VReg) : (t.wrV n x).offers = t.offers := rfl
@[simp] theorem Thread.wrV_offer (t : Thread) (n : Nat) (x : VReg) : (t.wrV n x).offer = t.offer := rfl
@[simp] theorem Thread.wrV_arrivals (t : Thread) (n : Nat) (x : VReg) : (t.wrV n x).arrivals = t.arrivals := rfl
@[simp] theorem Thread.wrV_acqs (t : Thread) (n : Nat) (x : VReg) : (t.wrV n x).acqs = t.acqs := rfl
@[simp] theorem Thread.wrV_wait (t : Thread) (n : Nat) (x : VReg) : (t.wrV n x).wait = t.wait := rfl
@[simp] theorem Thread.wrV_pent (t : Thread) (n : Nat) (x : VReg) : (t.wrV n x).pent = t.pent := rfl
@[simp] theorem Thread.wrV_iss (t : Thread) (n : Nat) (x : VReg) : (t.wrV n x).iss = t.iss := rfl
@[simp] theorem Thread.wrV_fetched (t : Thread) (n : Nat) (x : VReg) : (t.wrV n x).fetched = t.fetched := rfl
@[simp] theorem Thread.wrV_role (t : Thread) (n : Nat) (x : VReg) : (t.wrV n x).role = t.role := rfl
@[simp] theorem Thread.wrV_saved (t : Thread) (n : Nat) (x : VReg) : (t.wrV n x).saved = t.saved := rfl
@[simp] theorem Thread.wrV_inGang (t : Thread) (n : Nat) (x : VReg) : (t.wrV n x).inGang = t.inGang := rfl
@[simp] theorem Thread.wrV_stopped (t : Thread) (n : Nat) (x : VReg) : (t.wrV n x).stopped = t.stopped := rfl

@[simp] theorem Thread.wrP_st (t : Thread) (n : Nat) (x : PReg) : (t.wrP n x).st = t.st := rfl
@[simp] theorem Thread.wrP_pc (t : Thread) (n : Nat) (x : PReg) : (t.wrP n x).pc = t.pc := rfl
@[simp] theorem Thread.wrP_g (t : Thread) (n : Nat) (x : PReg) : (t.wrP n x).g = t.g := rfl
@[simp] theorem Thread.wrP_stk (t : Thread) (n : Nat) (x : PReg) : (t.wrP n x).stk = t.stk := rfl
@[simp] theorem Thread.wrP_base (t : Thread) (n : Nat) (x : PReg) : (t.wrP n x).base = t.base := rfl
@[simp] theorem Thread.wrP_low (t : Thread) (n : Nat) (x : PReg) : (t.wrP n x).low = t.low := rfl
@[simp] theorem Thread.wrP_wbsp (t : Thread) (n : Nat) (x : PReg) : (t.wrP n x).wbsp = t.wbsp := rfl
@[simp] theorem Thread.wrP_wprog (t : Thread) (n : Nat) (x : PReg) : (t.wrP n x).wprog = t.wprog := rfl
@[simp] theorem Thread.wrP_rep (t : Thread) (n : Nat) (x : PReg) : (t.wrP n x).rep = t.rep := rfl
@[simp] theorem Thread.wrP_v (t : Thread) (n : Nat) (x : PReg) : (t.wrP n x).v = t.v := rfl
@[simp] theorem Thread.wrP_d (t : Thread) (n : Nat) (x : PReg) : (t.wrP n x).d = t.d := rfl
@[simp] theorem Thread.wrP_pend (t : Thread) (n : Nat) (x : PReg) : (t.wrP n x).pend = t.pend := rfl
@[simp] theorem Thread.wrP_utvec (t : Thread) (n : Nat) (x : PReg) : (t.wrP n x).utvec = t.utvec := rfl
@[simp] theorem Thread.wrP_asid (t : Thread) (n : Nat) (x : PReg) : (t.wrP n x).asid = t.asid := rfl
@[simp] theorem Thread.wrP_limit (t : Thread) (n : Nat) (x : PReg) : (t.wrP n x).limit = t.limit := rfl
@[simp] theorem Thread.wrP_cyc (t : Thread) (n : Nat) (x : PReg) : (t.wrP n x).cyc = t.cyc := rfl
@[simp] theorem Thread.wrP_trap (t : Thread) (n : Nat) (x : PReg) : (t.wrP n x).trap = t.trap := rfl
@[simp] theorem Thread.wrP_supp (t : Thread) (n : Nat) (x : PReg) : (t.wrP n x).supp = t.supp := rfl
@[simp] theorem Thread.wrP_chans (t : Thread) (n : Nat) (x : PReg) : (t.wrP n x).chans = t.chans := rfl
@[simp] theorem Thread.wrP_offers (t : Thread) (n : Nat) (x : PReg) : (t.wrP n x).offers = t.offers := rfl
@[simp] theorem Thread.wrP_offer (t : Thread) (n : Nat) (x : PReg) : (t.wrP n x).offer = t.offer := rfl
@[simp] theorem Thread.wrP_arrivals (t : Thread) (n : Nat) (x : PReg) : (t.wrP n x).arrivals = t.arrivals := rfl
@[simp] theorem Thread.wrP_acqs (t : Thread) (n : Nat) (x : PReg) : (t.wrP n x).acqs = t.acqs := rfl
@[simp] theorem Thread.wrP_wait (t : Thread) (n : Nat) (x : PReg) : (t.wrP n x).wait = t.wait := rfl
@[simp] theorem Thread.wrP_pent (t : Thread) (n : Nat) (x : PReg) : (t.wrP n x).pent = t.pent := rfl
@[simp] theorem Thread.wrP_iss (t : Thread) (n : Nat) (x : PReg) : (t.wrP n x).iss = t.iss := rfl
@[simp] theorem Thread.wrP_fetched (t : Thread) (n : Nat) (x : PReg) : (t.wrP n x).fetched = t.fetched := rfl
@[simp] theorem Thread.wrP_role (t : Thread) (n : Nat) (x : PReg) : (t.wrP n x).role = t.role := rfl
@[simp] theorem Thread.wrP_saved (t : Thread) (n : Nat) (x : PReg) : (t.wrP n x).saved = t.saved := rfl
@[simp] theorem Thread.wrP_inGang (t : Thread) (n : Nat) (x : PReg) : (t.wrP n x).inGang = t.inGang := rfl
@[simp] theorem Thread.wrP_stopped (t : Thread) (n : Nat) (x : PReg) : (t.wrP n x).stopped = t.stopped := rfl

@[simp] theorem Thread.wrD_st (t : Thread) (n : Nat) (x : Ident) : (t.wrD n x).st = t.st := rfl
@[simp] theorem Thread.wrD_pc (t : Thread) (n : Nat) (x : Ident) : (t.wrD n x).pc = t.pc := rfl
@[simp] theorem Thread.wrD_g (t : Thread) (n : Nat) (x : Ident) : (t.wrD n x).g = t.g := rfl
@[simp] theorem Thread.wrD_stk (t : Thread) (n : Nat) (x : Ident) : (t.wrD n x).stk = t.stk := rfl
@[simp] theorem Thread.wrD_base (t : Thread) (n : Nat) (x : Ident) : (t.wrD n x).base = t.base := rfl
@[simp] theorem Thread.wrD_low (t : Thread) (n : Nat) (x : Ident) : (t.wrD n x).low = t.low := rfl
@[simp] theorem Thread.wrD_wbsp (t : Thread) (n : Nat) (x : Ident) : (t.wrD n x).wbsp = t.wbsp := rfl
@[simp] theorem Thread.wrD_wprog (t : Thread) (n : Nat) (x : Ident) : (t.wrD n x).wprog = t.wprog := rfl
@[simp] theorem Thread.wrD_rep (t : Thread) (n : Nat) (x : Ident) : (t.wrD n x).rep = t.rep := rfl
@[simp] theorem Thread.wrD_v (t : Thread) (n : Nat) (x : Ident) : (t.wrD n x).v = t.v := rfl
@[simp] theorem Thread.wrD_p (t : Thread) (n : Nat) (x : Ident) : (t.wrD n x).p = t.p := rfl
@[simp] theorem Thread.wrD_pend (t : Thread) (n : Nat) (x : Ident) : (t.wrD n x).pend = t.pend := rfl
@[simp] theorem Thread.wrD_utvec (t : Thread) (n : Nat) (x : Ident) : (t.wrD n x).utvec = t.utvec := rfl
@[simp] theorem Thread.wrD_asid (t : Thread) (n : Nat) (x : Ident) : (t.wrD n x).asid = t.asid := rfl
@[simp] theorem Thread.wrD_limit (t : Thread) (n : Nat) (x : Ident) : (t.wrD n x).limit = t.limit := rfl
@[simp] theorem Thread.wrD_cyc (t : Thread) (n : Nat) (x : Ident) : (t.wrD n x).cyc = t.cyc := rfl
@[simp] theorem Thread.wrD_trap (t : Thread) (n : Nat) (x : Ident) : (t.wrD n x).trap = t.trap := rfl
@[simp] theorem Thread.wrD_supp (t : Thread) (n : Nat) (x : Ident) : (t.wrD n x).supp = t.supp := rfl
@[simp] theorem Thread.wrD_chans (t : Thread) (n : Nat) (x : Ident) : (t.wrD n x).chans = t.chans := rfl
@[simp] theorem Thread.wrD_offers (t : Thread) (n : Nat) (x : Ident) : (t.wrD n x).offers = t.offers := rfl
@[simp] theorem Thread.wrD_offer (t : Thread) (n : Nat) (x : Ident) : (t.wrD n x).offer = t.offer := rfl
@[simp] theorem Thread.wrD_arrivals (t : Thread) (n : Nat) (x : Ident) : (t.wrD n x).arrivals = t.arrivals := rfl
@[simp] theorem Thread.wrD_acqs (t : Thread) (n : Nat) (x : Ident) : (t.wrD n x).acqs = t.acqs := rfl
@[simp] theorem Thread.wrD_wait (t : Thread) (n : Nat) (x : Ident) : (t.wrD n x).wait = t.wait := rfl
@[simp] theorem Thread.wrD_pent (t : Thread) (n : Nat) (x : Ident) : (t.wrD n x).pent = t.pent := rfl
@[simp] theorem Thread.wrD_iss (t : Thread) (n : Nat) (x : Ident) : (t.wrD n x).iss = t.iss := rfl
@[simp] theorem Thread.wrD_fetched (t : Thread) (n : Nat) (x : Ident) : (t.wrD n x).fetched = t.fetched := rfl
@[simp] theorem Thread.wrD_role (t : Thread) (n : Nat) (x : Ident) : (t.wrD n x).role = t.role := rfl
@[simp] theorem Thread.wrD_saved (t : Thread) (n : Nat) (x : Ident) : (t.wrD n x).saved = t.saved := rfl
@[simp] theorem Thread.wrD_inGang (t : Thread) (n : Nat) (x : Ident) : (t.wrD n x).inGang = t.inGang := rfl
@[simp] theorem Thread.wrD_stopped (t : Thread) (n : Nat) (x : Ident) : (t.wrD n x).stopped = t.stopped := rfl

@[simp] theorem Thread.wrPhys_st (t : Thread) (i : Nat) (x : Word) : (t.wrPhys i x).st = t.st := by
  unfold Thread.wrPhys; split <;> (try split) <;> rfl
@[simp] theorem Thread.writeG_st (t : Thread) (n : Nat) (x : Word) : (t.writeG n x).st = t.st :=
  t.wrPhys_st _ x
@[simp] theorem Thread.wrPhys_pc (t : Thread) (i : Nat) (x : Word) : (t.wrPhys i x).pc = t.pc := by
  unfold Thread.wrPhys; split <;> (try split) <;> rfl
@[simp] theorem Thread.writeG_pc (t : Thread) (n : Nat) (x : Word) : (t.writeG n x).pc = t.pc :=
  t.wrPhys_pc _ x
@[simp] theorem Thread.wrPhys_base (t : Thread) (i : Nat) (x : Word) : (t.wrPhys i x).base = t.base := by
  unfold Thread.wrPhys; split <;> (try split) <;> rfl
@[simp] theorem Thread.writeG_base (t : Thread) (n : Nat) (x : Word) : (t.writeG n x).base = t.base :=
  t.wrPhys_base _ x
@[simp] theorem Thread.wrPhys_low (t : Thread) (i : Nat) (x : Word) : (t.wrPhys i x).low = t.low := by
  unfold Thread.wrPhys; split <;> (try split) <;> rfl
@[simp] theorem Thread.writeG_low (t : Thread) (n : Nat) (x : Word) : (t.writeG n x).low = t.low :=
  t.wrPhys_low _ x
@[simp] theorem Thread.wrPhys_wbsp (t : Thread) (i : Nat) (x : Word) : (t.wrPhys i x).wbsp = t.wbsp := by
  unfold Thread.wrPhys; split <;> (try split) <;> rfl
@[simp] theorem Thread.writeG_wbsp (t : Thread) (n : Nat) (x : Word) : (t.writeG n x).wbsp = t.wbsp :=
  t.wrPhys_wbsp _ x
@[simp] theorem Thread.wrPhys_wprog (t : Thread) (i : Nat) (x : Word) : (t.wrPhys i x).wprog = t.wprog := by
  unfold Thread.wrPhys; split <;> (try split) <;> rfl
@[simp] theorem Thread.writeG_wprog (t : Thread) (n : Nat) (x : Word) : (t.writeG n x).wprog = t.wprog :=
  t.wrPhys_wprog _ x
@[simp] theorem Thread.wrPhys_rep (t : Thread) (i : Nat) (x : Word) : (t.wrPhys i x).rep = t.rep := by
  unfold Thread.wrPhys; split <;> (try split) <;> rfl
@[simp] theorem Thread.writeG_rep (t : Thread) (n : Nat) (x : Word) : (t.writeG n x).rep = t.rep :=
  t.wrPhys_rep _ x
@[simp] theorem Thread.wrPhys_v (t : Thread) (i : Nat) (x : Word) : (t.wrPhys i x).v = t.v := by
  unfold Thread.wrPhys; split <;> (try split) <;> rfl
@[simp] theorem Thread.writeG_v (t : Thread) (n : Nat) (x : Word) : (t.writeG n x).v = t.v :=
  t.wrPhys_v _ x
@[simp] theorem Thread.wrPhys_p (t : Thread) (i : Nat) (x : Word) : (t.wrPhys i x).p = t.p := by
  unfold Thread.wrPhys; split <;> (try split) <;> rfl
@[simp] theorem Thread.writeG_p (t : Thread) (n : Nat) (x : Word) : (t.writeG n x).p = t.p :=
  t.wrPhys_p _ x
@[simp] theorem Thread.wrPhys_d (t : Thread) (i : Nat) (x : Word) : (t.wrPhys i x).d = t.d := by
  unfold Thread.wrPhys; split <;> (try split) <;> rfl
@[simp] theorem Thread.writeG_d (t : Thread) (n : Nat) (x : Word) : (t.writeG n x).d = t.d :=
  t.wrPhys_d _ x
@[simp] theorem Thread.wrPhys_pend (t : Thread) (i : Nat) (x : Word) : (t.wrPhys i x).pend = t.pend := by
  unfold Thread.wrPhys; split <;> (try split) <;> rfl
@[simp] theorem Thread.writeG_pend (t : Thread) (n : Nat) (x : Word) : (t.writeG n x).pend = t.pend :=
  t.wrPhys_pend _ x
@[simp] theorem Thread.wrPhys_utvec (t : Thread) (i : Nat) (x : Word) : (t.wrPhys i x).utvec = t.utvec := by
  unfold Thread.wrPhys; split <;> (try split) <;> rfl
@[simp] theorem Thread.writeG_utvec (t : Thread) (n : Nat) (x : Word) : (t.writeG n x).utvec = t.utvec :=
  t.wrPhys_utvec _ x
@[simp] theorem Thread.wrPhys_asid (t : Thread) (i : Nat) (x : Word) : (t.wrPhys i x).asid = t.asid := by
  unfold Thread.wrPhys; split <;> (try split) <;> rfl
@[simp] theorem Thread.writeG_asid (t : Thread) (n : Nat) (x : Word) : (t.writeG n x).asid = t.asid :=
  t.wrPhys_asid _ x
@[simp] theorem Thread.wrPhys_limit (t : Thread) (i : Nat) (x : Word) : (t.wrPhys i x).limit = t.limit := by
  unfold Thread.wrPhys; split <;> (try split) <;> rfl
@[simp] theorem Thread.writeG_limit (t : Thread) (n : Nat) (x : Word) : (t.writeG n x).limit = t.limit :=
  t.wrPhys_limit _ x
@[simp] theorem Thread.wrPhys_cyc (t : Thread) (i : Nat) (x : Word) : (t.wrPhys i x).cyc = t.cyc := by
  unfold Thread.wrPhys; split <;> (try split) <;> rfl
@[simp] theorem Thread.writeG_cyc (t : Thread) (n : Nat) (x : Word) : (t.writeG n x).cyc = t.cyc :=
  t.wrPhys_cyc _ x
@[simp] theorem Thread.wrPhys_trap (t : Thread) (i : Nat) (x : Word) : (t.wrPhys i x).trap = t.trap := by
  unfold Thread.wrPhys; split <;> (try split) <;> rfl
@[simp] theorem Thread.writeG_trap (t : Thread) (n : Nat) (x : Word) : (t.writeG n x).trap = t.trap :=
  t.wrPhys_trap _ x
@[simp] theorem Thread.wrPhys_supp (t : Thread) (i : Nat) (x : Word) : (t.wrPhys i x).supp = t.supp := by
  unfold Thread.wrPhys; split <;> (try split) <;> rfl
@[simp] theorem Thread.writeG_supp (t : Thread) (n : Nat) (x : Word) : (t.writeG n x).supp = t.supp :=
  t.wrPhys_supp _ x
@[simp] theorem Thread.wrPhys_chans (t : Thread) (i : Nat) (x : Word) : (t.wrPhys i x).chans = t.chans := by
  unfold Thread.wrPhys; split <;> (try split) <;> rfl
@[simp] theorem Thread.writeG_chans (t : Thread) (n : Nat) (x : Word) : (t.writeG n x).chans = t.chans :=
  t.wrPhys_chans _ x
@[simp] theorem Thread.wrPhys_offers (t : Thread) (i : Nat) (x : Word) : (t.wrPhys i x).offers = t.offers := by
  unfold Thread.wrPhys; split <;> (try split) <;> rfl
@[simp] theorem Thread.writeG_offers (t : Thread) (n : Nat) (x : Word) : (t.writeG n x).offers = t.offers :=
  t.wrPhys_offers _ x
@[simp] theorem Thread.wrPhys_offer (t : Thread) (i : Nat) (x : Word) : (t.wrPhys i x).offer = t.offer := by
  unfold Thread.wrPhys; split <;> (try split) <;> rfl
@[simp] theorem Thread.writeG_offer (t : Thread) (n : Nat) (x : Word) : (t.writeG n x).offer = t.offer :=
  t.wrPhys_offer _ x
@[simp] theorem Thread.wrPhys_arrivals (t : Thread) (i : Nat) (x : Word) : (t.wrPhys i x).arrivals = t.arrivals := by
  unfold Thread.wrPhys; split <;> (try split) <;> rfl
@[simp] theorem Thread.writeG_arrivals (t : Thread) (n : Nat) (x : Word) : (t.writeG n x).arrivals = t.arrivals :=
  t.wrPhys_arrivals _ x
@[simp] theorem Thread.wrPhys_acqs (t : Thread) (i : Nat) (x : Word) : (t.wrPhys i x).acqs = t.acqs := by
  unfold Thread.wrPhys; split <;> (try split) <;> rfl
@[simp] theorem Thread.writeG_acqs (t : Thread) (n : Nat) (x : Word) : (t.writeG n x).acqs = t.acqs :=
  t.wrPhys_acqs _ x
@[simp] theorem Thread.wrPhys_wait (t : Thread) (i : Nat) (x : Word) : (t.wrPhys i x).wait = t.wait := by
  unfold Thread.wrPhys; split <;> (try split) <;> rfl
@[simp] theorem Thread.writeG_wait (t : Thread) (n : Nat) (x : Word) : (t.writeG n x).wait = t.wait :=
  t.wrPhys_wait _ x
@[simp] theorem Thread.wrPhys_pent (t : Thread) (i : Nat) (x : Word) : (t.wrPhys i x).pent = t.pent := by
  unfold Thread.wrPhys; split <;> (try split) <;> rfl
@[simp] theorem Thread.writeG_pent (t : Thread) (n : Nat) (x : Word) : (t.writeG n x).pent = t.pent :=
  t.wrPhys_pent _ x
@[simp] theorem Thread.wrPhys_iss (t : Thread) (i : Nat) (x : Word) : (t.wrPhys i x).iss = t.iss := by
  unfold Thread.wrPhys; split <;> (try split) <;> rfl
@[simp] theorem Thread.writeG_iss (t : Thread) (n : Nat) (x : Word) : (t.writeG n x).iss = t.iss :=
  t.wrPhys_iss _ x
@[simp] theorem Thread.wrPhys_fetched (t : Thread) (i : Nat) (x : Word) : (t.wrPhys i x).fetched = t.fetched := by
  unfold Thread.wrPhys; split <;> (try split) <;> rfl
@[simp] theorem Thread.writeG_fetched (t : Thread) (n : Nat) (x : Word) : (t.writeG n x).fetched = t.fetched :=
  t.wrPhys_fetched _ x
@[simp] theorem Thread.wrPhys_role (t : Thread) (i : Nat) (x : Word) : (t.wrPhys i x).role = t.role := by
  unfold Thread.wrPhys; split <;> (try split) <;> rfl
@[simp] theorem Thread.writeG_role (t : Thread) (n : Nat) (x : Word) : (t.writeG n x).role = t.role :=
  t.wrPhys_role _ x
@[simp] theorem Thread.wrPhys_saved (t : Thread) (i : Nat) (x : Word) : (t.wrPhys i x).saved = t.saved := by
  unfold Thread.wrPhys; split <;> (try split) <;> rfl
@[simp] theorem Thread.writeG_saved (t : Thread) (n : Nat) (x : Word) : (t.writeG n x).saved = t.saved :=
  t.wrPhys_saved _ x
@[simp] theorem Thread.wrPhys_inGang (t : Thread) (i : Nat) (x : Word) : (t.wrPhys i x).inGang = t.inGang := by
  unfold Thread.wrPhys; split <;> (try split) <;> rfl
@[simp] theorem Thread.writeG_inGang (t : Thread) (n : Nat) (x : Word) : (t.writeG n x).inGang = t.inGang :=
  t.wrPhys_inGang _ x
@[simp] theorem Thread.wrPhys_stopped (t : Thread) (i : Nat) (x : Word) : (t.wrPhys i x).stopped = t.stopped := by
  unfold Thread.wrPhys; split <;> (try split) <;> rfl
@[simp] theorem Thread.writeG_stopped (t : Thread) (n : Nat) (x : Word) : (t.writeG n x).stopped = t.stopped :=
  t.wrPhys_stopped _ x
@[simp] theorem Thread.retire_st (t : Thread) (len : Nat) : (t.retire len).st = t.st := by
  simp only [Thread.retire, Thread.repDone]; split <;> (try split) <;> rfl
@[simp] theorem Thread.goto_st (t : Thread) (pc : Word) : (t.goto pc).st = t.st := by
  simp only [Thread.goto, Thread.repDone]; split <;> (try split) <;> rfl
@[simp] theorem Thread.retire_g (t : Thread) (len : Nat) : (t.retire len).g = t.g := by
  simp only [Thread.retire, Thread.repDone]; split <;> (try split) <;> rfl
@[simp] theorem Thread.goto_g (t : Thread) (pc : Word) : (t.goto pc).g = t.g := by
  simp only [Thread.goto, Thread.repDone]; split <;> (try split) <;> rfl
@[simp] theorem Thread.retire_stk (t : Thread) (len : Nat) : (t.retire len).stk = t.stk := by
  simp only [Thread.retire, Thread.repDone]; split <;> (try split) <;> rfl
@[simp] theorem Thread.goto_stk (t : Thread) (pc : Word) : (t.goto pc).stk = t.stk := by
  simp only [Thread.goto, Thread.repDone]; split <;> (try split) <;> rfl
@[simp] theorem Thread.retire_base (t : Thread) (len : Nat) : (t.retire len).base = t.base := by
  simp only [Thread.retire, Thread.repDone]; split <;> (try split) <;> rfl
@[simp] theorem Thread.goto_base (t : Thread) (pc : Word) : (t.goto pc).base = t.base := by
  simp only [Thread.goto, Thread.repDone]; split <;> (try split) <;> rfl
@[simp] theorem Thread.retire_low (t : Thread) (len : Nat) : (t.retire len).low = t.low := by
  simp only [Thread.retire, Thread.repDone]; split <;> (try split) <;> rfl
@[simp] theorem Thread.goto_low (t : Thread) (pc : Word) : (t.goto pc).low = t.low := by
  simp only [Thread.goto, Thread.repDone]; split <;> (try split) <;> rfl
@[simp] theorem Thread.retire_wbsp (t : Thread) (len : Nat) : (t.retire len).wbsp = t.wbsp := by
  simp only [Thread.retire, Thread.repDone]; split <;> (try split) <;> rfl
@[simp] theorem Thread.goto_wbsp (t : Thread) (pc : Word) : (t.goto pc).wbsp = t.wbsp := by
  simp only [Thread.goto, Thread.repDone]; split <;> (try split) <;> rfl
@[simp] theorem Thread.retire_wprog (t : Thread) (len : Nat) : (t.retire len).wprog = t.wprog := by
  simp only [Thread.retire, Thread.repDone]; split <;> (try split) <;> rfl
@[simp] theorem Thread.goto_wprog (t : Thread) (pc : Word) : (t.goto pc).wprog = t.wprog := by
  simp only [Thread.goto, Thread.repDone]; split <;> (try split) <;> rfl
@[simp] theorem Thread.retire_v (t : Thread) (len : Nat) : (t.retire len).v = t.v := by
  simp only [Thread.retire, Thread.repDone]; split <;> (try split) <;> rfl
@[simp] theorem Thread.goto_v (t : Thread) (pc : Word) : (t.goto pc).v = t.v := by
  simp only [Thread.goto, Thread.repDone]; split <;> (try split) <;> rfl
@[simp] theorem Thread.retire_p (t : Thread) (len : Nat) : (t.retire len).p = t.p := by
  simp only [Thread.retire, Thread.repDone]; split <;> (try split) <;> rfl
@[simp] theorem Thread.goto_p (t : Thread) (pc : Word) : (t.goto pc).p = t.p := by
  simp only [Thread.goto, Thread.repDone]; split <;> (try split) <;> rfl
@[simp] theorem Thread.retire_d (t : Thread) (len : Nat) : (t.retire len).d = t.d := by
  simp only [Thread.retire, Thread.repDone]; split <;> (try split) <;> rfl
@[simp] theorem Thread.goto_d (t : Thread) (pc : Word) : (t.goto pc).d = t.d := by
  simp only [Thread.goto, Thread.repDone]; split <;> (try split) <;> rfl
@[simp] theorem Thread.retire_utvec (t : Thread) (len : Nat) : (t.retire len).utvec = t.utvec := by
  simp only [Thread.retire, Thread.repDone]; split <;> (try split) <;> rfl
@[simp] theorem Thread.goto_utvec (t : Thread) (pc : Word) : (t.goto pc).utvec = t.utvec := by
  simp only [Thread.goto, Thread.repDone]; split <;> (try split) <;> rfl
@[simp] theorem Thread.retire_asid (t : Thread) (len : Nat) : (t.retire len).asid = t.asid := by
  simp only [Thread.retire, Thread.repDone]; split <;> (try split) <;> rfl
@[simp] theorem Thread.goto_asid (t : Thread) (pc : Word) : (t.goto pc).asid = t.asid := by
  simp only [Thread.goto, Thread.repDone]; split <;> (try split) <;> rfl
@[simp] theorem Thread.retire_limit (t : Thread) (len : Nat) : (t.retire len).limit = t.limit := by
  simp only [Thread.retire, Thread.repDone]; split <;> (try split) <;> rfl
@[simp] theorem Thread.goto_limit (t : Thread) (pc : Word) : (t.goto pc).limit = t.limit := by
  simp only [Thread.goto, Thread.repDone]; split <;> (try split) <;> rfl
@[simp] theorem Thread.retire_cyc (t : Thread) (len : Nat) : (t.retire len).cyc = t.cyc := by
  simp only [Thread.retire, Thread.repDone]; split <;> (try split) <;> rfl
@[simp] theorem Thread.goto_cyc (t : Thread) (pc : Word) : (t.goto pc).cyc = t.cyc := by
  simp only [Thread.goto, Thread.repDone]; split <;> (try split) <;> rfl
@[simp] theorem Thread.retire_trap (t : Thread) (len : Nat) : (t.retire len).trap = t.trap := by
  simp only [Thread.retire, Thread.repDone]; split <;> (try split) <;> rfl
@[simp] theorem Thread.goto_trap (t : Thread) (pc : Word) : (t.goto pc).trap = t.trap := by
  simp only [Thread.goto, Thread.repDone]; split <;> (try split) <;> rfl
@[simp] theorem Thread.retire_chans (t : Thread) (len : Nat) : (t.retire len).chans = t.chans := by
  simp only [Thread.retire, Thread.repDone]; split <;> (try split) <;> rfl
@[simp] theorem Thread.goto_chans (t : Thread) (pc : Word) : (t.goto pc).chans = t.chans := by
  simp only [Thread.goto, Thread.repDone]; split <;> (try split) <;> rfl
@[simp] theorem Thread.retire_offers (t : Thread) (len : Nat) : (t.retire len).offers = t.offers := by
  simp only [Thread.retire, Thread.repDone]; split <;> (try split) <;> rfl
@[simp] theorem Thread.goto_offers (t : Thread) (pc : Word) : (t.goto pc).offers = t.offers := by
  simp only [Thread.goto, Thread.repDone]; split <;> (try split) <;> rfl
@[simp] theorem Thread.retire_offer (t : Thread) (len : Nat) : (t.retire len).offer = t.offer := by
  simp only [Thread.retire, Thread.repDone]; split <;> (try split) <;> rfl
@[simp] theorem Thread.goto_offer (t : Thread) (pc : Word) : (t.goto pc).offer = t.offer := by
  simp only [Thread.goto, Thread.repDone]; split <;> (try split) <;> rfl
@[simp] theorem Thread.retire_arrivals (t : Thread) (len : Nat) : (t.retire len).arrivals = t.arrivals := by
  simp only [Thread.retire, Thread.repDone]; split <;> (try split) <;> rfl
@[simp] theorem Thread.goto_arrivals (t : Thread) (pc : Word) : (t.goto pc).arrivals = t.arrivals := by
  simp only [Thread.goto, Thread.repDone]; split <;> (try split) <;> rfl
@[simp] theorem Thread.retire_acqs (t : Thread) (len : Nat) : (t.retire len).acqs = t.acqs := by
  simp only [Thread.retire, Thread.repDone]; split <;> (try split) <;> rfl
@[simp] theorem Thread.goto_acqs (t : Thread) (pc : Word) : (t.goto pc).acqs = t.acqs := by
  simp only [Thread.goto, Thread.repDone]; split <;> (try split) <;> rfl
@[simp] theorem Thread.retire_pent (t : Thread) (len : Nat) : (t.retire len).pent = t.pent := by
  simp only [Thread.retire, Thread.repDone]; split <;> (try split) <;> rfl
@[simp] theorem Thread.goto_pent (t : Thread) (pc : Word) : (t.goto pc).pent = t.pent := by
  simp only [Thread.goto, Thread.repDone]; split <;> (try split) <;> rfl
@[simp] theorem Thread.retire_role (t : Thread) (len : Nat) : (t.retire len).role = t.role := by
  simp only [Thread.retire, Thread.repDone]; split <;> (try split) <;> rfl
@[simp] theorem Thread.goto_role (t : Thread) (pc : Word) : (t.goto pc).role = t.role := by
  simp only [Thread.goto, Thread.repDone]; split <;> (try split) <;> rfl
@[simp] theorem Thread.retire_saved (t : Thread) (len : Nat) : (t.retire len).saved = t.saved := by
  simp only [Thread.retire, Thread.repDone]; split <;> (try split) <;> rfl
@[simp] theorem Thread.goto_saved (t : Thread) (pc : Word) : (t.goto pc).saved = t.saved := by
  simp only [Thread.goto, Thread.repDone]; split <;> (try split) <;> rfl
@[simp] theorem Thread.retire_inGang (t : Thread) (len : Nat) : (t.retire len).inGang = t.inGang := by
  simp only [Thread.retire, Thread.repDone]; split <;> (try split) <;> rfl
@[simp] theorem Thread.goto_inGang (t : Thread) (pc : Word) : (t.goto pc).inGang = t.inGang := by
  simp only [Thread.goto, Thread.repDone]; split <;> (try split) <;> rfl
@[simp] theorem Thread.retire_stopped (t : Thread) (len : Nat) : (t.retire len).stopped = t.stopped := by
  simp only [Thread.retire, Thread.repDone]; split <;> (try split) <;> rfl
@[simp] theorem Thread.goto_stopped (t : Thread) (pc : Word) : (t.goto pc).stopped = t.stopped := by
  simp only [Thread.goto, Thread.repDone]; split <;> (try split) <;> rfl

/-! ### Reading back -/

@[simp] theorem State.core_setCore (s : State) (h : Nat) (c : Core) : (s.setCore h c).core h = c :=
  SMap.val_put_self ..

theorem State.core_setCore_ne (s : State) {h h' : Nat} (c : Core) (n : h' ≠ h) : (s.setCore h c).core h' = s.core h' :=
  SMap.val_put_ne _ _ _ n

@[simp] theorem State.core_onCoreAt (s : State) (h : Nat) (f : Core → Core) : (s.onCoreAt h f).core h = f (s.core h) :=
  SMap.val_put_self ..

theorem State.core_onCoreAt_ne (s : State) {h h' : Nat} (f : Core → Core) (n : h' ≠ h) :
    (s.onCoreAt h f).core h' = s.core h' := SMap.val_put_ne _ _ _ n

@[simp] theorem Core.thr_setThr (c : Core) (k : Nat) (t : Thread) : (c.setThr k t).thr k = t := SMap.val_put_self ..

theorem Core.thr_setThr_ne (c : Core) {k k' : Nat} (t : Thread) (n : k' ≠ k) : (c.setThr k t).thr k' = c.thr k' :=
  SMap.val_put_ne _ _ _ n

@[simp] theorem State.thr_onThr (s : State) (h k : Nat) (f : Thread → Thread) : (s.onThr h k f).thr h k = f (s.thr h k) := by
  simp [State.onThr, State.setThr, State.thr]

theorem State.thr_onThr_ne (s : State) {h k h' k' : Nat} (f : Thread → Thread) (n : h' ≠ h ∨ k' ≠ k) :
    (s.onThr h k f).thr h' k' = s.thr h' k' := by
  by_cases e : h' = h
  · subst e
    simpa [State.onThr, State.setThr, State.thr] using Core.thr_setThr_ne _ _ (n.resolve_left (· rfl))
  · simp [State.onThr, State.setThr, State.thr, State.core_onCoreAt_ne _ _ e]

@[simp] theorem State.cur_onCur (s : State) (f : Thread → Thread) : (s.onCur f).cur = f s.cur := s.thr_onThr _ _ f

@[simp] theorem State.cc_onCC (s : State) (f : Core → Core) : (s.onCC f).cc = f s.cc := s.core_onCoreAt _ f

@[simp] theorem State.srv_setSr (s : State) (n i : Nat) (v : Word) : (s.setSr n i v).srv n i = v := SMap.val_put_self ..

@[simp] theorem State.rd8_onCur (s : State) (f : Thread → Thread) (a : Nat) : (s.onCur f).rd8 a = s.rd8 a := rfl

@[simp] theorem Thread.wrPhys_zero (t : Thread) (x : Word) : t.wrPhys 0 x = t := rfl

/-- A scalar register reads back what was written, but field 0. -/
theorem Thread.rdPhys_wrPhys (t : Thread) (i j : Nat) (x : Word) :
    (t.wrPhys i x).rdPhys j = if j = i then (if i = 0 then 0 else x) else t.rdPhys j := by
  by_cases hij : j = i
  · subst hij
    by_cases h0 : j = 0
    · simp [Thread.rdPhys, h0]
    · by_cases h8 : j < 8 <;> simp [Thread.rdPhys, Thread.wrPhys, h0, h8]
  · by_cases h0 : i = 0
    · subst h0; simp [hij]
    · by_cases j0 : j = 0
      · simp [Thread.rdPhys, j0]; omega
      · by_cases i8 : i < 8 <;> by_cases j8 : j < 8 <;> simp [Thread.rdPhys, Thread.wrPhys, h0, j0, i8, j8, hij]
        · rw [SMap.val_put_ne _ _ _ hij]
        · rw [SMap.val_put_ne _ _ _ (by omega)]

end Sys2Proof.Machine
end

