-- ==== Sys2Proof/Tests/Slice0.lean ====
section
/-! SUPPORT. Tests: ill-formed terms that `wf` refuses, the manual's worked encodings decoded, single steps with results
from the manual, and for every statement a witness of the hypotheses of each of its clauses. -/

namespace Sys2Proof.Tests

open Sys2Proof Machine Claims

section
set_option Elab.async false

/-! ### Small states -/

/-- A user thread in slot 0 of core 0. -/
def user (t : Thread) (c : Core := {}) : State :=
  { State.reset with cores := [(0, { c with threads := [(0, { t with st := .active })] })] }

/-- A kernel thread in slot 0 of system core 0, which is core 1023 after reset. -/
def sys (t : Thread) (c : Core := {}) : State :=
  { State.reset with curH := 1023, cores := [(1023, { c with threads := [(0, { t with st := .active })] })] }

/-- A thread with the scalar registers `g`, by physical number. -/
def regs (l : List (Nat × Word)) : Thread :=
  l.foldl (fun t p => t.wrPhys p.1 p.2) { pc := 0x1000 }

/-- A state whose step has the given parameters. -/
def given (s : State) (l : List Nat) : State := { s with params := l }

/-- The decoder reads the instruction from the word. -/
def reads (w : Nat) (i : Instr) : Bool := match decodeFetched w with | .ok j => decide (j = i) | .error _ => false

/-! ### Words written out in the manual (R249, R252 and the worked encodings of the instruction chapters) -/

theorem test_decode_scalar : reads 0x00149401 (.add 8 9 10) ∧ reads 0x015AC581 (.div 11 12 13) := by
  decide
theorem test_decode_branch : reads 0xFFC4A493 (.bcc 9 10 2 4092) ∧ reads 0xFFF4B09F (.loop 11 32762) := by
  decide
theorem test_decode_call : reads 0x00010199 (.call 3 32) ∧ reads 0x0000001F .ret := by decide
theorem test_decode_pad : reads 0x000A501B (.pad 165) ∧ reads 0x001AC71D (.jtab 14 12 13) := by decide
theorem test_decode_rep : reads 0x0186011F (.rep 3 3) := by decide
theorem test_decode_store : reads 0x00249623 (.st 12 9 2 2) ∧ reads 0x06089627 (.strel 12 9 4 2) := by
  decide
theorem test_decode_load : reads 0x02009625 (.ldx 12 9 2 0) ∧ reads 0x12069627 (.ldacq 12 9 3 2 1) ∧
    reads 0x0706A729 (.ldfE 14 10 3 1 0) := by decide
theorem test_decode_atomic : reads 0x20B6962B (.amoadd 12 9 3 3 1 2) ∧
    reads 0x00C6962B (.amoaddNr 12 9 3 0 1) := by decide
theorem test_decode_order : reads 0xF008002D (.fence 4) ∧ reads 0x104A002D (.barGen 5) := by decide
theorem test_decode_message : reads 0x00000631 (.send 12 0) ∧ reads 0x004006B1 (.recv 13 0 0) ∧
    reads 0x00DAC731 (.pmrg 14 12 13) := by decide
theorem test_decode_copy : reads 0x0000B033 (.cpy 11) ∧ reads 0x100107B5 (.ctwaitAll 15 16) := by decide
theorem test_decode_vector : reads 0x188831C1 (.vadd 3 3 4 2 0 2) ∧ reads 0x78041143 (.vcmpLt 2 1 2 0 0 2) ∧
    reads 0x781280C5 (.vbound 1 8 9 2) ∧ reads 0x084046D5 (.vred 13 4 1 2 0) := by decide
theorem test_decode_vector_memory : reads 0x2A40A257 (.vld 4 10 1 1 2 2) ∧
    reads 0x0840A259 (.vst 4 10 1 2) := by decide
theorem test_decode_vector_float : reads 0x088620C9 (.vfadd 1 2 3 2 0 2) ∧
    reads 0x180C524B (.vfma 4 5 6 0 0 2 1 0) ∧ reads 0x300083CD (.vcvt 7 8 0 0 0 0 0 3) := by decide
theorem test_decode_vector_span : reads 0x1096A4CF (.vdot 9 10 11 2 0 1) ∧
    reads 0x1840D651 (.vsfn 12 13 0 1 0 2 1) := by decide
theorem test_decode_tile : reads 0x200184E1 (.tmma 1 2 3 0 0 2) ∧ reads 0x03A28861 (.tmmaSat 0 4 5 1 3 0) ∧
    reads 0x08010261 (.tmmx 0 1 2 0 0 0) ∧ reads 0x00200165 (.tzero 2 1 0) ∧
    reads 0x02000665 (.tst 0 3 0 0 0) := by decide
theorem test_decode_identifier : reads 0x10048267 (.tdesc 1 9 1) ∧ reads 0x04060067 (.tuprog 12 0) := by
  decide
theorem test_decode_adjoint : reads 0x00000069 .trec ∧ reads 0x02000069 .trece ∧
    reads 0x04060069 (.tmark 12) ∧ reads 0x16000069 (.trev 1) ∧ reads 0x08068069 (.tlogq 13) := by
  decide
theorem test_decode_system : reads 0x03C004F1 (.mts 9 0 0 7) ∧ reads 0x0D000771 (.mfs 14 0 0 26) ∧
    reads 0x0000C073 (.trap 12) ∧ reads 0x00400073 .rft ∧ reads 0x0080003B .halt := by decide
/-- VADD v3, v4 under p1 by R246 and R247: g = 1, vs = 4, vd = 3, op = 1; and the padding halfword of R247. -/
theorem test_decode_halfword : reads 0x9062 (.vadd16 3 4 1) ∧ reads 0x0000 (.vmov16 0 0 0) := by decide
theorem test_decode_unassigned : [0x0E010261, 0x10148267, 0x0A000069, 0x10000069].all
    (fun w => match decodeFetched w with | .ok _ => false | .error _ => true) = true := by decide

/-! ### Ill-formed terms, one for each kind of check, refused -/

theorem test_wf_registers : ([.add 32 0 0, .add 0 32 0, .add 0 0 32, .vadd 32 0 0 0 0 2, .vadd 0 0 0 8 0 2, .pand 8 0 0, .pcnt 0 8 0,
    .tadd 4 0 0 0, .tadd 0 64 0 0, .tdesc 64 0 0, .vmov16 0 32 0, .recv 0 8 0] : List Instr).all (fun i => !i.wf) = true := by decide
theorem test_wf_immediates : ([.addi 0 0 32768, .shli 0 0 64, .immh 0 1048576, .lea 0 0 0 16, .bcc 0 0 0 4096, .j 33554432,
    .call 16 0, .call 0 2097152, .pad 65536, .loop 0 32768, .rep 64 0, .rep 0 8, .ld 0 0 0 256 0, .bar 32, .mfs 0 0 32 0,
    .mfs 0 0 0 512, .vmov16 0 0 2] : List Instr).all (fun i => !i.wf) = true := by decide
theorem test_wf_codes : ([.bcc 0 0 6 0, .bz 0 4 0, .ldu 0 0 3 0 0, .ldx 0 0 4 0, .ldx 0 0 0 16, .ldacq 0 0 5 0 0, .ldf 0 0 0 2 0,
    .amoadd 0 0 5 0 0 0, .amoadd 0 0 0 4 0 0, .amocas 31 0 0 0 0 0, .fence 5, .gang 0, .gang 7, .fquery 30 0, .vadd 0 0 0 0 2 2,
    .vadd 0 0 0 0 0 4, .vred 0 0 0 0 8, .vlds 0 31 0 0 0 0, .vgath 0 0 1 0 0 0 0, .vfadd 0 0 0 0 0 3, .vfma 0 0 0 0 0 0 2 0,
    .vcvt 0 0 9 0 0 0 0 0, .vcvt 0 0 0 0 0 0 3 0, .vcvt 0 0 0 0 0 0 0 9, .vdot 0 0 0 8 0 0, .vclmul 0 0 0 2 0, .vsfn 0 0 8 0 0 0 0,
    .tmma 0 0 0 4 0 0, .tact 0 4 0, .tred 0 2 0, .tcvt 0 2 0 0, .tcvt 0 0 3 0, .tzero 0 2 0, .tst 0 0 2 0 0, .trev 16] :
    List Instr).all (fun i => !i.wf) = true := by decide

/-! ### Chapters 12 and 13 -/

/-- R280's table: −2^63 / −1 gives −2^63 and the remainder 0; division by 0 gives all ones. -/
theorem test_division : division 0x8000000000000000 0xFFFFFFFFFFFFFFFF = (0x8000000000000000, 0, 0, 0x8000000000000000) ∧
    division 7 0 = (BitVec.allOnes 64, 7, BitVec.allOnes 64, 7) := by decide

theorem witness_ScalarResult :
    (scalarResult (.add 31 1 2) (user (regs [(1, 5), (2, 6)])) = some (31, 11) ∧ (Instr.add 31 1 2).wf = true ∧
      (user (regs [(1, 5), (2, 6)])).cur.openG 31 = false) ∧
    (scalarResult (.addi 0 1 32767) (user (regs [(1, 5)])) = some (0, 4) ∧ (Instr.addi 0 1 32767).wf = true ∧
      (user (regs [(1, 5)])).cur.openG 0 = false) := by decide

/-- A thread with an open window on scalar field 8, which counts one more instruction. -/
def opened : Thread := { regs [(1, 5)] with pend := [{ id := 1, dest := .scalar 8, field := 8, cnt := 1 }] }

theorem witness_ScalarLookahead :
    scalarResult (.addi 8 1 0) (user opened) = some (8, 5) ∧ (user opened).cur.openG 8 = true := by decide

theorem witness_DivisionResults : (user (regs [(1, 5), (2, 6)])).cur.openG 31 = false ∧ 31 < 32 ∧
    (user (regs [(1, 5), (2, 6)])).g 2 ≠ 0 := by decide

theorem witness_DirectTransfers :
    (5 < 6 ∧ Compares 5 ((user (regs [(1, 5), (2, 5)])).g 1) ((user (regs [(1, 5), (2, 5)])).g 2)) ∧
    (0 < 6 ∧ ¬ Compares 0 ((user (regs [(1, 5)])).g 1) ((user (regs [(1, 5)])).g 2)) ∧
    (3 < 4 ∧ Compares 3 ((user (regs [])).g 1) 0) ∧ (0 < 4 ∧ ¬ Compares 0 ((user (regs [(1, 5)])).g 1) 0) ∧
    (31 < 32 ∧ (user (regs [])).cur.openG 31 = false) := by
  refine ⟨⟨by decide, ?_⟩, ⟨by decide, ?_⟩, ⟨by decide, ?_⟩, ⟨by decide, ?_⟩, by decide⟩ <;> (simp only [Compares]; decide)

theorem witness_CallSlides :
    (15 < 16 ∧ SlideOk (user (regs [])).cur (15 + 1)) ∧
    (15 < 16 ∧ 65536 < (user { regs [] with base := 65500, low := 65500 }).cur.base + (15 + 1) + 24) ∧
    (3 < 16 ∧ (user { regs [] with pend := [{ dest := .scalar 35 }] }).cur.base + (3 + 1) + 24 ≤ 65536 ∧
      ∃ e ∈ (user { regs [] with pend := [{ dest := .scalar 35 }] }).cur.pend,
        e.dest = .scalar (8 + ((user { regs [] with pend := [{ dest := .scalar 35 }] }).cur.base + (3 + 1) + 23) % 128)) ∧
    (3 < 16 ∧ (user { regs [] with base := 101 }).cur.base + (3 + 1) + 24 ≤ 65536 ∧
      (∀ e ∈ (user { regs [] with base := 101 }).cur.pend,
        e.dest ≠ .scalar (8 + ((user { regs [] with base := 101 }).cur.base + (3 + 1) + 23) % 128)) ∧
      128 < (user { regs [] with base := 101 }).cur.base + (3 + 1) + 24 - (user { regs [] with base := 101 }).cur.low) := by
  unfold SlideOk; decide

/-- A thread whose link register w23 holds `link`. -/
def linkedAt (base low : Nat) (link : Word) : Thread :=
  { pc := 0x1000, base := base, low := low, stk := [((base + 23) % 128, link)] }

theorem witness_ReturnSlidesBack :
    ((user (linkedAt 16 0 0xF000000000002000)).cur.low + 16 ≤ (user (linkedAt 16 0 0xF000000000002000)).cur.base ∧
      16 = ((user (linkedAt 16 0 0xF000000000002000)).g 31).toNat / 2 ^ 60 + 1 ∧ (0x2000 : Word).getLsbD 0 = false ∧
      (0x2000 : Word) = (((user (linkedAt 16 0 0xF000000000002000)).g 31).setWidth 57).signExtend 64) ∧
    ((user (linkedAt 0 0 0x2000)).cur.base < 1 ∧ (user (linkedAt 0 0 0x2000)).cur.low = 0 ∧
      1 = ((user (linkedAt 0 0 0x2000)).g 31).toNat / 2 ^ 60 + 1) ∧
    (¬ ((user (linkedAt 1 0 0x2001)).cur.base < 1 ∧ (user (linkedAt 1 0 0x2001)).cur.low = 0) ∧
      ((((user (linkedAt 1 0 0x2001)).g 31).setWidth 57).signExtend 64).getLsbD 0 = true ∧
      1 = ((user (linkedAt 1 0 0x2001)).g 31).toNat / 2 ^ 60 + 1) ∧
    ((user (linkedAt 16 16 0x2000)).cur.base < (user (linkedAt 16 16 0x2000)).cur.low + 1 ∧
      (user (linkedAt 16 16 0x2000)).cur.low ≠ 0 ∧ 1 = ((user (linkedAt 16 16 0x2000)).g 31).toNat / 2 ^ 60 + 1 ∧
      ((((user (linkedAt 16 16 0x2000)).g 31).setWidth 57).signExtend 64).getLsbD 0 = false) := by decide

theorem witness_ReturnUndoesCall : 15 < 16 ∧ SlideOk (user (regs [])).cur (15 + 1) ∧
    (user (regs [])).cur.low ≤ (user (regs [])).cur.base ∧ (user (regs [])).cur.pc.getLsbD 0 = false ∧
    (((user (regs [])).cur.pc + 4).setWidth 57).signExtend 64 = (user (regs [])).cur.pc + 4 := by
  unfold SlideOk; decide

/-- The state with the word `w` in the instruction cache of quad 0 at an address below 2^56, and the bytes of `v` at the
start of the local store of core 0. -/
def coded (s : State) (va w : Nat) (v : Nat) : State :=
  { s.wrN (lsLoc 0 0) 8 v with quads := [(0, { icache := [{ line := va / 64, data := w * 2 ^ (8 * (va % 64)) }] })] }

/-- w1 holds label 165 and bound 1, w2 the local store's address, w3 the index. -/
def jumper (i : Word) (w : Nat) : State :=
  coded (user (regs [(1, 0x100A5), (2, 0xFFFFFF0000000000), (3, i)])) 0x2000 w 0x2000

theorem witness_IndirectTransfers :
    ((15 < 16 ∧ ((jumper 0 0x000A501B).g 2).toNat % 8 = 0 ∧ (jumper 0 0x000A501B).accReady = true ∧
      ((jumper 0 0x000A501B).g 3).toNat < wbits ((jumper 0 0x000A501B).g 1) 32 16 ∧ 0x2000 % 2 = 0 ∧
      SlideOk (jumper 0 0x000A501B).cur (15 + 1)) ∧
      ∃ s1 s2, (jumper 0 0x000A501B).accessNow ((jumper 0 0x000A501B).accOf
        (((jumper 0 0x000A501B).g 2) + 8 * ((jumper 0 0x000A501B).g 3)).toNat 8 .load) = .ok s1 (.value 0x2000) ∧
        s1.fetchTarget 0x2000 = .ok s2 0x000A501B ∧
        decodeFetched 0x000A501B = .ok (.pad (wbits ((jumper 0 0x000A501B).g 1) 15 0))) ∧
    (∃ s1 s2, (jumper 0 0x000A601B).accessNow ((jumper 0 0x000A601B).accOf
        (((jumper 0 0x000A601B).g 2) + 8 * ((jumper 0 0x000A601B).g 3)).toNat 8 .load) = .ok s1 (.value 0x2000) ∧
      s1.fetchTarget 0x2000 = .ok s2 0x000A601B ∧ s1.following = false ∧
      decodeFetched 0x000A601B ≠ .ok (.pad (wbits ((jumper 0 0x000A601B).g 1) 15 0))) ∧
    (wbits ((jumper 1 0).g 1) 32 16 ≤ ((jumper 1 0).g 3).toNat ∧ SlideOk (jumper 1 0).cur (15 + 1)) ∧
    ((jumper 0 0x000A501B).cc.dq = [] ∧ spaceOf (((jumper 0 0x000A501B).g 2) + 8 * ((jumper 0 0x000A501B).g 3)).toNat = .ls 0 ∧
      (jumper 0 0x000A501B).rdN (lsLoc (jumper 0 0x000A501B).curH 0) 8 = 0x2000 ∧ CachedWord (jumper 0 0x000A501B) 0x2000 0x000A501B ∧
      CachedHalf (jumper 0 0x000A501B) ((0x2000 + 2) % 2 ^ 64) 0x000A) ∧
    (CachedWord (jumper 0 0x000A601B) 0x2000 0x000A601B ∧ (jumper 0 0x000A601B).following = false) := by
  refine ⟨⟨?_, _, _, rfl, rfl, rfl⟩, ⟨_, _, rfl, rfl, rfl, ?_⟩, ?_, ⟨by decide, by decide, by decide, ?_, by decide, _, rfl, by decide⟩, ?_, by decide⟩
  · unfold SlideOk; decide
  · intro h; injection h with h; injection h with h; revert h; decide
  · unfold SlideOk; decide
  · exact .inr ⟨0x501B, 0x000A, ⟨by decide, _, rfl, by decide⟩, by decide, ⟨by decide, _, rfl, by decide⟩, by decide⟩
  · exact .inr ⟨0x601B, 0x000A, ⟨by decide, _, rfl, by decide⟩, by decide, ⟨by decide, _, rfl, by decide⟩, by decide⟩

/-- A thread at 0x1000 in whose cache line the word `w` lies at 0x1004. -/
def repeats (w : Nat) : State := coded (user (regs [])) 0x1004 w 0

/-- A follower of a gang that core 1 leads. -/
def followsUp : State := user { regs [] with inGang := true } { gang := some { leader := 1, size := 4, slot := 0 } }

theorem witness_PadAndRep :
    (63 < 64 ∧ 7 < 8 ∧ (∃ s1, (repeats 0x00149401).fetchWord (repeats 0x00149401).curH (repeats 0x00149401).curSlot
        ((repeats 0x00149401).cur.pc + 4).toNat = .ok s1 0x00149401) ∧
      (repeats 0x00149401).following = false ∧ MayRepeat 0x00149401 7 ∧
      (repeats 0x00149401).cur.fetched.lookup ((repeats 0x00149401).cur.pc + 4).toNat = none ∧
      CachedWord (repeats 0x00149401) ((repeats 0x00149401).cur.pc + 4).toNat 0x00149401) ∧
    ((∃ s1, (repeats 0x0000001F).fetchWord (repeats 0x0000001F).curH (repeats 0x0000001F).curSlot
        ((repeats 0x0000001F).cur.pc + 4).toNat = .ok s1 0x0000001F) ∧ (repeats 0x0000001F).following = false ∧
      ¬ MayRepeat 0x0000001F 0 ∧ CachedWord (repeats 0x0000001F) ((repeats 0x0000001F).cur.pc + 4).toNat 0x0000001F) ∧
    followsUp.following = true := by
  refine ⟨⟨by decide, by decide, ⟨_, rfl⟩, by decide, ⟨by decide, by decide, ?_⟩, by decide, ?_⟩, ⟨⟨_, rfl⟩, by decide, ?_, ?_⟩, by decide⟩
  · intro i h; injection h with h; subst h; rfl
  · exact .inr ⟨0x9401, 0x0014, ⟨by decide, _, rfl, by decide⟩, by decide, ⟨by decide, _, rfl, by decide⟩, by decide⟩
  · rintro ⟨-, -, h⟩; exact absurd (h _ rfl) (by decide)
  · exact .inr ⟨0x001F, 0, ⟨by decide, _, rfl, by decide⟩, by decide, ⟨by decide, _, rfl, by decide⟩, by decide⟩

theorem witness_RepetitionSteps :
    (0x00149401 < 2 ^ 32 ∧ 0x00149401 % 2 = 1 ∧ 7 < 8 ∧
      (0x12 ≤ bits 0x00149401 6 1 ∧ bits 0x00149401 6 1 ≤ 0x1D ∨ bits 0x00149401 6 1 = 0) ∧
      ∀ i, i < 3 → (7 : Nat).testBit i = true → bits 0x00149401 (5 * i + 11) (5 * i + 7) + 21 < 32) ∧
    (∃ i, i < 3 ∧ (4 : Nat).testBit i = true ∧ 32 ≤ bits 0x00149401 (5 * i + 11) (5 * i + 7) + 22) := by
  refine ⟨by decide, 2, by decide, by decide, by decide⟩

/-- The thread of the jumps whose table's first entry is odd. -/
def oddEntry : State := coded (user (regs [(1, 0x100A5), (2, 0xFFFFFF0000000000), (3, 0)])) 0x2000 0 0x2001

/-- A follower whose leader found `label` at 0x2000. -/
def guided (label : Nat) : State :=
  coded (user { regs [(1, 0x100A5), (2, 0xFFFFFF0000000000), (3, 0)] with inGang := true }
    { gang := some { leader := 1, size := 4, slot := 0 }, relay := [{ next := 0x2000, label := label }] }) 0x3000 0 0x2000

theorem witness_IndirectTransfers_checks :
    ((user (regs [(2, 4)])).g 2).toNat % 8 ≠ 0 ∧ ((user (regs [(2, 4)])).cur.base + (15 + 1) + 24 ≤ 65536 ∧
      ∀ e ∈ (user (regs [(2, 4)])).cur.pend, e.dest ≠ .scalar (8 + ((user (regs [(2, 4)])).cur.base + (15 + 1) + 23) % 128)) ∧
    (∃ s1, oddEntry.accessNow (oddEntry.accOf ((oddEntry.g 2) + 8 * (oddEntry.g 3)).toNat 8 .load) = .ok s1 (.value 0x2001)) ∧
    (∀ l ∈ [164, 165], ∃ s1, (guided l).accessNow ((guided l).accOf (((guided l).g 2) + 8 * ((guided l).g 3)).toNat 8 .load) = .ok s1 (.value 0x2000) ∧
      s1.following = true ∧ s1.cc.relay.head? = some { next := 0x2000, label := l }) ∧
    wbits ((guided 165).g 1) 15 0 = 165 ∧
    (user { regs [] with base := 65500, low := 65400 }).cur.base = 65500 ∧
    (∃ e ∈ (user { regs [] with pend := [{ dest := .scalar 47 }] }).cur.pend, e.dest =
      .scalar (8 + ((user { regs [] with pend := [{ dest := .scalar 47 }] }).cur.base + (15 + 1) + 23) % 128)) ∧
    128 < (user { regs [] with base := 120 }).cur.base + (15 + 1) + 24 - (user { regs [] with base := 120 }).cur.low := by
  refine ⟨by decide, by decide, ⟨_, rfl⟩, fun l hl => ?_, by decide, rfl, by decide, by decide⟩
  simp only [List.mem_cons, List.not_mem_nil, or_false] at hl
  obtain rfl | rfl := hl <;> exact ⟨_, rfl, rfl, rfl⟩

/-- A thread that repeats `w` with REP's mask 7, with `rem` of two repetitions left. -/
def midway (w rem : Nat) : State :=
  coded (user { regs [] with rep := BitVec.ofNat 64 (rem * 2 ^ 16 + 2 ^ 15 + 7 * 2 ^ 12 + 2 ^ 6) }) 0x1000 (0x0382011F + 2 ^ 32 * w) 0

theorem witness_RepetitionSteps_formats :
    (∀ m ∈ [0, 8, 0x12, 0x16, 0x18, 0x1A, 0x1C, 0x1D, 0x38, 0x3C], MaskNames (2 * m + 1) [(7, 5), (12, 5), (17, 5)]) ∧
    (∀ m ∈ [1, 6, 0x10, 0x11], MaskNames (2 * m + 1) [(7, 5), (12, 5)]) ∧ MaskNames 15 [(7, 5)] ∧
    (∀ m ∈ [0x20, 0x2C], MaskNames (2 * m + 1) [(7, 5), (12, 5), (17, 5)]) ∧
    (∀ m ∈ [0x30, 0x34], MaskNames (2 * m + 1) [(7, 2), (9, 6), (15, 6)]) ∧ MaskNames 0x9062 [(5, 5), (10, 5)] ∧
    StepsOut 0x9062 1 29 [(5, 5), (10, 5)] ∧ ¬ StepsOut 0x9062 1 28 [(5, 5), (10, 5)] := by
  refine ⟨by unfold MaskNames; decide, by unfold MaskNames; decide, by unfold MaskNames; decide, by unfold MaskNames; decide,
    by unfold MaskNames; decide, by unfold MaskNames; decide, ⟨0, 5, 5, rfl, by decide, by decide⟩, ?_⟩
  rintro ⟨i, lo, n, h, hm, hb⟩
  obtain _ | _ | i := i
  · cases h; exact absurd hb (by decide)
  · exact absurd hm (by decide)
  · cases h

theorem witness_RepetitionSteps_issues :
    (∀ rem ∈ [1, 2], repAct (midway 0x00149401 rem).cur.rep = true) ∧
    (∃ s1 s2, (midway 0x00149401 1).fetchWord 0 0 (midway 0x00149401 1).cur.pc.toNat = .ok s1 0x0382011F ∧
      decodeFetched 0x0382011F = .ok (.rep 1 7) ∧ s1.fetchWord 0 0 ((midway 0x00149401 1).cur.pc + 4).toNat = .ok s2 0x00149401) ∧
    (∃ s1 s2, (midway 0x003F9401 1).fetchWord 0 0 (midway 0x003F9401 1).cur.pc.toNat = .ok s1 0x0382011F ∧
      s1.fetchWord 0 0 ((midway 0x003F9401 1).cur.pc + 4).toNat = .ok s2 0x003F9401) ∧
    (repMask (midway 0x003F9401 1).cur.rep = 7 ∧ repNm1 (midway 0x003F9401 1).cur.rep + 1 - repRem (midway 0x003F9401 1).cur.rep = 1) ∧
    (StepsOut 0x003F9401 7 1 [(7, 5), (12, 5), (17, 5)] ∧ ¬ StepsOut 0x00149401 7 1 [(7, 5), (12, 5), (17, 5)]) ∧
    ((user { regs [(31, 0)] with base := 16, rep := 0x18000 }).cur.low + 1 ≤ (user { regs [(31, 0)] with base := 16, rep := 0x18000 }).cur.base ∧
      repAct (user { regs [(31, 0)] with base := 16, rep := 0x18000 }).cur.rep = true) := by
  refine ⟨by decide, ⟨_, _, rfl, rfl, rfl⟩, ⟨_, _, rfl, rfl⟩, by decide, ⟨⟨2, 17, 5, rfl, by decide, by decide⟩, ?_⟩, by decide⟩
  rintro ⟨i, lo, n, h, hm, hb⟩
  obtain _ | _ | _ | i := i
  · cases h; exact absurd hb (by decide)
  · cases h; exact absurd hb (by decide)
  · cases h; exact absurd hb (by decide)
  · cases h

/-- A thread whose backing stack starts with the local store. -/
def spilling (base low : Nat) (wbsp : Word) : Thread := { regs [] with base := base, low := low, wbsp := wbsp }

theorem witness_SpillAndFill :
    (WindowsClose (user (spilling 16 0 0xFFFFFF0000000000)) (user (spilling 16 0 0xFFFFFF0000000000)) ∧
      Memory.wf (user (spilling 16 0 0xFFFFFF0000000000)).mem = true ∧ (user (spilling 16 0 0xFFFFFF0000000000)).accReady = true ∧
      (user (spilling 16 0 0xFFFFFF0000000000)).cc.dq = [] ∧ (user (spilling 16 0 0xFFFFFF0000000000)).cc.slog = [] ∧
      (user (spilling 16 0 0xFFFFFF0000000000)).cc.slogHeld = [] ∧ (user (spilling 16 0 0xFFFFFF0000000000)).cur.wprog < 16 ∧
      (user (spilling 16 0 0xFFFFFF0000000000)).cur.low + 16 ≤ (user (spilling 16 0 0xFFFFFF0000000000)).cur.base ∧
      (user (spilling 16 0 0xFFFFFF0000000000)).cur.wbsp.toNat % 8 = 0 ∧
      spaceOf (user (spilling 16 0 0xFFFFFF0000000000)).cur.wbsp.toNat = .ls 0 ∧ 0 + 128 ≤ 65536) ∧
    (WindowsClose (user (spilling 104 16 0xFFFFFF0000010000)) (user (spilling 104 16 0xFFFFFF0000010000)) ∧
      (user (spilling 104 16 0xFFFFFF0000010000)).cur.low ≠ 0 ∧
      (user (spilling 104 16 0xFFFFFF0000010000)).cur.base + 40 - (user (spilling 104 16 0xFFFFFF0000010000)).cur.low ≤ 128 ∧
      spaceOf ((user (spilling 104 16 0xFFFFFF0000010000)).cur.wbsp - 128).toNat = .ls 65408 ∧ 65408 + 128 ≤ 65536) ∧
    (WindowsClose (user (spilling 15 0 0)) (user (spilling 15 0 0)) ∧ (user (spilling 15 0 0)).cur.base < (user (spilling 15 0 0)).cur.low + 16 ∧
      (user (spilling 15 0 0)).cur.low = 0) := by
  refine ⟨⟨⟨by decide, rfl⟩, by decide⟩, ⟨⟨by decide, rfl⟩, by decide⟩, ⟨by decide, rfl⟩, by decide⟩

/-! ### Chapter 14 -/

/-- A thread whose w1 is the given address and whose w2 is 7. -/
def at1 (a : Word) : State := user (regs [(1, a), (2, 7)])

/-- Nothing holds an access of a thread that has issued none. -/
theorem mayIssue (s : State) (a : Acc) (h1 : s.accReady = true) (h2 : s.slogPending s.curH s.curSlot = false) (h3 : s.cc.dq = [])
    (h4 : s.reachedAll s.curH s.curSlot a.sc (fun _ => true) = true) (h5 : a.rel = true → a.sc ≤ 2)
    (h6 : s.lineHeld s.curH (s.asidOf s.curH s.curSlot) (a.va / 64) = false ∧ s.acqMoving s.curH s.curSlot = false ∧
      ∀ e ∈ s.cur.pend, e.fault = none) : MayIssue s a :=
  ⟨h1, h6.2.2, h2, h3, h6.1, fun h => ⟨⟨h2, h4, .inl (h5 h)⟩, h6.2.1⟩⟩

/-- A word at the start of core 0's local store, full. -/
def fullWord : State := ((at1 0xFFFFFF0000000000).wrN (lsLoc 0 0) 4 0x80000005).setFull (lsLoc 0 0) true

theorem witness_LocalLoads :
    (∃ a, loadForm (.ld 31 1 3 255 15) (at1 0xFFFFFF0000010000) = some (31, 15, 64, a) ∧ (Instr.ld 31 1 3 255 15).wf = true ∧
      Memory.wf (at1 0xFFFFFF0000010000).mem = true ∧ MayIssue (at1 0xFFFFFF0000010000) a ∧
      (at1 0xFFFFFF0000010000).cur.openG 31 = false ∧ (at1 0xFFFFFF0000010000).cur.pend.length < 4 ∧ a.va % a.size = 0 ∧
      spaceOf a.va = .ls 65528 ∧ a.kind = .load) ∧
    (∃ a, loadForm (.amoadd 31 1 2 3 0 0) fullWord = some (31, 0, 0, a) ∧ (Instr.amoadd 31 1 2 3 0 0).wf = true ∧ MayIssue fullWord a ∧
      a.rel = true ∧ spaceOf a.va = .ls 0) ∧
    (∃ a, loadForm (.ldfE 31 1 2 0 0) fullWord = some (31, 0, 0, a) ∧ a.kind = .ldfE ∧ MayIssue fullWord a ∧
      fullWord.allFull (lsLoc fullWord.curH 0) a.size = true ∧ Memory.wf fullWord.mem = true) := by
  refine ⟨⟨_, rfl, by decide, by decide, mayIssue _ _ (by decide) (by decide) (by decide) (by decide) (by decide) (by decide), by decide⟩,
    ⟨_, rfl, by decide, mayIssue _ _ (by decide) (by decide) (by decide) (by decide) (by decide) (by decide), by decide⟩,
    ⟨_, rfl, by decide, mayIssue _ _ (by decide) (by decide) (by decide) (by decide) (by decide) (by decide), by decide⟩⟩

theorem witness_LocalStores :
    (∃ a, storeForm (.st 2 1 2 2) (at1 0xFFFFFF000000FFF4) = some a ∧ (Instr.st 2 1 2 2).wf = true ∧
      Memory.wf (at1 0xFFFFFF000000FFF4).mem = true ∧ MayIssue (at1 0xFFFFFF000000FFF4) a ∧ a.va % a.size = 0 ∧
      spaceOf a.va = .ls 65532 ∧ ∀ b ∈ (at1 0xFFFFFF000000FFF4).accs, b.st ≠ .waiting) ∧
    (∃ a, storeForm (.stf 2 1 2 1) fullWord = some a ∧ a.kind = .stf ∧ a.rel = true ∧ MayIssue fullWord a ∧ spaceOf a.va = .ls 0) ∧
    (∃ a, storeForm (.amoaddNr 2 1 0 0 0) fullWord = some a ∧ MayIssue fullWord a ∧ spaceOf a.va = .ls 0) := by
  refine ⟨⟨_, rfl, by decide, by decide, mayIssue _ _ (by decide) (by decide) (by decide) (by decide) (by decide) (by decide), by decide⟩,
    ⟨_, rfl, by decide, by decide, mayIssue _ _ (by decide) (by decide) (by decide) (by decide) (by decide) (by decide), by decide⟩,
    ⟨_, rfl, mayIssue _ _ (by decide) (by decide) (by decide) (by decide) (by decide) (by decide), by decide⟩⟩

/-- The first 64 KiB of the address space cached at abutment 0 for ASID 0, at frame 5. -/
def page : Xl := { lo := 0, size := 65536, pa := 0x50000, rd := true, w := true, x := true }
def mapped : State := { at1 0x8 with xls := [page] }

theorem witness_GlobalIssue :
    (∃ a, loadForm (.ldx 8 1 3 15) mapped = some (8, 15, 0, a) ∧ (Instr.ldx 8 1 3 15).wf = true ∧ MayIssue mapped a ∧ a.va % a.size = 0 ∧
      spaceOf a.va = .global ∧ Cached mapped a.va page ∧ a.kind.need.ok page = true ∧ a.kind.badAt (page.at a.va) = false ∧
      mapped.moving (page.at a.va) = false ∧
      (mapped.watchedAt (page.at a.va) = true → mapped.acqDue mapped.curH mapped.curSlot = false) ∧ mapped.cc.clkEx = false ∧
      mapped.cur.openG 8 = false ∧ mapped.cur.pend.length < 4) ∧
    (∃ a, storeForm (.strel 2 1 2 3) mapped = some a ∧ (Instr.strel 2 1 2 3).wf = true ∧ MayIssue mapped a ∧ a.rel = true ∧
      mapped.cc.clockEx = false ∧ Cached mapped a.va page ∧ a.kind.need.ok page = true ∧ a.strong = true) := by
  unfold Cached
  refine ⟨⟨_, rfl, by decide, mayIssue _ _ (by decide) (by decide) (by decide) (by decide) (by decide) (by decide), by decide⟩,
    ⟨_, rfl, by decide, mayIssue _ _ (by decide) (by decide) (by decide) (by decide) (by decide) (by decide), by decide⟩⟩

theorem witness_MisalignedAccess :
    (∃ a, loadForm (.ldu 8 1 1 0 0) (at1 1) = some (8, 0, 0, a) ∧ (Instr.ldu 8 1 1 0 0).wf = true ∧ a.va % a.size ≠ 0 ∧
      (at1 1).cur.openG 8 = false) ∧
    (∃ a, loadForm (.ldx 8 1 3 0) (user opened) = some (8, 0, 0, a) ∧ a.va % a.size ≠ 0 ∧ (user opened).cur.openG 8 = true) ∧
    (∃ a, storeForm (.stx 2 1 3) (at1 7) = some a ∧ (Instr.stx 2 1 3).wf = true ∧ a.va % a.size ≠ 0) := by
  refine ⟨⟨_, rfl, by decide⟩, ⟨_, rfl, by decide⟩, ⟨_, rfl, by decide⟩⟩

/-- A thread with one closing window. -/
def closing (e : Pend) : State := user { regs [] with pend := [e] }

theorem witness_WindowClose :
    ((closing { dest := .scalar 8, value := 0xFF, sx := 8 }).cur.pend = [{ dest := .scalar 8, value := 0xFF, sx := 8 }] ∧
      (closing { dest := .vector 3, value := 5 }).cur.pend = [{ dest := .vector 3, value := 5 }] ∧
      (closing { dest := .ident 63, value := 5 }).cur.pend = [{ dest := .ident 63, value := 5 }]) ∧
    (closing { dest := .scalar 8, fault := some (.kernel 8 16) }).cur.pend =
      [{ dest := .scalar 8, fault := some (.kernel 8 16) }] := by decide

/-- A store in flight of the thread, at scope `.core`. -/
def storing : State := { at1 0 with accs := [{ id := 5, kind := .store, size := 8 }] }

theorem witness_Fences :
    FenceDone (at1 0) 2 (fun _ => true) ∧ FenceDone (at1 0) 4 AccKind.loads ∧
    (FenceDone (user { regs [] with wait := .tokens 1 [] }) 4 AccKind.stores) ∧
    (storing.reachedAll storing.curH storing.curSlot 2 AccKind.stores = false) ∧
    ((at1 0).slogPending (at1 0).curH (at1 0).curSlot = false ∧ (at1 0).reachedAll (at1 0).curH (at1 0).curSlot 3 AccKind.loads = true ∧
      (at1 0).cur.wait = .none) ∧
    FaultWaits (user { regs [] with pend := [{ fault := some (.kernel 1 0), retry := [{ kind := .load }] }] }) AccKind.loads
      { fault := some (.kernel 1 0), retry := [{ kind := .load }] } := by
  refine ⟨⟨by decide, by decide, .inl (by decide)⟩, ⟨by decide, by decide, .inr (.inl (by decide))⟩,
    ⟨by decide, by decide, .inr (.inr ⟨1, by decide⟩)⟩, by decide, by decide, .inl (by decide)⟩

/-- A thread of a share alone in its launch. -/
def sharer (t : Thread) : State := user { t with role := .group 0 0 } { share := some { q := 1, lhead := 2, l := 1, phase := 1 } }

theorem witness_Barriers :
    ((sharer (regs [])).levelOk 0 = true ∧ (sharer (regs [])).cur.arrivedAt 0 = false ∧
      FenceDone (sharer (regs [])) ((sharer (regs [])).barScope 0) (fun _ => true) ∧ (sharer (regs [])).cc.clockEx = false ∧ (sharer (regs [])).relWaits = false) ∧
    ((sharer (regs [])).levelOk 1 = true ∧ (sharer (regs [])).genLevelOk 2 = true ∧ (sharer (regs [])).cur.wait ≠ .arrived ∧
      FenceDone (sharer (regs [])) ((sharer (regs [])).barScope 1) (fun _ => true)) ∧
    ((sharer { regs [] with wait := .arrived }).levelOk 2 = true ∧ (sharer { regs [] with wait := .arrived }).cur.wait = .arrived ∧
      (sharer { regs [] with wait := .arrived }).cur.arrivedAt 2 = false) ∧
    ((sharer { regs [] with arrivals := [{ level := 2 }] }).cur.arrivedAt 2 = true ∧ (sharer { regs [] with arrivals := [{ level := 2 }] }).levelOk 2 = true ∧
      (sharer { regs [] with arrivals := [{ level := 2 }] }).genLevelOk 2 = true) ∧
    ((sharer { regs [] with pend := [{ chan := some 1, missing := 1 }] }).relWaits = true ∧
      (sharer { regs [] with pend := [{ chan := some 1, missing := 1 }] }).levelOk 2 = true ∧
      (sharer { regs [] with pend := [{ chan := some 1, missing := 1 }] }).genLevelOk 2 = true ∧
      (sharer { regs [] with pend := [{ chan := some 1, missing := 1 }] }).cur.wait ≠ .arrived) ∧
    ((sharer (regs [])).levelOk 6 = false ∧ (sharer (regs [])).genLevelOk 0 = false) := by
  refine ⟨⟨by decide, by decide, ⟨by decide, by decide, .inl (by decide)⟩, by decide⟩,
    ⟨by decide, by decide, by decide, ⟨by decide, by decide, .inl (by decide)⟩⟩, by decide⟩

theorem witness_ReadSynchronisationClock :
    (31 < 32 ∧ (at1 0).cur.openG 31 = false ∧ (at1 0).cc.clkEx = false ∧ (at1 0).cc.sclk + 1 ≠ 0xFFFFFF) ∧
    (user (regs []) { sclk := 0xFFFFFE }).cc.sclk + 1 = 0xFFFFFF := by decide

/-! ### Chapter 15 -/

/-- Core 0 sends to slot 3, channel 7 of its own share, which holds `l` and waits with `o`. -/
def sender (l o : List Msg) (n : Nat) : State :=
  let s := sharer { regs [(1, 0x730000)] with offer := n }
  s.onCoreAt 0 fun c => c.setThr 3 { st := .active, role := .group 0 0, chans := [(7, l)], offers := [(7, o)] }

/-- Core 0 sends to slot 3, channel 7 of logical core 1, whose share on core 4 has not begun. -/
def earlySender : State :=
  { user { regs [(1, 0x730001)] with role := .group 0 0 } { share := some { q := 1, lhead := 2, l := 2, phase := 1 } } with
    launches := [{ q := 1, lhead := 2, members := [0, 4], where_ := [0, 4] }] }

theorem witness_SendMessage :
    ((sender [] [] 0).sendPlace ((sender [] [] 0).g 1) = some (.at 0) ∧ wbits ((sender [] [] 0).g 1) 17 16 = 3 ∧
      wbits ((sender [] [] 0).g 1) 22 20 = 7 ∧ (sender [] [] 0).cc.clockEx = false ∧ (sender [] [] 0).cur.offer = 0 ∧
      FenceDone (sender [] [] 0) (scopeOf (sender [] [] 0).curH 0) (fun _ => true) ∧
      ((sender [] [] 0).thr 0 3).offers.val 7 [] = [] ∧ NoTaker ((sender [] [] 0).thr 0 3) 7 ∧
      (((sender [] [] 0).thr 0 3).chans.val 7 []).length < 4) ∧ (sender [] [] 0).relWaits = false ∧
    4 ≤ (((sender [{}, {}, {}, {}] [] 0).thr 0 3).chans.val 7 []).length ∧
    ((sender [] [] 9).sendPlace ((sender [] [] 9).g 1) = some (.at 0) ∧ (sender [] [] 9).cur.offer ≠ 0) ∧
    (earlySender.cc.share = some { q := 1, lhead := 2, l := 2, phase := 1 } ∧
      earlySender.sendPlace (earlySender.g 1) = some (.early 4) ∧ earlySender.relWaits = false ∧ earlySender.cc.clockEx = false ∧ earlySender.cur.offer = 0 ∧
      FenceDone earlySender (scopeOf earlySender.curH 4) (fun _ => true)) ∧
    ((at1 0).sendPlace ((at1 0).g 1) = none ∧
      (sharer { regs [(1, 0x730000)] with pend := [{ chan := some 1, missing := 1 }] }).relWaits = true ∧
      (((sender [] [] 0).onCoreAt 0 fun c => { c with clkEx := true }).sendPlace (((sender [] [] 0).onCoreAt 0 fun c => { c with clkEx := true }).g 1)
        = some (.at 0) ∧ ((sender [] [] 0).onCoreAt 0 fun c => { c with clkEx := true }).cc.clockEx = true)) := by
  refine ⟨⟨by decide, by decide, by decide, by decide, by decide, ⟨by decide, by decide, .inl (by decide)⟩, by decide, ?_, by decide⟩,
    by decide, by decide, by decide,
    ⟨by decide, by decide, by decide, by decide, by decide, ⟨by decide, by decide, .inl (by decide)⟩⟩, by decide⟩
  unfold NoTaker; decide

/-- A thread whose channel 7 holds the messages. -/
def receiver (l : List Msg) : State := user { regs [] with chans := [(7, l)] } { sclk := 4 }

theorem witness_ReceiveMessage :
    (31 < 32 ∧ 7 < 8 ∧ 15 < 16 ∧ (receiver []).cur.openG 31 = false ∧ (receiver []).cur.pend.length < 4 ∧ NoTaker (receiver []).cur 7 ∧
      (receiver []).cur.chans.val 7 [] = []) ∧
    ((receiver [{ payload := 5, clk := 9 }]).cur.chans.val 7 [] = { payload := 5, clk := 9 } :: [] ∧
      NoTaker (receiver [{ payload := 5, clk := 9 }]).cur 7 ∧ false = (receiver [{ payload := 5, clk := 9 }]).cc.nxm) ∧
    ((receiver [{ nxm := true }]).cur.chans.val 7 [] = { nxm := true } :: [] ∧ true ≠ (receiver [{ nxm := true }]).cc.nxm ∧
      (receiver [{ nxm := true }]).cur.supp = false) ∧
    (user { regs [] with chans := [(7, [{ nxm := true }])], supp := true }).cur.supp = true := by
  unfold NoTaker; decide

theorem witness_PairMerge : 31 < 32 ∧ (at1 0).cur.openG 31 = false := by decide

/-- w1 names a copy descriptor at the start of the local store. -/
def copier (tag src : Nat) (cs : List Copy) : State :=
  ((user (regs [(1, 0xFFFFFF0000000000)]) { copies := cs }).wrN (lsLoc 0 0) 64
    (mkRec [(0, 8, src), (8, 8, 0xFFFFFF0000000100), (16, 4, 1), (20, 4, 4), (24, 4, 4), (28, 4, 4), (32, 1, tag)]))

/-- The descriptor as read. -/
def copyDesc (tag src : Nat) : Nat :=
  mkRec [(0, 8, src), (8, 8, 0xFFFFFF0000000100), (16, 4, 1), (20, 4, 4), (24, 4, 4), (28, 4, 4), (32, 1, tag)]

/-- The access that reads the descriptor. -/
def descAcc (s : State) : Acc := s.accOf (s.g 1).toNat 64 .load

set_option maxRecDepth 4000 in
theorem witness_StartCopy :
    ((copier 63 0xFFFFFF0000000200 []).accReady = true ∧ (copier 63 0xFFFFFF0000000200 []).cur.wait = .none ∧
      (copier 63 0xFFFFFF0000000200 []).loadHeld (descAcc (copier 63 0xFFFFFF0000000200 [])) = false ∧
      (copier 63 0xFFFFFF0000000200 []).dqOwn ((copier 63 0xFFFFFF0000000200 []).g 1).toNat 64 = false ∧
      ((copier 63 0xFFFFFF0000000200 []).g 1).toNat % 64 = 0 ∧
      (∀ f ∈ [(0, 8), (8, 8), (20, 4), (24, 4), (28, 4)], recField (copyDesc 63 0xFFFFFF0000000200) f.1 f.2 % 4 = 0) ∧
      ∃ s1, (copier 63 0xFFFFFF0000000200 []).accessNow (descAcc (copier 63 0xFFFFFF0000000200 [])) =
          .ok s1 (.value (copyDesc 63 0xFFFFFF0000000200)) ∧
        s1.copyOk (descAcc (copier 63 0xFFFFFF0000000200 [])) (copyDesc 63 0xFFFFFF0000000200) false = true ∧
        s1.cc.copies.length < 8 ∧ (∀ c ∈ s1.cc.copies, c.tag ≠ recField (copyDesc 63 0xFFFFFF0000000200) 32 1) ∧
        s1.slogPending s1.curH s1.curSlot = false ∧
        s1.copyHeld (descAcc (copier 63 0xFFFFFF0000000200 [])) (copyDesc 63 0xFFFFFF0000000200) = false) ∧
    (spaceOf ((copier 63 0xFFFFFF0000000200 []).g 1).toNat = .ls 0 ∧
      (copier 63 0xFFFFFF0000000200 []).rdN (lsLoc 0 0) 64 = copyDesc 63 0xFFFFFF0000000200 ∧
      (copier 63 0xFFFFFF0000000200 []).copyOk (descAcc (copier 63 0xFFFFFF0000000200 [])) (copyDesc 63 0xFFFFFF0000000200) false = true) ∧
    (∃ s1, (copier 63 0xFFFFFF0000000200 [{ tag := 63 }]).accessNow (descAcc (copier 63 0xFFFFFF0000000200 [{ tag := 63 }])) =
          .ok s1 (.value (copyDesc 63 0xFFFFFF0000000200)) ∧
        s1.copyOk (descAcc (copier 63 0xFFFFFF0000000200 [{ tag := 63 }])) (copyDesc 63 0xFFFFFF0000000200) false = true ∧
        ∃ c ∈ s1.cc.copies, c.tag = recField (copyDesc 63 0xFFFFFF0000000200) 32 1) ∧
    (∃ s1, (copier 64 0xFFFFFF0000000200 []).accessNow (descAcc (copier 64 0xFFFFFF0000000200 [])) =
          .ok s1 (.value (copyDesc 64 0xFFFFFF0000000200)) ∧
        s1.copyOk (descAcc (copier 64 0xFFFFFF0000000200 [])) (copyDesc 64 0xFFFFFF0000000200) false = false) ∧
    (∃ s1, (copier 0 0xFFFFFF0000000202 []).accessNow (descAcc (copier 0 0xFFFFFF0000000202 [])) =
          .ok s1 (.value (copyDesc 0 0xFFFFFF0000000202)) ∧
        ∃ f ∈ [(0, 8), (8, 8), (20, 4), (24, 4), (28, 4)], recField (copyDesc 0 0xFFFFFF0000000202) f.1 f.2 % 4 ≠ 0) ∧
    ((at1 0xFFFFFF0000000020).g 1).toNat % 64 ≠ 0 ∧
    ((user { regs [(1, 0)] with wait := .desc (copyDesc 63 0xFFFFFF0000000200) }).cur.wait = .desc (copyDesc 63 0xFFFFFF0000000200) ∧
      ((user { regs [(1, 0)] with wait := .desc (copyDesc 63 0xFFFFFF0000000200) }).g 1).toNat % 64 = 0) := by
  refine ⟨⟨by decide, by decide, by decide, by decide, by decide, by decide, _, rfl, by decide⟩, by decide, ⟨_, rfl, by decide⟩, ⟨_, rfl, by decide⟩,
    ⟨_, rfl, by decide⟩, by decide⟩

theorem witness_PermitAndTags :
    ((31 < 32 ∧ (at1 0x1000000000).cur.openG 31 = false ∧ 0 = ((at1 0x1000000000).g 1).toNat % 65536) ∧
      (4 = ((at1 0xFFFC0004).g 1).toNat % 65536 ∧ 65532 = ((at1 0xFFFC0004).g 1).toNat / 65536 % 131072 ∧ 4 + 65532 ≤ 65536) ∧
      (((at1 0x20002).g 1).toNat % 65536 % 4 ≠ 0) ∧ (65536 < ((at1 0xFFFC0008).g 1).toNat % 65536 + ((at1 0xFFFC0008).g 1).toNat / 65536 % 131072)) ∧
    ((at1 0).g 1 = 0 ∧ (user (regs [(1, 5)]) { ctag := 4 }).cc.ctag &&& (user (regs [(1, 5)]) { ctag := 4 }).g 1 ≠ 0 ∧
      (user (regs [(1, 5)]) { ctag := 7 }).cc.ctag &&& (user (regs [(1, 5)]) { ctag := 7 }).g 1 = (user (regs [(1, 5)]) { ctag := 7 }).g 1 ∧
      ((user (regs [(1, 5)])).g 1 ≠ 0 ∧ (user (regs [(1, 5)])).cc.ctag &&& (user (regs [(1, 5)])).g 1 = 0) ∧
      (user (regs [(1, 5)]) { ctag := 4 }).cc.ctag &&& (user (regs [(1, 5)]) { ctag := 4 }).g 1 ≠ (user (regs [(1, 5)]) { ctag := 4 }).g 1) ∧
    (((user (regs [(1, 5)])).onCoreAt 0 fun c => c.setThr 3 { wait := .waitSince 0 5 1 1 false }).thr 0 3).wait = .waitSince 0 5 1 1 false := by
  decide

/-! ### Chapters 16 and 17 -/

/-- A thread with v3 and p1, and w1 at the last doublewords of the local store. -/
def lanes (pend : List Pend) : State :=
  user { regs [(1, 0xFFFFFF000000FF00), (2, 8)] with v := [(3, 0x80000005)], p := [(1, 0xF0)], pend := pend }

theorem witness_VectorIntegerLanes :
    (Instr.vaddSat 31 3 3 1 1 2).wf = true ∧
    (∃ f, vecResult (.vaddSat 31 3 3 1 1 2) (lanes []) = some (31, 4, 4, 1, 1, f)) ∧ (lanes []).cur.openV 31 = false ∧
    (∃ f, vecResult (.vmov16 3 3 1) (lanes [{ dest := .vector 3 }]) = some (3, 2, 1, 1, 0, f)) ∧
    (lanes [{ dest := .vector 3 }]).cur.openV 3 = true ∧ (Instr.vsel 31 3 3 7 3).wf = true := by
  refine ⟨by decide, ⟨_, rfl⟩, by decide, ⟨_, rfl⟩, by decide, by decide⟩

/-- The span has nothing to do for the quad of the thread. -/
theorem spanFree : SpanFree (lanes []) := by
  refine ⟨fun h _ => ?_, by decide, by decide, by decide⟩
  cases h <;> rfl

theorem witness_VectorFloatLanes :
    ((Instr.vfma 4 5 6 0 0 2 1 1).wf = true ∧ (∃ f, fpLanes (.vfma 4 5 6 0 0 2 1 1) (lanes []) = some (4, 4, 4, 0, 0, f)) ∧
      (lanes []).cur.openV 4 = false ∧ (lanes []).cc.dq.length < 8 ∧ SpanFree (lanes [])) ∧
    8 ≤ (user (regs []) { dq := List.replicate 8 { i := .trece } }).cc.dq.length ∧
    (∃ f, fpLanes (.vfmul16 3 3 1) (lanes [{ dest := .vector 3 }]) = some (3, 2, 4, 1, 0, f)) ∧
      (lanes [{ dest := .vector 3 }]).cur.openV 3 = true := by
  refine ⟨⟨by decide, ⟨_, rfl⟩, by decide, by decide, spanFree⟩, by decide, ⟨_, rfl⟩, by decide⟩

theorem witness_VectorPredicates :
    ((Instr.vcmpLtu 0 3 3 1 1 3).wf = true ∧ ∃ f, predResult (.vcmpLtu 0 3 3 1 1 3) (lanes []) = some (0, 8, 1, 1, f)) ∧
    ((Instr.pfirst 7 1 2).wf = true ∧ ∃ f, predResult (.pfirst 7 1 2) (lanes []) = some (7, 4, 0, 0, f)) ∧
    ((Instr.vfcmpUn 7 3 3 1 1 2).wf = true ∧ (∃ f, fpPreds (.vfcmpUn 7 3 3 1 1 2) (lanes []) = some (7, 4, 1, 1, f)) ∧
      (lanes []).cc.dq.length < 8 ∧ SpanFree (lanes [])) := by
  refine ⟨⟨by decide, _, rfl⟩, ⟨by decide, _, rfl⟩, by decide, ⟨_, rfl⟩, by decide, spanFree⟩

theorem witness_VectorScalarResults :
    ((Instr.vqlen 31).wf = true ∧ vecScalar (.vqlen 31) (lanes []) = some (31, 256) ∧ (lanes []).cur.openG 31 = false) ∧
    ((Instr.vext 8 3 1 2).wf = true ∧ vecScalar (.vext 8 3 1 2) (lanes [{ dest := .scalar 8 }]) = some (8, 0) ∧
      (lanes [{ dest := .scalar 8 }]).cur.openG 8 = true) := by decide

theorem witness_VectorConvert : (Instr.vcvt 7 3 8 1 1 1 2 2).wf = true ∧
    (cfmt (lanes []).cc.nxm 2).width / 8 = 2 ∧ (cfmt (lanes []).cc.nxm 8).width / 8 = 1 ∧ (lanes []).cur.openV 7 = false ∧
    (lanes []).cc.dq.length < 8 ∧ SpanFree (lanes []) := ⟨by decide, by decide, by decide, by decide, by decide, spanFree⟩

theorem witness_VectorDispatch :
    ((Instr.vdot 31 3 3 7 1 15).wf = true ∧ (∃ a b f st, Instr.vdot 31 3 3 7 1 15 = .vdot 31 a b f st 15) ∧
      (lanes []).cur.openV 31 = false ∧ (lanes []).cur.pend.length < 4 ∧ (lanes []).cc.dq.length < 8 ∧ SpanFree (lanes []) ∧ (lanes []).accs = [] ∧
      ((lanes []).quad ((lanes []).curH / 4)).sfq = []) ∧
    ((Instr.vsfn 31 3 7 1 1 1 0).wf = true ∧ ∃ a f p z t, Instr.vsfn 31 3 7 1 1 1 0 = .vsfn 31 a f p z t 0) ∧
    ((Instr.vclmul 31 3 3 1 0).wf = true ∧ ∃ a b h, Instr.vclmul 31 3 3 1 0 = .vclmul 31 a b h 0) ∧
    ((lanes [{}, {}, {}, {}]).cur.openV 31 = false ∧ 4 ≤ (lanes [{}, {}, {}, {}]).cur.pend.length) ∧
    (lanes [{ dest := .vector 31 }]).cur.openV 31 = true := by
  refine ⟨⟨by decide, ⟨_, _, _, _, rfl⟩, by decide, by decide, by decide, spanFree, by decide, by decide⟩, ⟨by decide, _, _, _, _, _, rfl⟩, ⟨by decide, _, _, _, rfl⟩, by decide⟩

theorem witness_VectorLoads :
    ((Instr.vld 31 1 0 0 3 15).wf = true ∧
      (∃ f, vecLoadForm (.vld 31 1 0 0 3 15) (lanes []) = some (31, 0, 0, 3, 15, f) ∧
        ∀ k, k < 256 / 2 ^ 3 → Active (lanes []) 0 (2 ^ 3) k = true → f k % 2 ^ 3 = 0 ∧ ∃ o, spaceOf (f k) = .ls o) ∧
      (lanes []).cur.openV 31 = false ∧ (lanes []).accReady = true ∧ (∀ e ∈ (lanes []).cur.pend, e.fault = none) ∧ (lanes []).cc.dq = [] ∧
      (lanes []).cc.slog = [] ∧ (lanes []).cc.slogHeld = [] ∧ (lanes []).cur.pend.length < 4) ∧
    (∃ f, vecLoadForm (.vld 31 2 1 1 2 0) (user { regs [(2, 9)] with p := [(1, 0xF0)] }) = some (31, 1, 1, 2, 0, f) ∧
      1 < 256 / 2 ^ 2 ∧ Active (user { regs [(2, 9)] with p := [(1, 0xF0)] }) 1 (2 ^ 2) 1 = true ∧ f 1 % 2 ^ 2 ≠ 0 ∧
      ∀ j, j < 256 / 2 ^ 2 → Active (user { regs [(2, 9)] with p := [(1, 0xF0)] }) 1 (2 ^ 2) j = true → f j % 2 ^ 2 ≠ 0 → f 1 ≤ f j) := by
  refine ⟨⟨by decide, ⟨_, rfl, ?_⟩, by decide⟩, ⟨_, rfl, by decide⟩⟩
  have h : ∀ k, k < 256 / 2 ^ 3 → (((lanes []).g 1).toNat + k * 2 ^ 3) % 2 ^ 64 % 2 ^ 3 = 0 ∧
    spaceOf ((((lanes []).g 1).toNat + k * 2 ^ 3) % 2 ^ 64) = .ls (0xFF00 + 8 * k) := by decide
  exact fun k hk _ => ⟨(h k hk).1, _, (h k hk).2⟩

theorem witness_VectorStores :
    ((Instr.vst 3 1 0 3).wf = true ∧ Memory.wf (lanes []).mem = true ∧
      (∃ f, vecStoreForm (.vst 3 1 0 3) (lanes []) = some (3, 0, 3, f) ∧
        ∀ k, k < 256 / 2 ^ 3 → Active (lanes []) 0 (2 ^ 3) k = true → f k % 2 ^ 3 = 0 ∧ ∃ o, spaceOf (f k) = .ls o) ∧
      (lanes []).accReady = true ∧ (∀ e ∈ (lanes []).cur.pend, e.fault = none) ∧ (lanes []).cc.dq = [] ∧ (lanes []).cc.slog = [] ∧ (lanes []).cc.slogHeld = []) ∧
    (∃ f, vecStoreForm (.vsts 3 2 2 0 3) (user (regs [(2, 9)])) = some (3, 0, 3, f) ∧ f 0 % 2 ^ 3 ≠ 0 ∧
      ∀ j, j < 256 / 2 ^ 3 → f j % 2 ^ 3 ≠ 0 → f 0 ≤ f j) := by
  refine ⟨⟨by decide, by decide, ⟨_, rfl, ?_⟩, by decide⟩, ⟨_, rfl, by decide⟩⟩
  have h : ∀ k, k < 256 / 2 ^ 3 → (((lanes []).g 1).toNat + k * 2 ^ 3) % 2 ^ 64 % 2 ^ 3 = 0 ∧
    spaceOf ((((lanes []).g 1).toNat + k * 2 ^ 3) % 2 ^ 64) = .ls (0xFF00 + 8 * k) := by decide
  exact fun k hk _ => ⟨(h k hk).1, _, (h k hk).2⟩

/-! ### Chapters 18 and 19 -/

/-- An FP32 tensor of one row and column at an address. -/
def tensor (base rows cols : Nat) : Nat := mkRec [(0, 8, base), (12, 2, rows), (14, 2, cols), (16, 4, 4)]

/-- A thread whose d63 names a tensor at 0x10000; d0 names none. -/
def tiler (fmt : Nat) (c : Core) : State :=
  user { regs [(1, 0xFFFFFF0000000000)] with d := [(63, BitVec.ofNat 512 (tensor 0x10000 1 1 + fmt * 256 ^ 8))] } c

/-- A core whose dispatch queue is full, and one in record mode with `n` bytes of its log left. -/
def busy : Core := { dq := List.replicate 8 { i := .trece } }
def recorder (n : Nat) : Core := { adjCtl := 1, adjBase := 0x1000, adjPtr := 0x1000, adjLimit := 0x1000 + BitVec.ofNat 64 n }

theorem tileOk_tadd (s : State) (h : s.identOk s.curH (s.cur.rdD 63).toNat = true)
    (h1 : idRows (captured s [63] 0) ≤ 64 ∧ idCols (captured s [63] 0) ≤ 64 ∧ idFmt (captured s [63] 0) ≠ 10 ∧
      idFmt (captured s [63] 0) ≠ 11) : TileOk s (.tadd 3 63 3 15) [63] := by
  refine ⟨?_, h1⟩
  intro k hk; simp only [List.mem_singleton] at hk; subst hk; exact h

theorem witness_TileIssue :
    (tileOperands (.tadd 3 63 3 15) = some (15, [63]) ∧ (∀ n, storeDest (.tadd 3 63 3 15) = some n → (tiler 0 {}).cur.openD n = false) ∧
      TileOk (tiler 0 {}) (.tadd 3 63 3 15) [63] ∧ (tiler 0 {}).cc.recording = false ∧ (tiler 0 {}).spanBusy = false) ∧
    (TileOk (tiler 0 busy) (.tadd 3 63 3 15) [63] ∧ (tiler 0 busy).cc.recording = false ∧ (tiler 0 busy).spanBusy = true ∧
      ∀ e ∈ (tiler 0 busy).cc.dq, e.faulted = false) ∧
    (tileOperands (.tst 3 0 1 2 0) = some (0, [0]) ∧ (∀ n, storeDest (.tst 3 0 1 2 0) = some n → (tiler 0 {}).cur.openD n = false) ∧
      ¬ TileOk (tiler 0 {}) (.tst 3 0 1 2 0) [0]) := by
  refine ⟨⟨rfl, (fun n h => nomatch h), tileOk_tadd _ (by decide +kernel) (by decide +kernel), by decide +kernel⟩,
    ⟨tileOk_tadd _ (by decide +kernel) (by decide +kernel), by decide +kernel⟩, rfl, ?_, ?_⟩
  · intro n h; injection h with h; subst h; decide +kernel
  · intro h; exact absurd (h.1 0 (by decide)) (by decide +kernel)

theorem witness_RecordReservation :
    (TileOk (tiler 0 (recorder 64)) (.tadd 3 63 3 15) [63] ∧ (tiler 0 (recorder 64)).cc.recording = true ∧
      notConstant (.tadd 3 63 3 15) (captured (tiler 0 (recorder 64)) [63] 0) (captured (tiler 0 (recorder 64)) [63] 1) = none ∧
      (tiler 0 (recorder 64)).cc.adjPtr.toNat +
        (32 + payloadBytes (.tadd 3 63 3 15) (captured (tiler 0 (recorder 64)) [63] 0) (captured (tiler 0 (recorder 64)) [63] 1)) ≤
        (tiler 0 (recorder 64)).cc.adjLimit.toNat ∧ (tiler 0 (recorder 64)).spanBusy = false) ∧
    ((tiler 0 (recorder 0)).cc.recording = true ∧ TileOk (tiler 0 (recorder 0)) (.tadd 3 63 3 15) [63] ∧
      (tiler 0 (recorder 0)).cc.adjLimit.toNat < (tiler 0 (recorder 0)).cc.adjPtr.toNat +
        (32 + payloadBytes (.tadd 3 63 3 15) (captured (tiler 0 (recorder 0)) [63] 0) (captured (tiler 0 (recorder 0)) [63] 1))) ∧
    (TileOk (tiler 0 (recorder 64)) (.tmmx 0 63 63 3 2 0) [63, 63] ∧
      notConstant (.tmmx 0 63 63 3 2 0) (captured (tiler 0 (recorder 64)) [63, 63] 0) (captured (tiler 0 (recorder 64)) [63, 63] 1) =
        some 2) := by
  refine ⟨⟨tileOk_tadd _ (by decide +kernel) (by decide +kernel), by decide +kernel⟩,
    ⟨by decide +kernel, tileOk_tadd _ (by decide +kernel) (by decide +kernel), by decide +kernel⟩, ⟨?_, ?_⟩, by decide +kernel⟩
  · intro k h; simp only [List.mem_cons, List.not_mem_nil, or_false, or_self] at h; subst h; decide +kernel
  · exact ⟨⟨by decide +kernel, by decide +kernel, by decide +kernel, by decide +kernel⟩, by decide +kernel, by decide +kernel⟩

theorem witness_IdentifierTransfers :
    (Memory.wf (tiler 0 {}).mem = true ∧ MayIssue (tiler 0 {}) {} ∧ (tiler 0 {}).cur.pend.length < 4 ∧
      spaceOf ((tiler 0 {}).g 1).toNat = .ls 0 ∧ ((tiler 0 {}).g 1).toNat % 64 = 0 ∧ (tiler 0 {}).cur.openD 63 = false ∧ (tiler 0 {}).cc.slog = [] ∧ (tiler 0 {}).cc.slogHeld = [] ∧
      ∀ j < 4, (tiler 0 {}).rdN (lsLoc (tiler 0 {}).curH 0) 8 / 2 ^ (16 * j + 12) % 16 ≤ 5 ∧
        (tiler 0 {}).rdN (lsLoc (tiler 0 {}).curH 0) 8 / 2 ^ (16 * j) % 64 = 0) ∧
    (user { regs [(1, 0xFFFFFF0000000000)] with pend := [{ dest := .ident 63 }] }).cur.openD 63 = true ∧
    (∃ j < 4, 5 < fullWord.rdN (lsLoc fullWord.curH 0) 8 / 2 ^ (16 * j + 12) % 16 ∨
      fullWord.rdN (lsLoc fullWord.curH 0) 8 / 2 ^ (16 * j) % 64 ≠ 0) ∧
    (((at1 0xFFFFFF0000000021).g 1).toNat % 64 ≠ 0 ∧ ((at1 0xFFFFFF0000000021).g 1).toNat % 8 ≠ 0 ∧
      spaceOf ((at1 0xFFFFFF0000000021).g 1).toNat = .ls 33) := by
  refine ⟨⟨by decide, mayIssue _ _ (by decide) (by decide) (by decide) (by decide) (by decide) (by decide), by decide⟩, by decide⟩

theorem witness_RecordMode :
    ((tiler 0 {}).cc.recording = false ∧ (tiler 0 {}).cc.adjBase.toNat ≤ (tiler 0 {}).cc.adjPtr.toNat ∧
      (tiler 0 {}).cc.adjPtr.toNat ≤ (tiler 0 {}).cc.adjLimit.toNat ∧ (tiler 0 {}).spanBusy = false ∧
      (tiler 0 {}).cur.openG 31 = false ∧ (tiler 0 {}).cc.logOpen = false) ∧
    ((tiler 0 { adjPtr := 32 }).cc.recording = false ∧ (tiler 0 { adjPtr := 32 }).cc.adjLimit.toNat < (tiler 0 { adjPtr := 32 }).cc.adjPtr.toNat) ∧
    ((tiler 0 (recorder 32)).cc.recording = true ∧ (tiler 0 (recorder 32)).cc.adjPtr.toNat + 32 ≤ (tiler 0 (recorder 32)).cc.adjLimit.toNat ∧
      (tiler 0 (recorder 32)).dqFull = false ∧ (tiler 0 (recorder 32)).accReady = true) ∧
    ((tiler 0 (recorder 0)).cc.recording = true ∧ (tiler 0 (recorder 0)).cc.adjLimit.toNat < (tiler 0 (recorder 0)).cc.adjPtr.toNat + 32) ∧
    ((tiler 0 { dq := [{ i := .tmark 1, args := [0, 0, 0, 1] }] }).cur.openG 31 = false ∧ (tiler 0 { dq := [{ i := .tmark 1, args := [0, 0, 0, 1] }] }).cc.logOpen = true ∧
      ∀ e ∈ (tiler 0 { dq := [{ i := .tmark 1, args := [0, 0, 0, 1] }] }).cc.dq, e.faulted = false) := by
  decide

/-- Core 0 with one dispatched entry. -/
def spanned (i : Instr) (t : Tile) : State :=
  given (user { regs [] with pend := [{ id := 1, dest := .tile, missing := 1 }] }
    { dq := [{ id := 3, ent := 1, i := i }], acc := [(0, t)] }) [0]

theorem witness_SpanExecutes :
    (∃ s1 a b t2 ws s2, Starts (spanned (.tzero 0 1 0) {}) 0 { id := 3, ent := 1, i := .tzero 0 1 0 } ∧
      (tileOpc (.tzero 0 1 0)).isSome = true ∧
      (served (spanned (.tzero 0 1 0) {}) 0).spanOperands 0 { id := 3, ent := 1, i := .tzero 0 1 0 } = (s1, .ok (a, b)) ∧
      tileEffect { id := 3, ent := 1, i := .tzero 0 1 0 } (tileOf s1 0 { id := 3, ent := 1, i := .tzero 0 1 0 }) (s1.core 0).uprog a b =
        some (t2, ws) ∧
      s1.spanWrites 0 { id := 3, ent := 1, i := .tzero 0 1 0 } (ws ++ (if DqEntry.recorded { id := 3, ent := 1, i := .tzero 0 1 0 } then
        tileRecord { id := 3, ent := 1, i := .tzero 0 1 0 } (tileOf s1 0 { id := 3, ent := 1, i := .tzero 0 1 0 }) a b else [])) =
        (s2, .ok ())) ∧
    (DqEntry.filler { id := 3, ent := 1, i := .tzero 0 1 0 } = false ∧ DqEntry.recorded { id := 3, ent := 1, i := .tzero 0 1 0 } = false ∧
      DqEntry.orphan { id := 3, ent := 1, i := .tzero 0 1 0 } = false ∧ storeDest (.tzero 0 1 0) = none ∧
      (∀ la ids, tileOperands (.tzero 0 1 0) = some (la, ids) → ids = []) ∧
      ∃ t2, tileEffect { id := 3, ent := 1, i := .tzero 0 1 0 } (tileOf (spanned (.tzero 0 1 0) {}) 0 { id := 3, ent := 1, i := .tzero 0 1 0 })
        ((spanned (.tzero 0 1 0) {}).core 0).uprog { id := 0 } { id := 0 } = some (t2, [])) ∧
    (∃ s1 a b, Starts (spanned (.tact 0 1 0) { int := true }) 0 { id := 3, ent := 1, i := .tact 0 1 0 } ∧
      (served (spanned (.tact 0 1 0) { int := true }) 0).spanOperands 0 { id := 3, ent := 1, i := .tact 0 1 0 } = (s1, .ok (a, b)) ∧
      tileEffect { id := 3, ent := 1, i := .tact 0 1 0 } (tileOf s1 0 { id := 3, ent := 1, i := .tact 0 1 0 }) (s1.core 0).uprog a b = none) := by
  refine ⟨⟨_, _, _, _, _, _, ⟨⟨[], [1, 2, 3], by decide, by decide⟩, by decide⟩, by decide, rfl, rfl, rfl⟩,
    ⟨by decide, by decide, by decide, by decide, ?_, _, rfl⟩, ⟨_, _, _, ⟨⟨[], [1, 2, 3], by decide, by decide⟩, by decide⟩, rfl, rfl⟩⟩
  intro la ids h; injection h with h; injection h with _ h; exact h.symm

theorem witness_TileResults :
    63 < 64 ∧ ({} : Tile).int = fmtInt (idFmt (tensor 0 1 1)) ∧ ({ int := true } : Tile).int = true ∧ 2 * 31 + 1 < 64 ∧
      63 < idRows (tensor 0 64 32) ∧ 31 < idCols (tensor 0 64 32) ∧ ¬ (63 < idRows (tensor 0 63 64) ∧ 63 < idCols (tensor 0 63 64)) := by
  decide

/-- A reverse run on core 0 over a log of one record at 0x1000, cached at frame 5. -/
def reversing (top : Word) (hdr : Nat) : State :=
  { (user (regs []) { dq := [revEntry], adjBase := 0x1000, adjLimit := 0x2000, adjPtr := top }).wrN 0x51000 32 hdr with
    xls := [page] }
where revEntry : DqEntry := { id := 3, i := .trev 0, args := List.replicate 64 0 }

theorem witness_SpanStops :
    (∃ s1 x, (user (regs []) { acc := [(0, { int := true })] }).spanForward 0 { ent := 1, i := .tact 0 1 0 } = (s1, .stop x)) ∧
    ((reversing 0x1000 0).core 0).adjPtr.toNat ≤ ((reversing 0x1000 0).core 0).adjBase.toNat ∧
    (∃ s1 r, ((reversing 0x1020 0xFF).adjStat 0 3 0 0).spanRead 0 reversing.revEntry (0x1020 - 32) 32 =
      (s1, .ok r) ∧ hInvalid r 32 = false ∧ recField r 0 1 = 0xFF) ∧
    (∃ s1 r, ((reversing 0x1020 0x7F).adjStat 0 3 0 0).spanRead 0 reversing.revEntry (0x1020 - 32) 32 =
      (s1, .ok r) ∧ hInvalid r 32 = true) ∧
    (∃ s1 r, ((reversing 0x1020 0xFE).adjStat 0 3 0 0).spanRead 0 reversing.revEntry (0x1020 - 32) 32 =
      (s1, .ok r) ∧ hInvalid r 32 = false ∧ recField r 0 1 = 0xFE) ∧
    (∃ s1 r, ((reversing 0x1020 (9 + 256 ^ 8)).adjStat 0 3 0 0).spanRead 0 reversing.revEntry (0x1020 - 32) 32 =
      (s1, .ok r) ∧ hInvalid r 32 = false ∧ recField r 0 1 < 0xFE ∧ needA r = true ∧ hFlA r ≠ 1 ∧
        ((reversing 0x1020 (9 + 256 ^ 8)).core 0).adjCtl.getLsbD 1 = false ∧
        idGen (reversing.revEntry.arg (recField r 4 1)) ≠ recField r 8 2) := by
  refine ⟨⟨_, _, rfl⟩, by decide, ⟨_, _, rfl, ?_⟩, ⟨_, _, rfl, ?_⟩, ⟨_, _, rfl, ?_⟩, ⟨_, _, rfl, ?_⟩⟩ <;> decide

theorem witness_Adjoints :
    63 < 64 ∧ hTagB (4 * 65536) = true ∧ hOpc (4 * 65536) ≤ 1 ∧ hOpc (8 + 4 * 65536) = 8 ∧ hOpc (9 + 4 * 65536) = 9 ∧
      hOpc (10 + 4 * 65536) = 10 ∧ hOpc (17 + 4 * 65536) = 17 ∧ hOpc (11 + 256) = 11 ∧ hXop (11 + 256) = 1 ∧
      0 < hN (64 * 256 ^ 14 + 4 * 65536) ∧ 63 < hM (64 * 256 ^ 13) ∧ 4095 < 4096 ∧ 8191 < 8192 ∧ hOpc (2 + 4 * 65536) = 2 ∧
      hOpc (3 + 4 * 65536) = 3 ∧ hOpc 4 = 4 ∧ hOpc 12 = 12 ∧ hOpc 16 = 16 ∧ hXop (11 + 0) = 0 ∧
      (hTagB (32 * 256 ^ 14 + 32 * 256 ^ 13) = false ∧ hOpc (32 * 256 ^ 14 + 32 * 256 ^ 13) ≤ 1 ∧
        hN (32 * 256 ^ 14 + 32 * 256 ^ 13) = 32 ∧ hM (32 * 256 ^ 14 + 32 * 256 ^ 13) = 32) ∧
      (hOpc (13 + 4 * 65536) = 13 ∧ decide (hXop (13 + 4 * 65536) % 2 = 0) = hTagB (13 + 4 * 65536)) ∧
      (gradA (17 + 128 * 256 ^ 6) = true ∧ gradA 17 = false) := by
  decide

/-! ### Chapter 20 -/

/-- A kernel thread whose `.sys` fence is done. -/
def fencedSys (l : List (Nat × Word)) : State := sys { regs l with wait := .tokens 1 [] }
theorem fenceDone (s : State) (sc : Nat) (h1 : s.slogPending s.curH s.curSlot = false)
    (h2 : s.reachedAll s.curH s.curSlot sc (fun _ => true) = true) (h3 : s.cur.wait = .tokens 1 []) :
    FenceDone s sc fun _ => true := ⟨h1, h2, .inr (.inr ⟨1, h3⟩)⟩

theorem witness_SpecialRegisterReads :
    (kernelOnly (.fquery 29 1) = true ∧ (user (regs [])).kernel = false) ∧ srLen 0x24 = none ∧
    (srLen 0x23 = some 1 ∧ (31 : Nat) ≠ 0) ∧ (srLen 0x40 = some 1 ∧ 0x40 ≤ 0x40 ∧ (user (regs [])).kernel = false) ∧
    (srLen 0x1E = some 4 ∧ 0x1E < 0x40 ∧ (user (regs [])).cur.openG 31 = false ∧ 4 ≤ ((user (regs [])).g 0 + BitVec.ofNat 64 4).toNat ∧
      ((user (regs [])).g 0 + BitVec.ofNat 64 3).toNat < 4) ∧ (srLen 0xE5 = some 32 ∧ (sys (regs [])).kernel = true) := by decide

theorem witness_SpecialRegisterWrites :
    (srLen 0x05 = some 1 ∧ WindowsClose (user (regs [])) (user (regs [])) ∧ (user (regs [])).kernel = false ∧
      0x05 ∉ [0x02, 0x03, 0x04, 0x06, 0x07, 0x10, 0x11, 0x12, 0x13, 0x19]) ∧
    (srLen 0x19 = some 1 ∧ ((user (regs [])).g 0 + BitVec.ofNat 64 0).toNat < 1 ∧
      0x19 ∈ [0x02, 0x03, 0x04, 0x06, 0x07, 0x10, 0x11, 0x12, 0x13, 0x19]) ∧
    (srLen 0x15 = some 1 ∧ srLen 0x1C = some 1 ∧ srLen 0x23 = some 1 ∧ WindowsClose (sys (regs [])) (sys (regs [])) ∧ (sys (regs [])).kernel = true) ∧
    (srLen 0xA8 = some 65536 ∧ plainRegister 0xA8 = some 0xFFFFFFFFFFFFFFFF ∧ WindowsClose (fencedSys []) (fencedSys []) ∧
      (fencedSys []).kernel = true ∧ FenceDone (fencedSys []) 4 (fun _ => true) ∧ ((fencedSys []).g 0 + BitVec.ofNat 64 31).toNat < 65536) ∧
    (srLen 0xA8 = some 65536 ∧ 65536 ≤ ((fencedSys [(1, 65536)]).g 1 + BitVec.ofNat 64 0).toNat ∧ (fencedSys [(1, 65536)]).kernel = true) := by
  refine ⟨⟨by decide, ⟨by decide, rfl⟩, by decide⟩, by decide, ⟨by decide, by decide, by decide, ⟨by decide, rfl⟩, by decide⟩,
    ⟨by decide, by decide, ⟨by decide, rfl⟩, by decide, fenceDone _ _ (by decide) (by decide) (by decide), by decide⟩, by decide⟩

theorem witness_TrapAndReturn :
    WindowsClose (user (regs [])) (user (regs [])) ∧ (user (regs [])).cur.trap.act = false ∧
    ((user { regs [] with trap := { act := true, pc := 1 } }).cur.trap.act = true ∧
      (user { regs [] with trap := { act := true, pc := 1 } }).cur.trap.pc.getLsbD 0 = true) ∧
    ((user { regs [] with trap := { act := true, pc := 2 } }).cur.trap.pc.getLsbD 0 = false ∧
      (user { regs [] with trap := { act := true, pc := 2 } }).cur.trap.ent = 0 ∧
      (user { regs [] with trap := { act := true, pc := 2 } }).cur.trap.pend.length +
        (user { regs [] with trap := { act := true, pc := 2 } }).cur.pend.length ≤ 4) ∧
    ((user { regs [] with trap := { act := true, pend := [{}, {}, {}] }, pend := [{}, {}] }).cur.trap.pc.getLsbD 0 = false ∧
      4 < (user { regs [] with trap := { act := true, pend := [{}, {}, {}] }, pend := [{}, {}] }).cur.trap.pend.length +
        (user { regs [] with trap := { act := true, pend := [{}, {}, {}] }, pend := [{}, {}] }).cur.pend.length) ∧
    ((user { regs [] with trap := { act := true, ent := 2, pend := [{}, { fault := some (.kernel 1 8), retry := [{}] }] } }).cur.trap.ent = 1 + 1 ∧
      (user { regs [] with trap := { act := true, ent := 2, pend := [{}, { fault := some (.kernel 1 8), retry := [{}] }] } }).cur.trap.pend[1]? =
        some { fault := some (.kernel 1 8), retry := [{}] }) := by
  refine ⟨⟨by decide, rfl⟩, by decide⟩

/-- The state with partition 0 enabled on cores 0 to 3, and core 0 running a share of it. -/
def parted : State :=
  (((sharer (regs [(1, 0x1000)])).setSr 0x88 0 0x8000000000000000).setSr 0x8A 0 4)

theorem witness_ThreadControl :
    (WindowsClose parted parted ∧ 31 < 32 ∧ parted.cur.st = .active ∧ parted.slogPending parted.curH parted.curSlot = false ∧
      parted.cc.haltEx parted.curSlot = false ∧ (parted.g 1).toNat % 4 = 0 ∧ parted.cc.freeSlot = some 1 ∧ 1 ≤ 2 ∧ 2 ≤ 6 ∧
      parted.cur.wait = .none ∧ parted.cc.gangBusy parted.curSlot = false ∧
      (∀ m ∈ parted.liveIn (2 ^ 2 * (parted.curH / 2 ^ 2), 2 ^ 2), parted.member parted.gangPart m = true) ∧
      parted.gangClash parted.curH (2 ^ 2) = false ∧ parted.cc.gang = none) ∧
    (user (regs []) { gang := some { slot := 0 } }).cc.gang = some { slot := 0 } ∧ ((at1 2).g 1).toNat % 4 ≠ 0 ∧ 6 < 7 ∧
    ((at1 5).cur.wait = .none ∧ (at1 5).cur.openG 31 = false ∧ WaitValue (at1 5) ((at1 5).dt (dieOf (at1 5).curH)) (at1 5).cc.ctag ((at1 5).g 1) 0 false) ∧
    (WaitValue (user { regs [] with chans := [(7, [{}])] }) 0 0 0 2 false) ∧
    ((user { regs [] with wait := .waitSince 0 0 31 0 true }).cur.wait = .waitSince 0 0 31 0 true ∧
      WaitValue (user { regs [] with wait := .waitSince 0 0 31 0 true } { ctag := 1 }) 0 0 0 5 true ∧
      WaitValue (user { regs [] with wait := .waitSince 0 0 31 0 false }) 0 0 0 0 false) ∧
    ((user (regs []) { gang := some { slot := 0 } }).cc.gangBusy 0 = true ∧
      ((user (regs [])).onCoreAt 1 fun c => c.setThr 0 { wait := .gang 4 }).gangClash 0 2 = true ∧
      ((parted.setSr 0x8A 0 1).cur.wait = .none ∧ (parted.setSr 0x8A 0 1).cc.gangBusy 0 = false ∧ (parted.setSr 0x8A 0 1).gangClash 0 4 = false ∧
        3 ∈ (parted.setSr 0x8A 0 1).liveIn (2 ^ 2 * ((parted.setSr 0x8A 0 1).curH / 2 ^ 2), 2 ^ 2) ∧
        (parted.setSr 0x8A 0 1).member (parted.setSr 0x8A 0 1).gangPart 3 = false)) := by
  refine ⟨⟨⟨by decide, rfl⟩, by decide⟩, by decide, by decide, by decide, ⟨by decide, by decide, ?_⟩, ?_, ⟨by decide, ?_, ?_⟩, by decide⟩ <;>
    (unfold WaitValue; decide)

/-- A kernel thread beside core 0, whose slot 3 is in the state `st`. -/
def beside (l : List (Nat × Word)) (st : SlotSt) : State :=
  (fencedSys l).onCoreAt 0 fun c => c.setThr 3 { st := st }

/-- Core 0 in partition 0, whose core 1 is fused off. -/
def fusedOff : State :=
  (((beside [] .free).setSr 0x88 0 0x8000000000000000).setSr 0x8A 0 4).setSr 0x20 (mapPlace 1).1
    (((beside [] .free).srv 0x20 (mapPlace 1).1) &&& ~~~(BitVec.ofNat 64 (2 ^ (mapPlace 1).2)))

/-- The thread beside core 0 names slot 3 of it for REPLACE; core 0 is a member of a partition, or in none. -/
def replacing (len : Word) : State :=
  (((beside [(1, 0x3030000)] (.parked 8)).setSr 0x88 0 0x8000000000000000).setSr 0x8A 0 len)

theorem witness_MaintenanceUser :
    ((user (regs [])).kernel = false ∧ ixIonly ((user (regs [])).g 2) = false) ∧
    (ixIonly ((user (regs [(2, 0x40000)])).g 2) = true ∧ wbits ((user (regs [(2, 0x40000)])).g 2) 15 0 =
        (user (regs [(2, 0x40000)])).asidOf 0 0 ∧ (user (regs [(2, 0x40000)])).cur.openG 31 = false ∧
      ixBad ((user (regs [(2, 0x40000)])).g 1) ((user (regs [(2, 0x40000)])).g 2) = false ∧ (user (regs [(2, 0x40000)])).cur.wait = .none) ∧
    ((user opened).cur.openG 8 = true) ∧
    (({ sys (regs [(2, 0x20000)]) with accs := [{ id := 5, st := .waiting }] } : State).cur.wait = .none ∧
      ixWaits ((sys (regs [(2, 0x20000)])).g 2) { id := 5, st := .waiting } = true) := by decide

theorem witness_MaintenanceCores :
    (fusedOff.partOf 0 = some 0 ∧ fusedOff.member 0 0 = true ∧ (∀ m < 4, m < 0 → fusedOff.member 0 m = false) ∧
      fusedOff.partOf 1 = some 0 ∧ fusedOff.live 1 = false) ∧
    (((replacing 4).g 1).toNat / 2 ^ 24 % 4 = 3 ∧ ((replacing 4).thr 0 3).st = .parked 8 ∧ (replacing 4).exclWaits 0 = false ∧
      (replacing 4).partOf 0 = some 0 ∧ (replacing 4).excl 0 = false ∧ 0 ∉ (replacing 4).exclBusy ∧ ((replacing 4).part 0).resizing = false ∧
      (replacing 4).member 0 0 = true ∧ (replacing 0).partOf 0 = none ∧ ((replacing 4).core 0).retain = none ∧
      (((replacing 4).setSr 0x20 (mapPlace 0).1 0).partOf 0 = some 0 ∧ ((replacing 4).setSr 0x20 (mapPlace 0).1 0).member 0 0 = false)) := by
  decide

theorem witness_Maintenance :
    (31 < 32 ∧ (sys (regs [(1, 1)])).cur.openG 31 = false ∧ (sys (regs [(1, 1)])).kernel = true ∧
      ixBad ((sys (regs [(1, 1)])).g 1) ((sys (regs [(1, 1)])).g 2) = true) ∧
    (ixBad ((sys (regs [(2, 0x20000)])).g 1) ((sys (regs [(2, 0x20000)])).g 2) = false ∧ (sys (regs [(2, 0x20000)])).cur.wait = .none ∧
      (∀ c ∈ (sys (regs [(2, 0x20000)])).accs, ixWaits ((sys (regs [(2, 0x20000)])).g 2) c = false) ∧
      ∀ p ∈ (sys (regs [(2, 0x20000)])).cores, p.2.slog = [] ∧ ∀ e ∈ p.2.dq, e.started = false) ∧
    FenceDone (fencedSys [(1, 255)]) 4 (fun _ => true) ∧
    (8192 ≤ ((sys (regs [(1, 8192)])).g 1).toNat ∧ (sys (regs [(1, 1023)])).isSys 1023 = true) ∧
    (((beside [] .active).g 1).toNat < 8192 ∧ (beside [] .active).live 0 = true ∧ (beside [] .active).isSys 0 = false ∧
      ∃ j < 4, ((beside [] .active).thr 0 j).st ≠ .free) ∧
    (((beside [] .free).core 0).share = none ∧ ∀ j < 4, ((beside [] .free).thr 0 j).st = .free) ∧
    ((beside [(1, 0x2000000000000)] .free).cur.st = .active ∧ (beside [(1, 0x1030000), (2, 3)] .free).live 0 = true ∧
      (beside [(1, 0x1030000), (2, 3)] .free).g 1 = BitVec.ofNat 64 (0 + 3 * 2 ^ 16 + 1 * 2 ^ 24) ∧
      ((beside [(1, 0x1030000), (2, 3)] .free).g 2).getLsbD 0 = true) ∧
    (((beside [(1, 0x30000)] .free).thr 0 3).st ≠ .parked 8 ∧ (beside [(1, 0x30000)] .free).live 0 = true) ∧
    (((beside [(1, 0x2030000)] (.parked 8)).thr 0 3).st = .parked 8 ∧ ((beside [(1, 0x2030000)] (.parked 8)).thr 0 3).saved = false ∧
      FenceDone (beside [(1, 0x2030000)] (.parked 8)) 4 (fun _ => true) ∧
      ((beside [(1, 0x2030000)] (.parked 8)).g 1).toNat / 2 ^ 24 % 4 = 2) := by
  refine ⟨by decide, by decide, fenceDone _ _ (by decide) (by decide) (by decide), by decide, by decide, by decide, by decide,
    by decide, by decide, by decide, fenceDone _ _ (by decide) (by decide) (by decide), by decide⟩

theorem witness_FramesQueuesCounters :
    (∃ s2 res w, frameForm (.foffer 31 1 2) = some (.offer, 31, 1, 2) ∧ (fencedSys [(1, 5)]).kernel = true ∧
      (fencedSys [(1, 5)]).cur.openG 31 = false ∧ FenceDone (fencedSys [(1, 5)]) 4 (fun _ => true) ∧
      (fencedSys [(1, 5)]).transact .offer 1 ((fencedSys [(1, 5)]).g 1) ((fencedSys [(1, 5)]).g 2)
        (fun _ => .thread (fencedSys [(1, 5)]).curH (fencedSys [(1, 5)]).curSlot) = (s2, res, w) ∧ w = true) ∧
    (∃ s2 res w, frameForm (.flend 31 1 2) = some (.lend, 31, 1, 2) ∧
      (fencedSys [(1, 0x800000)]).transact .lend 1 ((fencedSys [(1, 0x800000)]).g 1) ((fencedSys [(1, 0x800000)]).g 2)
        (fun _ => .thread (fencedSys [(1, 0x800000)]).curH (fencedSys [(1, 0x800000)]).curSlot) = (s2, res, w) ∧ w = false) ∧
    (frameForm (.faccept 31 1 2) = some (.accept, 31, 1, 2) ∧ (fencedSys [(1, 5)]).revoking (((fencedSys [(1, 5)]).g 1).toNat % 2 ^ 32) = false ∧
      State.revoking { fencedSys [(1, 5)] with revokes := [{ frame := 5 }] }
        ((State.g { fencedSys [(1, 5)] with revokes := [{ frame := 5 }] } 1).toNat % 2 ^ 32) = true) ∧
    ((sys { regs [] with wait := .frameTx 7 5 0 0 }).cur.wait = .frameTx 7 5 0 0 ∧
      ∀ r ∈ (sys { regs [] with wait := .frameTx 7 5 0 0 }).revokes, r.id ≠ 7) ∧
    (29 ≤ 29 ∧ (fencedSys []).cur.openG 29 = false ∧ (fencedSys []).cur.openG 31 = false) ∧
    ((sys (regs [(1, 65536)])).counterOf ((sys (regs [(1, 65536)])).g 1) = none ∧
      (sys (regs [(1, 4096)])).queueOf ((sys (regs [(1, 4096)])).g 1) = none) ∧
    (∃ q s2 st, (fencedSys [(1, 4095)]).queueOf ((fencedSys [(1, 4095)]).g 1) = some q ∧
      (fencedSys [(1, 4095)]).doorbell q (((fencedSys [(1, 4095)]).g 2).toNat % 2 ^ 32) = (s2, st)) ∧
    ((fencedSys [(1, 65535), (2, 1)]).counterOf ((fencedSys [(1, 65535), (2, 1)]).g 1) = some 65535 ∧
      (fencedSys [(1, 65535), (2, 1)]).cc.clockEx = false ∧ (fencedSys [(1, 65535), (2, 1)]).relWaits = false ∧ FenceDone (fencedSys [(1, 65535), (2, 1)]) 4 (fun _ => true) ∧
      ((fencedSys [(1, 65535), (2, 1)]).srv 0xA8 65535).toNat < ((fencedSys [(1, 65535), (2, 1)]).g 2).toNat) ∧
    ((fencedSys [(1, 65535)]).g 2).toNat ≤ ((fencedSys [(1, 65535)]).srv 0xA8 65535).toNat ∧
    ((sys { regs [(1, 65535)] with pend := [{ chan := some 1, missing := 1 }] }).relWaits = true ∧
      (sys { regs [(1, 65535)] with pend := [{ chan := some 1, missing := 1 }] }).cc.clockEx = false ∧
      (sys (regs [(1, 65535)]) { clkEx := true }).cc.clkEx = true ∧ (sys (regs [(1, 65535)]) { clkEx := true }).cc.clockEx = true) := by
  refine ⟨⟨_, _, _, rfl, by decide, by decide, fenceDone _ _ (by decide) (by decide) (by decide), rfl, rfl⟩,
    ⟨_, _, _, rfl, rfl, rfl⟩, by decide, by decide, by decide, by decide, ⟨_, _, _, rfl, rfl⟩,
    ⟨by decide, by decide, by decide, fenceDone _ _ (by decide) (by decide) (by decide), by decide⟩, by decide⟩

/-! ### Events of the package -/

/-- A clock plan of 208 MHz or less without harmonic bands: reference, FLAGS 1 and `f` MHz on every socket (R16). -/
def planRecord (ref f : Nat) : Nat :=
  0x434C4B31 + ref * 2 ^ 32 + 2 ^ 48 + ofBytes ((List.replicate 20 [f % 256, f / 256]).flatten) * 2 ^ 64

/-- A record of `n` bytes at device address 256, which `CLK.PLAN` names. -/
def recorded (n v : Nat) : State := ((State.reset.setSr 0x40 0 0x100).wrN 256 n v)

/-- A load in progress that has the given sockets still to relock. -/
def loading (l : List Nat) : State := { State.reset with load := some { todo := l } }

theorem passes (ref f : Nat) (s : State) (h : s.rdN 256 176 = planRecord ref f)
    (h1 : recField (planRecord ref f) 0 4 = 0x434C4B31 ∧ recField (planRecord ref f) 6 2 ≤ 1 ∧ 192 ≤ recField (planRecord ref f) 4 2 ∧
      recField (planRecord ref f) 4 2 ≤ 208 ∧
      (∀ i < 20, 1600 ≤ recField (planRecord ref f) (8 + 2 * i) 2 ∧ recField (planRecord ref f) (8 + 2 * i) 2 ≤ 2000) ∧
      ∀ j < 16, recField (planRecord ref f) (52 + 8 * j) 4 = 0) : PlanPasses (s.rdN 256 176) := by
  rw [h]
  exact ⟨h1.1, h1.2.1, h1.2.2.1, h1.2.2.2.1, h1.2.2.2.2.1, fun j hj h0 => absurd (h1.2.2.2.2.2 j hj) h0,
    fun j hj n _ _ => ⟨fun hs => hs.1 (h1.2.2.2.2.2 j hj), fun i _ hs => hs.1 (h1.2.2.2.2.2 j hj)⟩⟩

theorem plan_same : PlanPasses ((recorded 176 (planRecord 200 1880)).rdN 256 176) :=
  passes 200 1880 _ (by decide +kernel) (by decide +kernel)
theorem plan_low : PlanPasses ((recorded 176 (planRecord 192 1600)).rdN 256 176) :=
  passes 192 1600 _ (by decide +kernel) (by decide +kernel)
theorem plan_high : PlanPasses ((recorded 176 (planRecord 208 2000)).rdN 256 176) :=
  passes 208 2000 _ (by decide +kernel) (by decide +kernel)

/-- Time unit 8 with `n` failed exchanges behind it and its status in state `st`. -/
def failedUnit (n st : Nat) : State :=
  { given State.reset [8] with tfail := [(8, n)], tstat := [(8, BitVec.ofNat 64 st)] }

theorem witness_PackageEvents :
    (Memory.wf State.reset.mem = true ∧ (0 : Nat) < 2 ^ 64 ∧ isPool 0 = false ∧ isPool (2 ^ 46) = true) ∧
    (State.reset.params = [] ∧ State.reset.mig = none) ∧
    ((recorded 176 (planRecord 200 1880)).load = none ∧ PlanReadable (recorded 176 (planRecord 200 1880)) 256 ∧
      PlanPasses ((recorded 176 (planRecord 200 1880)).rdN 256 176)) ∧
    (PlanReadable (recorded 176 (planRecord 192 1600)) 256 ∧ PlanPasses ((recorded 176 (planRecord 192 1600)).rdN 256 176)) ∧
    (PlanReadable (recorded 176 (planRecord 208 2000)) 256 ∧ PlanPasses ((recorded 176 (planRecord 208 2000)).rdN 256 176)) ∧
    ((recorded 0 0).load = none ∧ PlanReadable (recorded 0 0) 256 ∧ recField ((recorded 0 0).rdN 256 176) 0 4 ≠ 0x434C4B31) ∧
    (loading [3]).load ≠ none ∧
    ((loading [18, 19]).load = some { todo := [18, 19] } ∧ (loading [19]).load = some { todo := [19] }) ∧
    ((given State.reset [8]).param 0 < 9 ∧ (given State.reset [8]).role = 0) ∧
    ((given State.reset [12]).param 0 = 12 ∧ (given State.reset [12]).role ≠ 2 ∧ (given (State.reset.setSr 0x44 0 2) [12]).role = 2) ∧
    ((failedUnit 2 1).param 0 < 9 ∧ (failedUnit 2 1).tfail.val ((failedUnit 2 1).param 0) 0 < 3 ∧
      3 ≤ (failedUnit 3 1).tfail.val ((failedUnit 3 1).param 0) 0 ∧
      wbits ((failedUnit 3 1).tstat.val ((failedUnit 3 1).param 0) 0) 1 0 = 1) ∧
    ({ given State.reset [8] with dtime := [(8, 0xFFFFFFFFFFFFFFFF)] } : State).dt 8 = 2 ^ 64 - 1 ∧
    ((given State.reset [2]).param 0 % 4 ≠ 3 ∧ ∀ p ∈ (given State.reset [2]).ports, p.2.state = 3) ∧
    (((given (user { wait := .tokens 1 [8, 0] }) [0, 0, 8]).thr 0 0).wait = .tokens 1 [8, 0] ∧
      (given (user { wait := .tokens 1 [8, 0] }) [0, 0, 8]).tokenReady (dieOf 0) 1 8 = true) ∧
    ((given State.reset [2, 0x81]).param 0 ≤ 2 ∧ (given State.reset [2, 0x81]).load = none ∧
      ∀ c ≤ 2, c ≠ 2 → ((given State.reset [2]).srv 0x46 0).getLsbD c = false) ∧
    ((given State.reset [1]).param 0 = 1 ∧ 5 < (given State.reset [6]).param 0) ∧
    (({ given State.reset [7, 1] with fwRecovery := true, fwCounter := 7 } : State).fwRecovery = true ∧
      (given State.reset [7, 1]).param 1 = 1 ∧ 7 ≤ (given State.reset [7, 1]).param 0 ∧ (given State.reset [6, 1]).param 0 < 7) ∧
    MapStands State.reset ∧ (given State.reset [2]).param 0 % 4 = 2 ∧ (given State.reset [4]).param 0 = 4 := by
  refine ⟨by decide, by decide, ⟨by decide +kernel, by unfold PlanReadable; decide +kernel, plan_same⟩,
    ⟨by unfold PlanReadable; decide +kernel, plan_low⟩, ⟨by unfold PlanReadable; decide +kernel, plan_high⟩,
    ⟨by decide, by unfold PlanReadable; decide, by decide +kernel⟩, by decide, by decide, by decide, by decide, by decide, by decide,
    by decide, by decide, by decide, by decide, by decide, ⟨by decide, by decide⟩, by decide, by decide⟩

/-! ### Ports, collectives and ingest -/

/-- A port as it is, with the parameters of the step. -/
def ported (p : Nat) (x : Port) (l : List Nat) : State := given { State.reset with ports := [(p, x)] } l

/-- Frame 5 exported by the accelerator kernel, in use by tenant 1. -/
def exporting (l : List Nat) : State := (given State.reset l).setFrame 5 { state := 3, exported := true, tenant := 1 }

set_option exponentiation.threshold 2100 in
/-- A sealed flit passes its CRC check, with the sequence number it was sealed under. -/
theorem sealed_ok (n : Nat) : flitOk (sealFlit (n % 4096) 0 0) = true ∧ sealFlit (n % 4096) 0 0 % 2 ^ 2048 % 4096 = n % 4096 := by
  have h := Nat.mod_lt n (show 0 < 4096 by decide)
  generalize n % 4096 = k at *
  have hM : k < 2 ^ 1984 := Nat.lt_of_lt_of_le h (Nat.le_of_dvd (Nat.two_pow_pos _) (Nat.pow_dvd_pow 2 (by decide : 12 ≤ 1984)))
  have h1 : sealFlit k 0 0 = k + 2 ^ 1984 * (Config.crc64 k % 2 ^ 64) := by simp [sealFlit]
  rw [h1]
  constructor
  · unfold flitOk bits
    rw [Nat.add_mul_mod_self_left, Nat.mod_eq_of_lt hM, Nat.add_mul_div_left _ _ (Nat.two_pow_pos _), Nat.div_eq_of_lt hM, Nat.zero_add]
    exact decide_eq_true (Nat.mod_mod _ _)
  · obtain ⟨d, hd⟩ : 4096 ∣ 2 ^ 1984 := Nat.pow_dvd_pow 2 (by decide : 12 ≤ 1984)
    rw [Nat.mod_mod_of_dvd _ (Nat.pow_dvd_pow 2 (by decide : 12 ≤ 2048)), hd, Nat.mul_assoc, Nat.add_mul_mod_self_left, Nat.mod_eq_of_lt h]

/-- Two flits of a replay buffer. -/
def twoFlits : List Sent := [{ seq := 4095, flit := 7 }, { seq := 0, flit := 8 }]

/-- Port 0 with one unacknowledged flit that carries a load's request, whose answer the load waits for. -/
def asking : State :=
  { ported 0 { state := 2, replay := [{ flit := 8, acc := 5 }] } [0] with accs := [{ id := 5, ent := 6, gone := true, st := .entered 0 }] }

theorem witness_LinkEventsDown :
    (NoColl (ported 0 { state := 2, replay := twoFlits } [0]) 0 ∧ (ported 63 { state := 2 } [63]).flitWait = [] ∧
      ({ ported 0 { state := 2, replay := twoFlits } [0] with ports := [(0, { state := 2, replay := twoFlits }), (1, { state := 2 })] } : State).relocking ≠
        some (portSocket 1)) ∧
    (asking.otherPort 0 = none ∧ (asking.port 0).replay = [{ flit := 8, acc := 5 }] ∧ asking.acc? 5 = some { id := 5, ent := 6, gone := true, st := .entered 0 } ∧
      asking.flitWait = [] ∧ NoColl asking 0) ∧
    (exporting [2, 0x50000, 0, 8]).relocking ≠ some (portSocket ((exporting [2, 0x50000, 0, 8]).param 5)) := by
  unfold NoColl; decide

theorem witness_LinkEvents :
    (((ported 63 { state := 2, rxSeq := 4095 } [63, sealFlit (4095 % 4096) 0 0]).port 63).state = 2 ∧
      (ported 63 { state := 2, rxSeq := 4095 } [63, sealFlit (4095 % 4096) 0 0]).relocking ≠ some (16 + 63 / 16) ∧
      flitOk (sealFlit (4095 % 4096) 0 0) = true ∧ sealFlit (4095 % 4096) 0 0 % 2 ^ 2048 % 4096 = 4095 % 4096) ∧
    ((1 : Nat) % 4096 ≠ ((ported 63 { state := 2 } [63, 1]).port 63).rxSeq) ∧
    ((∃ r ∈ ((ported 0 { state := 2, replay := twoFlits } [0, 4095]).port 0).replay, r.seq = 4095) ∧
      ¬ (((ported 0 { state := 2, replay := twoFlits } [0, 4095]).port 0).nak = some 4095 ∧
        8 ≤ ((ported 0 { state := 2, replay := twoFlits } [0, 4095]).port 0).failed)) ∧
    (((ported 0 { state := 2, replay := [{ flit := 8 }], nak := some 0, failed := 8 } [0, 0]).port 0).nak = some 0 ∧
      8 ≤ ((ported 0 { state := 2, replay := [{ flit := 8 }], nak := some 0, failed := 8 } [0, 0]).port 0).failed ∧
      ∀ f ∈ ((ported 0 { state := 2, replay := [{ flit := 8 }], nak := some 0, failed := 8 } [0, 0]).port 0).replay, f.coll = 0) ∧
    ((ported 0 { state := 2, replay := [{ flit := 8, addr := some 9 }] } [0]).otherPort 0 = none ∧
      ((ported 0 { state := 2, replay := [{ flit := 8, addr := some 9 }] } [0]).port 0).replay = [{ flit := 8, addr := some 9 }] ∧
      (ported 0 { state := 2, replay := [{ flit := 8, addr := some 9 }] } [0]).srv 0x54 0 = 0) ∧
    ({ ported 0 { state := 2, replay := twoFlits } [0] with ports := [(0, { state := 2, replay := twoFlits }), (1, { state := 2 })] } : State).otherPort 0 =
      some 1 ∧
    (((ported 0 { state := 1 } [0, 1, 63]).port 0).state = 1 ∧ 1 % 2 ^ 19 ≠ (ported 0 { state := 1 } [0, 1, 63]).srf 0x50 0 18 0) ∧
    (2 ^ 19 % 2 ^ 19 = (ported 63 { state := 1 } [63, 2 ^ 19, 0]).srf 0x50 0 18 0) ∧
    (((ported 63 {} [63]).port 63).state = 3 ∧ (63 : Nat) < 64) ∧
    (((ported 63 { state := 0 } [63]).setSr 0x56 63 1).port 63).state = 0 ∧
    (((ported 63 { state := 0 } [63]).setSr 0x56 63 1).srv 0x56 63).getLsbD 0 = true ∧
    ((∀ q ∈ (ported 63 {} [63]).ports, q.2.state = 3) ∧ ¬ ∀ q ∈ (ported 63 { state := 0 } [63]).ports, q.2.state = 3) ∧
    ((exporting [2, 0x50000, 0, 8]).moving 0x50000 = false ∧ (exporting [2, 0x50000, 0, 8]).homeRuns 0x50000 = true ∧
      ¬ Admits ((exporting [2, 0x50000, 0, 8]).frame 5) 2) ∧
    (Calm (exporting [1, 0x5FFFF, 0, 1]) ∧ Clear (exporting [1, 0x5FFFF, 0, 1]) 0x5FFFF ∧
      Admits ((exporting [1, 0x5FFFF, 0, 1]).frame (0x5FFFF / 65536)) 1 ∧ 0x5FFFF % 65536 + 1 ≤ 65536 ∧
      ((exporting [1, 0x5FFFF, 0, 1]).frame (0x5FFFF / 65536)).watch = false ∧
      (exporting [1, 0x5FFFF, 1, 1, 255]).param 2 = 1 ∧ Memory.wf (exporting [1, 0x5FFFF, 1, 1, 255]).mem = true) := by
  refine ⟨⟨by decide, by decide, sealed_ok 4095⟩, ?_⟩
  unfold Admits Calm Clear; decide

/-- A descriptor of 64 bytes (R48). -/
def descriptor (op ty len : Nat) : Nat := mkRec [(0, 4, op), (4, 1, ty), (8, 8, 0x1000), (16, 8, 0x2000), (24, 4, len), (40, 8, 1)]

/-- Tenant 1 with one fence counter block, whose collective queue holds the one descriptor `d`. Its first page lies in
frame 5. Group 0 is this node alone; key 0 registers the page. -/
def queued (d : Nat) (l : List Nat) : State :=
  (((((((given { State.reset with xls := [{ page with abut := 16, tenant := 1 }] } l).setSr 0x80 1 0x8000000008000000).setSr 0x58 1
    0x8000000000000000).setSr 0x59 1 6).setSr 0x52 0 0x8000000000000000).setSr 0x5A 0 0x8000000000060000).setSr 0x5B 0
    0x8000000000070000).wrN 0x50000 1 1 |>.wrN 0x50040 64 d |>.wrN 0x60000 16 (mkRec [(0, 2, 1), (4, 4, 10), (8, 1, 1)]) |>.wrN 0x70000 32
      (mkRec [(8, 8, 0x10000), (18, 1, 1), (24, 8, 5)])

/-- The same once its ALLREDUCE or PUT is open. -/
def openColl (put : Bool) (d : Nat) : Coll :=
  { id := 3, tenant := 1, put := put, desc := d, slotVa := 64, members := [0], contrib := [1, 0, 0, 0] }
def opened1 (put : Bool) (d : Nat) (l : List Nat) : State := { queued d l with colls := [openColl put d] }

/-- The head of a queue, and an engine's access, are what `p` asks. -/
def headIs (g : CollGot) (p : State → Nat → Nat → Bool) : Bool := match g with
  | .desc s va d => p s va d
  | .none _ => false
def okIs (r : EngR) (p : State → Nat → Bool) : Bool := match r with
  | .ok s v => p s v
  | _ => false
theorem headIs_of (g : CollGot) (p : State → Nat → Nat → Bool) (h : headIs g p = true) : ∃ s va d, g = .desc s va d ∧ p s va d = true := by
  cases g with
  | none s => cases h
  | desc s va d => exact ⟨s, va, d, rfl, h⟩
theorem okIs_of (r : EngR) (p : State → Nat → Bool) (h : okIs r p = true) : ∃ s v, r = .ok s v ∧ p s v = true := by
  cases r with
  | ok s v => exact ⟨s, v, rfl, h⟩
  | fail s => cases h
  | hold => cases h

/-- The head of the queue of tenant 1 is a good descriptor of operation `op` whose bytes are read, with a path to other
nodes or without. -/
def goodHead (s : State) (op : Nat) (path : Bool) : Bool := headIs (s.collHead 1) fun s1 _ d =>
  decide (cdOp d = op) && !(s1.collTaken 1).badDesc 1 d && (op == 1 || ((s1.collTaken 1).group 1 (cdGroup d)).isSome) &&
    okIs ((s1.collTaken 1).collSrc 1 d) fun s3 _ => s3.routed == path
theorem goodHead_of (s : State) (op : Nat) (path : Bool) (h : goodHead s op path = true) : ∃ s1 s3 va d v, s.collHead 1 = .desc s1 va d ∧
    cdOp d = op ∧ (s1.collTaken 1).badDesc 1 d = false ∧ (op = 1 ∨ ∃ g, (s1.collTaken 1).group 1 (cdGroup d) = some g) ∧
    (s1.collTaken 1).collSrc 1 d = .ok s3 v ∧ s3.routed = path := by
  obtain ⟨s1, va, d, h1, h2⟩ := headIs_of _ _ h
  simp only [Bool.and_eq_true, decide_eq_true_eq, Bool.not_eq_true', Bool.or_eq_true, beq_iff_eq] at h2
  obtain ⟨s3, v, h3, h4⟩ := okIs_of _ _ h2.2
  exact ⟨s1, s3, va, d, v, h1, h2.1.1.1, h2.1.1.2, h2.1.2.imp id Option.isSome_iff_exists.1, h3, by simpa using h4⟩

/-- The head of the queue of tenant 1 is a bad descriptor of operation `op`. -/
theorem badHead_of (s : State) (op : Nat) (h : headIs (s.collHead 1) (fun s1 _ d => (s1.collTaken 1).badDesc 1 d && decide (cdOp d = op)) = true) :
    ∃ s1 va d, s.collHead 1 = .desc s1 va d ∧ (s1.collTaken 1).badDesc 1 d = true ∧ cdOp d = op := by
  obtain ⟨s1, va, d, h1, h2⟩ := headIs_of _ _ h
  simp only [Bool.and_eq_true, decide_eq_true_eq] at h2
  exact ⟨s1, va, d, h1, h2⟩

/-- Tenant 1's page as its engine sees it. -/
def enginePage : Xl := { page with abut := 16, tenant := 1 }

/-- The engine of tenant 1 finds `va` in its page. -/
theorem engSees (s : State) (va pa : Nat)
    (h : (isHbm pa = true ∧ s.moving pa = false ∧ s.homeRuns pa = true ∧ (s.frame (pa / 65536)).prot = false ∧
      s.poison.contains (pa / 256) = false) ∧ spaceOf va = .global ∧ s.relocking ≠ some (engDie 1) ∧ pa % 64 = va % 64 ∧ s.xls.find? (fun e => e.covers (8 * engDie 1) 0 1 va) = some enginePage ∧
      pa = enginePage.at va) : EngSees s (engDie 1) 0 1 va pa := ⟨h.1, h.2.1, h.2.2.1, h.2.2.2.1, enginePage, h.2.2.2.2.1, h.2.2.2.2.2, rfl, rfl⟩

/-- The head of tenant 1's queue is the descriptor at 64. -/
theorem collAt (s : State) (d : Nat) (h0 : s.collAsid 1 = 0 ∧ s.collVa 1 = 0 ∧ s.collEn 1 = true ∧ s.engStill 1 = false ∧
      64 = s.collVa 1 + 64 + 64 * (s.collIdx.val 1 0 % 2 ^ s.collLog 1) ∧ d = s.rdN 0x50040 64)
    (h1 : EngSees s (engDie 1) 0 1 64 0x50040) (h2 : EngSees s (engDie 1) 0 1 0 0x50000)
    (h3 : s.rdN 0x50000 8 ≠ s.collIdx.val 1 0 ∧ (s.rdN 0x50000 8 + 2 ^ 64 - s.collIdx.val 1 0) % 2 ^ 64 ≤ 2 ^ s.collLog 1) :
    CollAt s 1 64 0x50040 d := by
  refine ⟨h0.2.2.1, h0.2.2.2.1, h0.2.2.2.2.1, h0.2.2.2.2.2, ?_, 0x50000, ?_, h3⟩
  · rw [h0.1]; exact h1
  · rw [h0.1, h0.2.1]; exact h2

/-- The state with port 0 UP. -/
def up (s : State) : State := { s with ports := [(0, { state := 2 })] }

theorem witness_EngineEvents_descriptors :
    ((queued 0 [1, 0]).collEn 1 = true) ∧
    (Calm (queued (descriptor 0 2 2) [1]) ∧ CollAt (queued (descriptor 0 2 2) [1]) 1 64 0x50040 (descriptor 0 2 2) ∧
      (queued (descriptor 0 2 2) [1]).badDesc 1 (descriptor 0 2 2) = true ∧
      EngSees (queued (descriptor 0 2 2) [1]) (engDie 1) 0 1 (64 + 48) (0x50040 + 48) ∧ Memory.wf (queued (descriptor 0 2 2) [1]).mem = true) ∧
    (CollAt (queued (descriptor 0 2 4) [1]) 1 64 0x50040 (descriptor 0 2 4) ∧
      (queued (descriptor 0 2 4) [1]).badDesc 1 (descriptor 0 2 4) = false ∧ cdSrc (descriptor 0 2 4) % 64 + cdLen (descriptor 0 2 4) ≤ 64 ∧
      (queued (descriptor 0 2 4) [1]).mayLeave = true ∧ EngSees (queued (descriptor 0 2 4) [1]) (engDie 1) 0 1 (cdSrc (descriptor 0 2 4)) 0x51000 ∧
      cdOp (descriptor 0 2 4) = 0 ∧ (queued (descriptor 0 2 4) [1]).group 1 (cdGroup (descriptor 0 2 4)) = some ([0], 0, 10000)) ∧
    (Calm (up (queued (descriptor 1 2 8) [1])) ∧ CollAt (up (queued (descriptor 1 2 8) [1])) 1 64 0x50040 (descriptor 1 2 8) ∧
      (up (queued (descriptor 1 2 8) [1])).badDesc 1 (descriptor 1 2 8) = false ∧ (up (queued (descriptor 1 2 8) [1])).mayLeave = true ∧
      EngSees (up (queued (descriptor 1 2 8) [1])) (engDie 1) 0 1 (cdSrc (descriptor 1 2 8)) 0x51000 ∧
      cdOp (descriptor 1 2 8) = 1 ∧ (up (queued (descriptor 1 2 8) [1])).routed = true) := by
  unfold Calm
  refine ⟨by decide +kernel, ⟨by decide +kernel, ?_, by decide +kernel, engSees _ _ _ (by decide +kernel), by decide +kernel⟩,
    ⟨?_, by decide +kernel, by decide +kernel, by decide +kernel, engSees _ _ _ (by decide +kernel), by decide +kernel, by decide +kernel⟩,
    ⟨by decide +kernel, ?_, by decide +kernel, by decide +kernel, engSees _ _ _ (by decide +kernel), by decide +kernel, by decide +kernel⟩⟩ <;>
    exact collAt _ _ (by decide +kernel) (engSees _ _ _ (by decide +kernel)) (engSees _ _ _ (by decide +kernel)) (by decide +kernel)

theorem witness_EngineEvents_queue :
    ((255 : Nat) < 256 ∧ (given State.reset [255, 0]).collEn 255 = false) ∧
    (∃ s1 s3 va d v, (queued (descriptor 0 2 4) [1]).collHead 1 = .desc s1 va d ∧ cdOp d = 0 ∧ (s1.collTaken 1).badDesc 1 d = false ∧
      (0 = 1 ∨ ∃ g, (s1.collTaken 1).group 1 (cdGroup d) = some g) ∧ (s1.collTaken 1).collSrc 1 d = .ok s3 v ∧ s3.routed = false) ∧
    (∃ s1 va d, (queued (descriptor 0 2 2) [1]).collHead 1 = .desc s1 va d ∧ (s1.collTaken 1).badDesc 1 d = true ∧ cdOp d = 0) ∧
    (∃ s1 va d, (queued (descriptor 1 4 4) [1]).collHead 1 = .desc s1 va d ∧ (s1.collTaken 1).badDesc 1 d = true ∧ cdOp d = 1) ∧
    (∃ s1 s3 va d v, (queued (descriptor 1 2 8) [1]).collHead 1 = .desc s1 va d ∧ cdOp d = 1 ∧ (s1.collTaken 1).badDesc 1 d = false ∧
      (1 = 1 ∨ ∃ g, (s1.collTaken 1).group 1 (cdGroup d) = some g) ∧ (s1.collTaken 1).collSrc 1 d = .ok s3 v ∧ s3.routed = false) ∧
    (∃ s1 s3 va d v, ({ queued (descriptor 1 2 8) [1] with ports := [(0, { state := 2 })] } : State).collHead 1 = .desc s1 va d ∧ cdOp d = 1 ∧
      (s1.collTaken 1).badDesc 1 d = false ∧ (1 = 1 ∨ ∃ g, (s1.collTaken 1).group 1 (cdGroup d) = some g) ∧
      (s1.collTaken 1).collSrc 1 d = .ok s3 v ∧ s3.routed = true) := by
  refine ⟨by decide, goodHead_of _ 0 false (by decide +kernel), badHead_of _ _ (by decide +kernel), badHead_of _ _ (by decide +kernel),
    goodHead_of _ 1 false (by decide +kernel), goodHead_of _ 1 true (by decide +kernel)⟩

/-- The key record of the queue's tenant. -/
def keyOne : Nat := mkRec [(8, 8, 0x10000), (18, 1, 1), (24, 8, 5)]

theorem witness_EngineEvents_ends :
    ((opened1 false (descriptor 0 2 4) [3, 0]).colls.find? (fun c => decide (c.id = 3) && !c.put) = some (openColl false (descriptor 0 2 4)) ∧
      (opened1 false (descriptor 0 2 4) [3, 0]).params.length = (openColl false (descriptor 0 2 4)).members.length + 1 ∧
      2 ≤ (opened1 false (descriptor 0 2 4) [3, 0]).params.length ∧
      CollSees (opened1 false (descriptor 0 2 4) [3, 0]) (openColl false (descriptor 0 2 4)) 0x52000 0x50070 ∧ 0x50070 + 8 ≤ 0x52000) ∧
    reached 48 ((opened1 false (descriptor 0 2 4) [3]).ns (collUnit (openColl false (descriptor 0 2 4)).tenant))
      (openColl false (descriptor 0 2 4)).deadline = true ∧
    ((queued 0 []).bitErr = [] ∧ (queued 0 []).engStill 1 = false ∧ (queued 0 []).engStill 2 = false ∧ (queued 0 []).keyRec 1 0 0xFFFF 2 = none ∧ (queued 0 []).keyRec 2 0 0 1 = none) ∧
    (Calm (queued 0 [1, 0, 0xFFF8, 8, 7]) ∧ Memory.wf (queued 0 [1, 0, 0xFFF8, 8, 7]).mem = true ∧
      (queued 0 [1, 0, 0xFFF8, 8, 7]).keyRec 1 0 0xFFF8 8 = some keyOne ∧ (recField keyOne 0 8 + 0xFFF8) % 64 + 8 ≤ 64 ∧
      EngSees (queued 0 [1, 0, 0xFFF8, 8, 7]) (engDie 1) 0 1 (recField keyOne 0 8 + 0xFFF8) 0x5FFF8 ∧ recField keyOne 16 2 = 0) ∧
    ((opened1 true (descriptor 1 2 4) [3, 6]).colls.find? (fun c => decide (c.id = 3) && c.put) = some (openColl true (descriptor 1 2 4)) ∧
      (opened1 true (descriptor 1 2 4) [3, 6]).engStill 1 = false ∧ ({ openColl true 0 with lost := true } : Coll).lost = true ∧
      Calm (opened1 true (descriptor 1 2 4) [3, 6]) ∧
      EngSees (opened1 true (descriptor 1 2 4) [3, 6]) (engDie 1) 0 1 ((openColl true (descriptor 1 2 4)).slotVa + 48) 0x50070) := by
  unfold Calm CollSees Calm
  exact ⟨⟨by decide +kernel, by decide +kernel, by decide +kernel, ⟨by decide +kernel, by decide +kernel, by decide +kernel, by decide +kernel, by decide +kernel,
      engSees _ _ _ (by decide +kernel), engSees _ _ _ (by decide +kernel)⟩, by decide +kernel⟩, by decide +kernel, by decide +kernel,
    ⟨by decide +kernel, by decide +kernel, by decide +kernel, by decide +kernel, engSees _ _ _ (by decide +kernel), by decide +kernel⟩,
    by decide +kernel, by decide +kernel, by decide +kernel, by decide +kernel, engSees _ _ _ (by decide +kernel)⟩

/-- Port 7 with the default action "deliver to ring 255", which is enabled with 16 slots of 2 KiB and priority 0, its
high-water mark at 1/256. -/
def ingesting (l : List Nat) : State :=
  (({ given State.reset l with rings := [(255, { head := 17, tailSeen := 2 })] } : State).setSr 0x63 7 0x80000000000000FF).setSr 0x60 255
    (BitVec.ofNat 64 (2 ^ 63 + 2 ^ 48 + 11 * 2 ^ 44 + 4 * 2 ^ 39 + 2 ^ 31 + 1))

/-- Rule 3 of port 7 matches every frame and drops it, or delivers to ring 0, which is off. -/
def ruled (act : Nat) : State := { given State.reset [7, 0, 1, 64] with rules := [(7 * 256 + 3, BitVec.ofNat 512 act)] }

/-- A rule load in progress of rule 255 of port 7, whose record holds `v`. -/
def ruleLoading (v : Nat) : State :=
  (({ State.reset with ruleLoad := some (7, 255) }.setSr 0x65 7 0x50000).wrN (0x50000 + 64 * 255) 8 v)

/-- The same while the page of the ring moves. -/
def ringMoves (l : List Nat) : State :=
  (((({ ingesting l with mig := some { src := 0x50000, dst := 0x60000, len := 65536, moving := true } }.setSr 0x81 1 0x100001).wrN 0x100000 8
    0x101001).wrN 0x101000 8 0x102001).wrN 0x102000 8 0x103001).wrN 0x103000 8 0x5001F

theorem witness_EngineEvents_ingest :
    ((given State.reset [7, 0, 0, 64]).ethStill 7 = false ∧ (ingesting [255]).bitErr = [] ∧
      (∀ p < 8, (ingesting [255]).ethStill p = true → ((ingesting [255]).portRings p).contains 255 = false)) ∧
    ((given State.reset [7, 0, 0, 64]).param 2 = 0 ∧ (given State.reset [7, 0, 1, 9217]).param 2 ≠ 0 ∧
      9216 < (given State.reset [7, 0, 1, 9217]).param 3) ∧
    (FrameAction (given State.reset [7, 0, 1, 9216]) 7 0 1 0 ∧ (given State.reset [7, 0, 1, 9216]).param 3 ≤ 9216) ∧
    (FrameAction (ruled 1) 7 0 1 0 ∧ FrameAction (ruled 2) 7 0 2 0 ∧ (ruled 2).ringEn 0 = false) ∧
    (FrameAction (ingesting [7, 0, 1, 2016]) 7 0 2 255 ∧ (ingesting [7, 0, 1, 2016]).ringEn 255 = true ∧
      (ingesting [7, 0, 1, 2016]).ringHold 255 = false ∧ (∀ h ∈ (ingesting [7, 0, 1, 2016]).ingHeld, h.1 ≠ 7) ∧
      (ingesting [7, 0, 1, 2016]).param 3 + 32 ≤ 2 ^ (ingesting [7, 0, 1, 2016]).ringSlot 255 ∧
      ((ingesting [7, 0, 1, 2016]).ring 255).head - ((ingesting [7, 0, 1, 2016]).ring 255).tailSeen <
        2 ^ (ingesting [7, 0, 1, 2016]).ringLog 255) ∧
    (FrameAction (ringMoves [7, 0, 1, 2016]) 7 0 2 255 ∧ (ringMoves [7, 0, 1, 2016]).ringEn 255 = true ∧
      (ringMoves [7, 0, 1, 2016]).ringHold 255 = true) ∧
    ((ingesting [255]).ringEn 255 = true ∧ (ingesting [255]).ringHold 255 = false) ∧
    ((7, 0) ∈ ({ ingesting [7, 0] with xoff := [(7, 0)] } : State).xoff ∧
      ∃ r ∈ ({ ingesting [7, 0] with xoff := [(7, 0)] } : State).prioRings 7 0,
        ({ ingesting [7, 0] with xoff := [(7, 0)] } : State).ringHigh r = true) ∧
    (State.reset.ruleLoad = none ∧ (ruleLoading 0).ruleLoad = some (7, 255)) ∧
    ((({ State.reset with ruleLoad := some (7, 255) }.setSr 0x65 7 0x7800000000).ownRec
        ((({ State.reset with ruleLoad := some (7, 255) }.setSr 0x65 7 0x7800000000).srf 0x65 7 47 14) * 16384 + 64 * 255) 64) = none) ∧
    ((ruleLoading 3).ownRec ((ruleLoading 3).srf 0x65 7 47 14 * 16384 + 64 * 255) 64 = some 3 ∧ ruleBad 3 = true) ∧
    ((ruleLoading 2).ownRec ((ruleLoading 2).srf 0x65 7 47 14 * 16384 + 64 * 255) 64 = some 2 ∧ ruleBad 2 = false) := by
  refine ⟨by decide +kernel, by decide, ⟨.inr (by decide), by decide⟩, ⟨.inl ⟨3, 1, by decide +kernel⟩, .inl ⟨3, 2, by decide +kernel⟩, by decide⟩,
    ⟨.inr (by decide), by decide⟩, ⟨.inr (by decide +kernel), by decide +kernel⟩, by decide, by decide, by decide, by decide,
    by decide +kernel, by decide +kernel⟩

/-! ### The host command window and the frame record -/

/-- The window enabled over a ring of 16 commands at host address 0, whose first holds HSEQ `q`, operation `op` and
arguments `as`. -/
def asked (q op : Nat) (as : List Nat) (l : List Nat) : State :=
  ({ given State.reset l with hcw := [(hCTL, 1), (hCRS, 4), (hCPI, 1)] } : State).wrN (hostLoc 0) 64
    (q + op * 2 ^ 64 + (as.foldr (fun a r => a + 2 ^ 64 * r) 0) * 2 ^ 128)

theorem fetches (s : State) (h : s.cmdBusy = false ∧ s.cmds = [] ∧ (s.hc hCTL).getLsbD 0 = true ∧ (s.hc hCCI).toNat < (s.hc hCPI).toNat ∧
    s.evHost.waiting.length < 256) : MayFetch s :=
  ⟨h.1, fun c hc => absurd (h.2.1 ▸ hc) (by simp), h.2.2⟩

/-- The state after the acceptance of the one command. -/
def taken (op : Nat) (as : List Nat) (l : List Nat := []) : State := accepted (asked 1 op as l) (commandOf (nextCommand (asked 1 op as l)) op)

theorem next (op : Nat) (as l : List Nat) (h : cmdOp (nextCommand (asked 1 op as l)) = op ∧
      recField (nextCommand (asked 1 op as l)) 0 8 = ((asked 1 op as l).hc hACC).toNat + 1 ∧ (asked 1 op as l).cmdBusy = false ∧
      (asked 1 op as l).cmds = [] ∧ ((asked 1 op as l).hc hCTL).getLsbD 0 = true ∧
      ((asked 1 op as l).hc hCCI).toNat < ((asked 1 op as l).hc hCPI).toNat ∧ (asked 1 op as l).evHost.waiting.length < 256) :
    Next (asked 1 op as l) op (commandOf (nextCommand (asked 1 op as l)) op) (taken op as l) :=
  ⟨fetches _ h.2.2, h.1, h.2.1, rfl, rfl⟩

theorem witness_HostCommands_accept :
    (∀ p ∈ [0, 2], MayFetch (asked p 48 [] []) ∧ cmdOp (nextCommand (asked p 48 [] [])) = 48 ∧
      recField (nextCommand (asked p 48 [] [])) 0 8 ≠ ((asked p 48 [] []).hc hACC).toNat + 1) ∧
    (∀ op ∈ [0, 1, 7, 16, 17, 18, 19, 32, 33, 48, 0xFFFF],
      Next (asked 1 op [] []) op (commandOf (nextCommand (asked 1 op [] [])) op) (taken op [])) := by
  constructor
  · intro p hp
    simp only [List.mem_cons, List.not_mem_nil, or_false] at hp
    obtain rfl | rfl := hp <;> exact ⟨fetches _ (by decide +kernel), by decide +kernel⟩
  · intro op hop
    simp only [List.mem_cons, List.not_mem_nil, or_false] at hop
    obtain rfl | rfl | rfl | rfl | rfl | rfl | rfl | rfl | rfl | rfl | rfl := hop <;> exact next _ _ _ (by decide +kernel)

/-- A plan of the given reference at host address 256. -/
def hostPlan (ref : Nat) : State := (taken 16 [256]).wrN (hostLoc 256) 176 (planRecord ref 2000)

theorem witness_HostCommands :
    (∃ s1 res, (taken 1 [5, 0]).transact .offer 0 5 0 (fun res => .command 1 [res]) = (s1, res, false)) ∧
    (∃ s1 res, ((taken 1 [5, 0]).setFrame 5 { owner := 0 }).transact .offer 0 5 0 (fun res => .command 1 [res]) = (s1, res, true)) ∧
    (({ taken 16 [256] with load := some { todo := [3] } } : State).load ≠ none ∧ (taken 16 [256]).load = none ∧
      recField ((taken 16 [256]).rdN (hostLoc 256) 176) 0 4 ≠ 0x434C4B31 ∧ PlanPasses ((hostPlan 208).rdN (hostLoc 256) 176)) ∧
    ((asked 1 17 [] [0, 0, 0]).param 2 = 0 ∧ (asked 1 17 [] [0, 1, 1]).param 1 = 1 ∧ (taken 17 []).fwCounter ≤ 0 ∧
      (asked 1 17 [] [0, 0, 1]).param 1 = 0 ∧ (asked 1 17 [] [0, 0, 1]).param 2 ≠ 0) ∧
    ((taken 18 [1]).tenEn 1 = false ∧ ((taken 18 [255]).setSr 0x80 255 0xA000000000000000).tenEn 255 = true ∧
      ((taken 18 [255]).setSr 0x80 255 0xA000000000000000).tenState 255 ≠ 2) ∧
    ((∃ a ∈ [0x10001, 65536], a % 65536 ≠ 0) ∧ (65536 ≠ 0 ∧ 65536 ≤ 2 ^ 28 ∧ 65532 % 4 = 0 ∧ 65532 < 65536) ∧
      (taken 19 [0, 65536, 65532]).sysRuns = false ∧
      65536 / 65536 + 17 ≤ ((taken 19 [0, 65536, 65532]).freeFrames 0 (65536 / 65536 + 17) 8388608).length ∧
      (({ taken 19 [0, 65536, 65532] with cores := [(1023, { threads := [(0, { st := .active })] })] } : State)).sysRuns = true) ∧
    ((∀ r ∈ (taken 32 [0]).evHost.journal.head?, r.dseq ≤ 0 + 1) ∧ (taken 32 [0]).evHost.issued ≤ 0) ∧
    ((∀ x ∈ (taken 33 [7]).cmds, x.hseq ≠ 7) ∧ ((taken 33 [1]).cmds.find? fun x => decide (x.hseq = 1)).isSome = true) ∧
    (3840 ≤ ({ taken 48 [] with evAcc := { waiting := List.replicate 3840 {} } } : State).evAcc.waiting.length ∧
      (taken 48 []).evAcc.waiting.length < 3840 ∧ (taken 48 []).evAcc.lostSince = 0) := by
  refine ⟨⟨_, _, rfl⟩, ⟨_, _, rfl⟩, ⟨by decide, by decide, by decide +kernel, ?_⟩, by decide, by decide, ⟨by decide, by decide,
    by decide +kernel, by decide +kernel, by decide +kernel⟩, by decide, by decide +kernel,
    by decide +kernel⟩
  have h : (hostPlan 208).rdN (hostLoc 256) 176 = (recorded 176 (planRecord 208 2000)).rdN 256 176 := by decide +kernel
  rw [h]; exact plan_high

/-- The window off, with its ring sizes and the parameters of the step. -/
def windowOff (crs ers : Word) (l : List Nat) : State := { given State.reset l with hcw := [(hCRS, crs), (hERS, ers)] }

theorem witness_HostCommands_waits :
    (({ taken 3 [5] with revokes := [{ frame := 5 }] } : State).txWaits .accept 5 = true ∧ (taken 1 [5]).txWaits .offer 5 = false ∧
      (taken 3 [5]).txWaits .accept 5 = false) ∧
    ((taken 16 [256]).hostOk 256 176 = true ∧ ({ taken 16 [256] with hostBad := [6] } : State).hostOk 256 176 = false) ∧
    ((asked 1 19 [] []).scrubHeld = false ∧ ({ asked 1 19 [] [] with scrubHeld := true } : State).scrubHeld = true) ∧
    ((taken 32 [0]).evHost.journal = [] ∧ (taken 32 [0]).evHost.issued ≤ 0) := by decide +kernel

theorem witness_HostCommands_registers :
    ((windowOff 16 4 [1]).param 0).testBit 0 = true ∧ ((windowOff 16 4 [1]).hc hCTL).getLsbD 0 = false ∧
    (4 ≤ wbits ((windowOff 16 4 [1]).hc hCRS) 4 0 ∧ wbits ((windowOff 16 4 [1]).hc hCRS) 4 0 ≤ 16 ∧
      4 ≤ wbits ((windowOff 16 4 [1]).hc hERS) 4 0 ∧ wbits ((windowOff 16 4 [1]).hc hERS) 4 0 ≤ 16 ∧
      wbits ((windowOff 16 4 [1]).hc hCRB) 11 0 = 0 ∧ wbits ((windowOff 16 4 [1]).hc hERB) 11 0 = 0) ∧
    (wbits ((windowOff 3 4 [1]).hc hCRS) 4 0 < 4 ∧ 16 < wbits ((windowOff 17 4 [1]).hc hCRS) 4 0) ∧
    ((windowOff 4 4 [2]).param 0).testBit 0 = false ∧
    ((asked 1 0 [] [0x1008]).hc hCTL).getLsbD 0 = true ∧ ((windowOff 4 4 [0x1038]).hc hCTL).getLsbD 0 = false ∧
    ((given State.reset [0x2000, 2, 0x200]).param 0 = 0x2000 ∧ (given State.reset [0x2000, 2, 0x200]).param 1 = 2 ∧
      ({ State.reset with hdmRegs := [(1, 0x8000000000)] } : State).hdmRegs.val 1 0 = 0x8000000000) ∧
    ((0x1018 : Nat) ∉ [0x1008, 0x1010, 0x1030, 0x1038] ∧ ((windowOff 4 4 [0x1008]).hc hCTL).getLsbD 0 = false) ∧
    (srLen 0x40 = some 1 ∧ (0x40 : Nat) < 0x1000 ∧ (0 : Nat) < 1 ∧ (1 : Nat) ≤ 1) := by decide

/-- Frame 5 lent to the host until 7 ns, at 7 ns. -/
def overrun : State :=
  { (given State.reset [5]).setFrame 5 { state := 4, borrower := 1, deadline := 7 } with dtime := [(8, 7 * 65536)] }

/-- Two acknowledgements of a revocation of frame 5 outstanding, and a cached translation of it. -/
def revoked (left : List Nat) (who : Nat) : State :=
  { given State.reset [9, who] with revokes := [{ id := 9, frame := 5, left := left }], xls := [{ page with abut := 63 }] }

/-- Device memory as the host sees it from address 0 on. -/
def hostSees (l : List Nat) (e : Frame) : State := { (given State.reset l).setFrame 5 e with hdmBase := some 0 }

theorem witness_FrameRecord :
    (∃ st, StatusIs .lend 1 8388607 1 511 { seq := 1, state := 1 } st ∧ st = 2) ∧
    (∃ s1 res, State.reset.transact .offer 1 (BitVec.ofNat 64 0x77FFFF) 0 (fun _ => .nothing) = (s1, res, true)) ∧
    (∃ s1 res, (State.reset.setFrame 0 { state := 3, borrower := 1 }).transact .recall 1 0 1000 (fun _ => .nothing) = (s1, res, false)) ∧
    ((8388608 ≤ (8388608 : Word).toNat % 2 ^ 32) ∧ (8388607 : Word).toNat % 2 ^ 32 < 8388608 ∧
      (0x2_0000_0000 : Word).toNat / 2 ^ 32 ≠ (State.reset.frame 0).seq ∧ (0x1_0000_0000 : Word).toNat / 2 ^ 32 = (State.reset.frame 0).seq ∧
      (State.reset.frame 0).bten < 256 ∧ (State.reset.frame 0).deadline < 2 ^ 40 ∧ (State.reset.frame 0).seq < 2 ^ 32) ∧
    ((revoked [63, 64] 63).revokes.find? (fun r => decide (r.id = 9)) = some { id := 9, frame := 5, left := [63, 64] } ∧
      (63 : Nat) ∈ [63, 64] ∧ (revoked [63, 64] 63).ackReady 5 63 = true ∧ [63, 64] ≠ [63] ∧ (revoked [64] 64).ackReady 5 64 = true ∧
      ({ revoked [64] 64 with hostDirty := [5 * 1024] } : State).ackReady 5 64 = false) ∧
    ((overrun.frame 5).state = 4 ∧ reached 40 (overrun.ns 8) (overrun.frame 5).deadline = true ∧ (overrun.frame 5).borrower = 1 ∧
      (State.reset.frame 0x77FFFF).state ≠ 6 ∧ (State.reset.frame 0x77FFFF).owner ≠ 2 ∧ State.reset.evHost.waiting.length < 3840) ∧
    ((hostSees [0x50000, 0] { owner := 0 }).hdmBase = some 0 ∧ (hostSees [0x50000, 0] { owner := 0 }).moving 0x50000 = false ∧
      (hostSees [0x50000, 0] { owner := 0 }).hostChk = [] ∧ (hostSees [0x50000, 0] { owner := 0 }).frameCheck 5 0 0 false = .grant false ∧
      (hostSees [0x50000, 0] { owner := 0 }).homeRuns 0x50000 = true ∧ (hostSees [0x50000, 0] { owner := 0 }).relocking ≠ some 16 ∧
      (hostSees [0x50000, 0] { owner := 0 }).hostDirty = [] ∧ ((hostSees [0x50000, 0] { owner := 0 }).frame 5).prot = false ∧
      (hostSees [0x50000, 0] { owner := 0 }).bitErr = [] ∧
      (hostSees [0x50000, 0] { owner := 0 }).srv 0xC2 0 = 0 ∧ (hostSees [0x50000, 0] { owner := 0 }).srv 0x68 0 = 0) ∧
    ({ hostSees [0x50000, 1, 0, 0xFFFFFFFFFFFFFFFF] {} with hostDirty := [0x1400] } : State).hostDirty.contains (0x50000 / 64) = true ∧
    (((revoked [63] 63).revokes.find? fun r => decide (r.id = 9)) = some { id := 9, frame := 5, left := [63] } ∧
      (revoked [63] 63).ackReady 5 63 = true ∧ State.reset.evAcc.waiting.length < 3840) ∧
    ((hostSees [0x50000, 1, 0, 0xFFFFFFFFFFFFFFFF] { owner := 0 }).param 3 = 2 ^ 64 - 1 ∧
      (hostSees [0x50000, 1] { owner := 0 }).frameCheck 5 0 0 true = .grant false) ∧
    ((hostSees [0x50000, 0] {}).frameCheck 5 0 0 false = .refuse fPERM ∧
      (hostSees [0x50000, 0] { rvk := 1 }).frameCheck 5 0 0 false = .refuse fREVOKED) := by
  refine ⟨⟨2, .inr ⟨1, (2, argBad .lend 1 511), rfl, rfl, .inr (by decide), ?_⟩, rfl⟩, ⟨_, _, rfl⟩, ⟨_, _, rfl⟩, by decide, by decide, by decide,
    by decide, by decide, by decide, by decide, by decide⟩
  intro j d hj hd
  obtain rfl : j = 0 := by omega
  injection hd with hd; subst hd; decide


theorem witness_HostCommands_writes :
    (∀ n ∈ [0x63, 0x59, 0x81, 0x84, 0x90, 0x98, 0x99, 0xC1], 0x40 ≤ n ∧ n < 0x1000 ∧ ∃ len, srLen n = some len ∧ 0 < len) ∧
    ((taken 17 []).hostOk 0 0 = true ∧ (taken 19 [0, 65536, 65532]).hostOk 0 65536 = true) ∧
    (reached 40 (({ overrun with frames := [(5, { state := 4, borrower := 2, deadline := 7 })] } : State).ns 8) 7 = true) := by
  refine ⟨?_, by decide +kernel, by decide +kernel⟩
  intro n hn
  simp only [List.mem_cons, List.not_mem_nil, or_false] at hn
  obtain rfl | rfl | rfl | rfl | rfl | rfl | rfl | rfl := hn <;> exact ⟨by decide, by decide, _, rfl, by decide⟩

/-! ### Tenants, partitions, keys and the scrub engine -/

/-- The last tenant, enabled and ACTIVE or RESETTING, with the last queue. -/
def tenanted (st : Nat) (l : List Nat) : State := (given State.reset l).setSr 0x80 255 (BitVec.ofNat 64 (2 ^ 63 + st * 2 ^ 61 + 2 ^ 48 + 4095 * 2 ^ 36))

/-- Partition 63 over cores 8188 to 8191. -/
def lastPart (l : List Nat) : State :=
  (((given State.reset l).setSr 0x88 63 0x8000000000000000).setSr 0x89 63 8188).setSr 0x8A 63 4

/-- A scrub of a list of `n` entries at frame 5, in state `st` at entry `i`. -/
def scrubbing (st i n : Nat) (marks : List (Nat × Nat)) : State :=
  { ((State.reset.setSr 0x98 0 0x50000).setSr 0x99 0 (BitVec.ofNat 64 n)).setSr 0x9B 0
      (BitVec.ofNat 64 (st * 2 ^ 62 + i * 2 ^ 24 + i)) with scrubMarked := marks }

theorem witness_TenantEvents_tenant :
    TenantFits (given State.reset [255, 0x8040000000000000 + 4032 * 2 ^ 36]) 255 (BitVec.ofNat 64 (0x8040000000000000 + 4032 * 2 ^ 36)) ∧
    ¬ TenantFits (given State.reset [255]) 255 (BitVec.ofNat 64 (0x8041000000000000)) ∧
    ((given State.reset [255]).tenEn 255 = false ∧ (BitVec.ofNat 64 0x8040000000000000).getLsbD 63 = true) ∧
    ((tenanted 1 [255, 0]).tenEn 255 = true ∧ (tenanted 1 [255, 0]).tenState 255 ≠ 2 ∧ (BitVec.ofNat 64 0).getLsbD 63 = false) ∧
    ((tenanted 2 [255]).tenState 255 = 2 ∧ (tenanted 2 [255]).tenGone 255 = true ∧ 255 ∉ (tenanted 2 [255]).sweeps) := by
  refine ⟨⟨by decide, by decide, by decide, by decide, fun u hu _ h => ?_⟩, fun h => absurd h.1 (by decide), by decide, by decide, by decide⟩
  have hall : ∀ u < 256, (given State.reset [255, 0x8040000000000000 + 4032 * 2 ^ 36]).tenEn u = false := by decide +kernel
  rw [hall u hu] at h; cases h

theorem witness_TenantEvents_partition :
    ((given State.reset [63, 2 ^ 63]).partEn 63 = false ∧ (BitVec.ofNat 64 (2 ^ 63)).getLsbD 63 = true) ∧
    ((lastPart [63, 2 ^ 62]).partEn 63 = true ∧ ((lastPart [63, 2 ^ 62]).part 63).resizing = false ∧
      (BitVec.ofNat 64 (2 ^ 62)).getLsbD 62 = true) ∧
    ((({ lastPart [63] with parts := [(63, { resizing := true, newBase := 8188, newLen := 2, leaving := [8190] })] } : State).part 63).resizing = true ∧
      ((lastPart [63]).core 8190).share = none ∧ ((lastPart [63]).core 8190).quiesce = false ∧ (lastPart [63]).launches = [] ∧
      (lastPart [63]).exclWait = []) ∧
    ((given State.reset [8191]).partOf 8191 = none ∧ 8191 ∉ (given State.reset [8191]).exclBusy) ∧
    ((lastPart [8190]).partOf 8190 = some 63 ∧ (lastPart [8190]).excl 8190 = false ∧ 8190 ∉ (lastPart [8190]).exclBusy ∧
      ((lastPart [8190]).part 63).resizing = false ∧ (lastPart [8190]).member 63 8190 = true) ∧
    ((({ lastPart [8190] with parts := [(63, { resizing := true })] } : State).part 63).resizing = true ∧
      ({ lastPart [8190] with parts := [(63, { resizing := true })] } : State).partOf 8190 = some 63) ∧
    ((lastPart [63, 0]).partEn 63 = true ∧ (BitVec.ofNat 64 0).getLsbD 63 = false ∧ (BitVec.ofNat 64 (2 ^ 62)).getLsbD 63 = false) ∧
    (8190 ∈ ({ lastPart [8190] with exclBusy := [8190] } : State).exclBusy ∧ ((lastPart [8190]).core 8190).share = none ∧
      ((lastPart [8190]).core 8190).quiesce = false ∧ (lastPart [8190]).launches = [] ∧ (lastPart [8190]).exclWait = []) := by decide +kernel

theorem witness_TenantEvents_keys :
    ((({ given State.reset [255] with keys := [(255, { loaded := true })] } : State).keys.val 255 {}).loaded = true) ∧
    (((given State.reset [256]).keys.val (256 % 256) {}).loaded = false ∧ keyOf (given State.reset [256]) 0 = keyOf (given State.reset [256]) 4) ∧
    (keyOf { given State.reset [0] with keyData := [(7, 1)] } 0 ≠ keyOf { given State.reset [0] with keyData := [(7, 1)] } 4) := by
  decide

theorem witness_TenantEvents_scrub :
    ((scrubbing 0 0 1 []).srf 0x9B 0 63 62 = 0 ∧ (scrubbing 3 0 1 []).srf 0x9B 0 63 62 = 3 ∧ (scrubbing 0 0 1 []).srf 0x99 0 23 0 = 1 ∧
      (scrubbing 0 0 8388608 []).srf 0x99 0 23 0 = 8388608 ∧
      ∀ i < 4 * 1, ListFrame (scrubbing 0 0 1 []) ((scrubbing 0 0 1 []).srf 0x98 0 47 16 + i / 65536)) ∧
    ¬ ((scrubbing 1 0 1 []).srf 0x9B 0 63 62 = 0 ∨ (scrubbing 1 0 1 []).srf 0x9B 0 63 62 = 3) ∧
    ((scrubbing 1 1 2 []).srf 0x9B 0 63 62 = 1 ∧ (scrubbing 1 1 2 []).scrubHeld = false ∧ (scrubbing 1 1 2 []).bitErr = [] ∧
      (scrubbing 1 1 2 []).srf 0x9B 0 47 24 < (scrubbing 1 1 2 []).srf 0x99 0 23 0) ∧
    ((scrubbing 2 1 2 [(1, 7)]).srf 0x9B 0 63 62 = 2 ∧ (scrubbing 2 1 2 [(1, 7)]).srf 0x9B 0 23 0 < (scrubbing 2 1 2 [(1, 7)]).srf 0x99 0 23 0 ∧
      (scrubbing 2 1 2 [(1, 7)]).scrubMarked.find? (fun m => decide (m.1 = (scrubbing 2 1 2 [(1, 7)]).srf 0x9B 0 23 0)) = some (1, 7) ∧
      ((scrubbing 2 1 2 [(1, 7)]).frame 7).state ≠ 6 ∧ ∀ r ∈ (scrubbing 2 1 2 [(1, 7)]).revokes, r.frame ≠ 7) ∧
    ((scrubbing 2 0 1 []).scrubMarked.find? (fun m => decide (m.1 = 0)) = none) := by
  unfold ListFrame; decide


theorem witness_TenantEvents_waits :
    (({ lastPart [8190] with exclWait := [(8190, true)] } : State).exclWaits 8190 = true ∧ (lastPart [8190]).exclWaits 8190 = false ∧
      ((given State.reset [8191]).exclWaits 8191 = false)) ∧
    ((({ lastPart [63, 2 ^ 62] with parts := [(63, { resizing := true })] } : State).part 63).resizing = true ∧
      (BitVec.ofNat 64 (({ lastPart [63, 2 ^ 62] with parts := [(63, { resizing := true })] } : State).param 1)).getLsbD 62 = true) ∧
    (({ tenanted 2 [255] with cores := [(0, { retain := some { tenant := 255 } })] } : State).tenGone 255 = true ∧
      ((({ tenanted 2 [255] with cores := [(0, { retain := some { tenant := 255 } })] } : State).core 0).retain = some { tenant := 255 })) ∧
    (∀ used : Prop, (used ↔ ((lastPart [63, 0]).resident 63).isSome = true) → ¬ used) := by
  refine ⟨by decide, by decide, by decide +kernel, fun used h hu => ?_⟩
  exact absurd (h.1 hu) (by decide)

/-! ### The hardware scheduler -/

/-- An entry of a ring (R108) for partition 63, of `g` groups, whose descriptor lies at 0. -/
def ringEntry (g : Nat) : Nat := mkRec [(8, 2, 0xFFFF), (10, 2, 0xFFFF), (12, 1, 63), (13, 1, 1), (14, 1, 63), (15, 1, 2), (32, 4, g), (36, 1, 2), (37, 1, 2), (38, 1, 13)]

/-- Queue 4095 of tenant 255 in the host's memory, with one entry announced for partition 63, which die 4 leads. The
descriptor of one routine lies in frame 5. -/
def scheduled (g : Nat) (l : List Nat) : State :=
  ((((((({ lastPart l with
    parts := [(63, { leader := some 4 })]
    xls := [{ page with abut := 32, tenant := 255 }] } : State).setSr 0x80 255 (BitVec.ofNat 64 (2 ^ 63 + 2 ^ 61 + 2 ^ 48 + 4095 * 2 ^ 36))).setSr 0x82 255
    0x8000000000000000).setSr 0xA0 4095 (BitVec.ofNat 64 (2 ^ 63 + 2 ^ 61 + 4 * 2 ^ 48 + 255 * 2 ^ 24 + 2 ^ 15))).wrN (0x7FF80 + 8) 8 1).wrN
    (hostLoc 0) 64 (ringEntry g)).wrN 0x50000 24 (mkRec [(16, 1, 1)]))

/-- A launch of tenant 255 on partition 63, and its share on core 8188. -/
def launch : Launch := { q := 4095, lhead := 7, part := 63, tenant := 255, entry := ringEntry 1, members := [8188], where_ := [8188], dies := 16 }
def launched (l : Launch) (c : Core) (ps : List Nat) : State := { lastPart ps with launches := [l], cores := [(8188, c)], parts := [(63, { leader := some 4 })] }
def oneShare (phase next : Nat) : Share := { q := 4095, lhead := 7, part := 63, tenant := 255, l := 1, g := 1, phase := phase, next := next }

theorem witness_SchedulerEvents_queues :
    (QueueFits (scheduled 1 []) 4095 (BitVec.ofNat 64 (2 ^ 63 + 16 * 2 ^ 48 + 255 * 2 ^ 24)) ∧
      ¬ QueueFits (scheduled 1 []) 4094 (BitVec.ofNat 64 (2 ^ 63 + 16 * 2 ^ 48 + 255 * 2 ^ 24)) ∧
      (scheduled 1 []).qEn 4094 = false ∧ (scheduled 1 []).qEn 4095 = true) ∧
    (((scheduled 1 []).srv 0x80 255).getLsbD 63 = true ∧ 0 < (scheduled 1 []).srf 0x80 255 54 48 ∧
      4095 = (scheduled 1 []).srf 0x80 255 47 36 + 0) ∧
    (bellOf (scheduled 1 []) 4095 0 = 2 ∧ bellOf (scheduled 1 []) 4095 17 = 1 ∧ bellOf (scheduled 1 []) 4095 16 = 0 ∧
      Memory.wf (scheduled 1 []).mem = true ∧ Plain (scheduled 1 []) (block (scheduled 1 []) 4095 + 8) 8) ∧
    ((given State.reset [65535, 7]).param 0 < 65536) := by
  unfold QueueFits Plain; decide +kernel

theorem witness_SchedulerEvents_dequeue :
    (((scheduled 0 [63]).leads 63).getD 0 = 4 ∧
      ((((scheduled 0 [63]).heads 4 63).2.find? fun h => decide (h.st ≠ 0)).map fun h =>
        (((((scheduled 0 [63]).heads 4 63).1.takeQueue 4 h.q).finishEntry 4 h.q h.e h.st 0
          ((((scheduled 0 [63]).heads 4 63).1.takeQueue 4 h.q).headSlot h.q h.n)).2)) = some true) ∧
    ((scheduled 0 [63]).served = [4095] ∧ (scheduled 0 [63]).qLoc 4095 = true ∧
      (scheduled 0 [63]).hostOk ((scheduled 0 [63]).slotAddr 4095 (headOf (scheduled 0 [63]) 4095)) 64 = true ∧
      badEntry ((scheduled 0 [63]).rdN (hostLoc ((scheduled 0 [63]).slotAddr 4095 (headOf (scheduled 0 [63]) 4095))) 64) = true ∧
      recField ((scheduled 0 [63]).rdN (hostLoc ((scheduled 0 [63]).slotAddr 4095 (headOf (scheduled 0 [63]) 4095))) 64) 12 1 = 63 ∧
      (scheduled 0 [63]).leads 63 ≠ none ∧ Plain (scheduled 0 [63]) (block (scheduled 0 [63]) 4095) 8 ∧ Memory.wf (scheduled 0 [63]).mem = true) ∧
    ((((scheduled 1 [63]).heads 4 63).2.map fun h => (h.q, h.st, h.due)) = [(4095, 0, true)] ∧ ((scheduled 1 [63]).leads 63).isSome = true ∧
      (((scheduled 1 [63]).heads 4 63).1.resident 63).isNone = true ∧ (((scheduled 1 [63]).heads 4 63).1.part 63).resizing = false ∧
      ((scheduled 1 [63]).heads 4 63).1.launches = [] ∧ Memory.wf ((scheduled 1 [63]).heads 4 63).1.mem = true ∧
      ((scheduled 1 [63]).heads 4 63).1.owner 63 ((((scheduled 1 [63]).heads 4 63).2.filter fun h => h.due).map fun h =>
        ((scheduled 1 [63]).heads 4 63).1.qTen h.q) = some 255) ∧
    ((((scheduled 1 [63]).heads 4 63).1.part 63).leaving = [] ∧
      (((scheduled 1 [63]).heads 4 63).2.map fun h => block ((scheduled 1 [63]).heads 4 63).1 h.q) = [0x7FF80] ∧
      Plain ((scheduled 1 [63]).heads 4 63).1 0x7FF80 128) ∧
    ((({ scheduled 1 [63] with parts := [] } : State).leads 63).isNone = true) := by unfold Plain; decide +kernel

theorem witness_SchedulerEvents_leader :
    ((({ scheduled 1 [63] with parts := [] } : State).srv 0x88 63).getLsbD 63 = true ∧
      (({ scheduled 1 [63] with parts := [] } : State).part 63).leader ≠ ({ scheduled 1 [63] with parts := [] } : State).leaderDie 63) ∧
    ((launched launch {} [63, 4]).resident 63 = some launch ∧ launch.dies.testBit 4 = true ∧ launch.acked.testBit 4 = false ∧
      Memory.wf (launched launch {} [63, 4]).mem = true ∧
      (({ launched launch {} [63, 4] with parts := [] } : State).launches.filter fun l => decide (l.part = 63)) = [launch] ∧
      Plain (launched launch {} [63, 4]) (block (launched launch {} [63, 4]) launch.q + 16) 8 ∧
      (launched launch {} [63, 4]).rdN (block (launched launch {} [63, 4]) launch.q + 16) 8 % 2 ^ 32 ≠ launch.lhead ∧
      ((launched launch {} [63, 4]).wrN (0x7FF80 + 16) 8 7).rdN 0x7FF90 8 % 2 ^ 32 = launch.lhead) ∧
    (({ launched launch {} [63] with parts := [] } : State).served = [] ∧ ({ launched launch {} [63] with parts := [] } : State).leaderDie 63 = some 4 ∧
      ({ launched launch {} [63] with parts := [] } : State).rdN (block ({ launched launch {} [63] with parts := [] } : State) 4095) 8 / 2 ^ 61 ≠ 4 ∧
      Plain ({ launched launch {} [63] with parts := [] } : State) (block ({ launched launch {} [63] with parts := [] } : State) 4095) 8) := by
  unfold Plain; decide +kernel

theorem witness_SchedulerEvents_share :
    ((((launched { launch with acked := 16 } {} [8188]).core 8188).quiesce = false ∧ ((launched { launch with acked := 16 } {} [8188]).core 8188).share = none) ∧
      (launched { launch with acked := 16 } {} [8188]).toBegin 8188 = some ({ launch with acked := 16 }, 0) ∧
      ((launched { launch with acked := 16 } {} [8188]).core 8188).retain = none ∧ (launched { launch with acked := 16 } {} [8188]).leavingCore 8188 = false ∧
      ((launched { launch with acked := 16 } {} [8188]).core 8188).replay = [] ∧ launch.early = []) ∧
    (((launched launch { share := some (oneShare 1 0) } [8188]).core 8188).share = some (oneShare 1 0) ∧ (oneShare 1 0).next < (oneShare 1 0).count ∧
      ∀ k < 4, ((launched launch { share := some (oneShare 1 0) } [8188]).thr 8188 k).role = .none ∧
        ((launched launch { share := some (oneShare 1 0) } [8188]).thr 8188 k).st = .free) ∧
    (((launched launch { share := some (oneShare 1 1), threads := [(3, { role := .group 0 1 })] } [8188]).thr 8188 3).role = .group 0 1 ∧
      ((launched launch { share := some (oneShare 1 1), threads := [(3, { role := .group 0 1 })] } [8188]).thr 8188 3).st = .free ∧
      ∀ i < 3, ((launched launch { share := some (oneShare 1 1), threads := [(3, { role := .group 0 1 })] } [8188]).thr 8188 i).role = .none) ∧
    ((launched launch { share := some (oneShare 2 1) } [8188]).launchOf (oneShare 2 1) = some launch ∧
      ((launched launch { share := some (oneShare 2 1) } [8188]).barMembers 8188 (oneShare 2 1) (oneShare 2 1).lvl).map Prod.fst = [0] ∧
      (launched launch { share := some (oneShare 2 1) } [8188]).launchArrived launch ((launched launch { share := some (oneShare 2 1) } [8188]).scopeAt 8188 (oneShare 2 1).lvl) 0 = true ∧
      (launched launch { share := some (oneShare 1 1) } [8188]).launchArrived launch ((launched launch { share := some (oneShare 1 1) } [8188]).scopeAt 8188 (oneShare 1 1).lvl) 0 = false) ∧
    ((launched launch { share := some (oneShare 4 1) } [8188]).coreDrained 8188 = true ∧
      ((launched launch { share := some (oneShare 4 1) } [8188]).core 8188).busySlots = [] ∧
      ((launched launch { share := some (oneShare 4 1) } [8188]).core 8188).haltK = none ∧
      ((launched launch { share := some (oneShare 4 1), haltK := some (0, 3) } [8188]).core 8188).haltK = some (0, 3) ∧
      0 < ((launched launch { share := some (oneShare 4 1), haltK := some (0, 3) } [8188]).setSr 0x80 255 0x8001000000000000).srf 0x80 255 54 48) ∧
    (((launched launch { retain := some {} } [8188]).core 8188).retain = some {} ∧
      reached 48 ((launched launch { retain := some {} } [8188]).ns (dieOf 8188)) 0 = true) ∧
    (((launched launch { threads := [(3, { st := .active, limit := 1 })] } [8188, 3]).thr 8188 3).st = .active ∧
      ((launched launch { threads := [(3, { st := .active, limit := 1 })] } [8188, 3]).thr 8188 3).limit ≠ 0) := by decide +kernel

theorem witness_SchedulerEvents_ends :
    ((scheduled 1 []).qLoc 4095 = true ∧ Memory.wf (scheduled 1 []).mem = true ∧
      (scheduled 1 []).hostOk (((scheduled 1 []).headSlot 4095 0).addr + 56) 8 = true ∧
      ((scheduled 1 []).finishEntry 4 4095 (ringEntry 1) 1 0 ((scheduled 1 []).headSlot 4095 0)).2 = true ∧ recField (ringEntry 1) 10 2 = 0xFFFF) ∧
    (((scheduled 1 []).setSr 0x80 255 (BitVec.ofNat 64 (2 ^ 63 + 2 ^ 61 + 2 ^ 48 + 4095 * 2 ^ 36 + 2 ^ 27 + 255 * 2 ^ 19))).fcOf 255 255 = some 65535) ∧
    ((launched { launch with ended := [0] } {} [63]).leads 63 = some 4 ∧ ({ launch with ended := [0] } : Launch).stopping ≤ 1 ∧
      ({ launch with ended := [0] } : Launch).ended.length = launch.members.length ∧
      ((launched { launch with ended := [0], loc := true } {} [63]).finishEntry 4 4095 launch.entry 1 0 ⟨255, 0, true, 0⟩).2 = true ∧
      (launched { launch with ended := [0], loc := true } {} [63]).hostOk 56 8 = true) ∧
    ((launched { launch with stopping := 2 } {} [63]).noShares { launch with stopping := 2 } = true ∧
      (launched { launch with stopping := 1 } {} [63]).noShares { launch with stopping := 1 } = true ∧ launch.ended.length ≠ launch.members.length) ∧
    (({ launched launch {} [63] with parts := [(63, { leader := some 4, sliceEnd := some 0, owner := 255 })] } : State).part 63).sliceEnd = some 0 ∧
    reached 48 ((launched launch {} [63]).ns 8) 0 = true ∧ launch.stopping = 0 ∧
    ((((({ scheduled 1 [63] with launches := [{ launch with tenant := 254 }] } : State).heads 4 63).2.filter fun h => h.due && decide (h.st = 0)).map fun h =>
      (({ scheduled 1 [63] with launches := [{ launch with tenant := 254 }] } : State).heads 4 63).1.qTen h.q) = [255]) := by decide +kernel

/-- Tenant 255 with a stage-2 table whose first GiB is the device's second, writable or not. -/
def saving (w : Nat) (s : State) : State :=
  ((s.setSr 0x81 255 0x100001).wrN 0x100000 8 (0x110000 + 1)).wrN 0x110000 8 (0x40000000 + 7 + w)

/-- Core 8188 stopped for the reason `why`, with its one share. -/
def stopped (why : Nat) : State := launched { launch with part := 0, stopping := why } { quiesce := true, share := some { oneShare 1 1 with part := 0 } } [8188]

/-- The saved share that core 8188 restores, its record's header in memory. -/
def theSaved : Saved := { q := 4095, lhead := 7, tenant := 255, part := 0, k := 0, host := 8188, core := { share := some { oneShare 1 1 with part := 0 } } }
def restoring (m : Nat) : State :=
  ({ saving 8 (launched { launch with part := 0 } {} [8188]) with saved := [theSaved] } : State).wrN 0x40000000 12
    (mkRec [(0, 4, m), (4, 1, 255), (6, 2, 4095), (8, 4, 7)])

theorem witness_SchedulerEvents_saves :
    (((stopped 1).core 8188).quiesce = true ∧ (stopped 1).quiet 8188 = true ∧ (stopped 1).quiesceReason 8188 { oneShare 1 1 with part := 0 } = 1 ∧
      (stopped 4).quiesceReason 8188 { oneShare 1 1 with part := 0 } = 4) ∧
    (((saving 8 (stopped 1)).savePages 255 0 0 true 8).2.isSome = true ∧
      (((saving 8 (stopped 1)).savePages 255 0 0 true 8).1.core 8188).share = some { oneShare 1 1 with part := 0 } ∧
      (((saving 8 (stopped 1)).savePages 255 0 0 true 8).2.getD []).all (fun p => !((saving 8 (stopped 1)).savePages 255 0 0 true 8).1.moving p.loc) = true) ∧
    ((saving 0 (stopped 1)).savePages 255 0 0 true 8).2 = none ∧
    (((restoring 0x53563031).core 8188).share = none ∧ ((restoring 0x53563031).core 8188).quiesce = false ∧ (restoring 0x53563031).leavingCore 8188 = false ∧
      (restoring 0x53563031).toRestore 8188 = some theSaved ∧
      (((restoring 0x53563031).savePages 255 0 0 false 8).2.map fun pages =>
        (pages.all fun p => !((restoring 0x53563031).savePages 255 0 0 false 8).1.moving p.loc && !((pages.foldl State.readPage ((restoring 0x53563031).savePages 255 0 0 false 8).1).pagePoison p) &&
            headerOk theSaved ((pages.foldl State.recOpen (pages.foldl State.readPage ((restoring 0x53563031).savePages 255 0 0 false 8).1)).recRead pages 0 0x100))) = some true ∧
      theSaved.core.share = some { oneShare 1 1 with part := 0 }) ∧
    (((launched launch { share := some (oneShare 2 1), threads := [(3, { saved := true })] } [8188]).core 8188).replay = [] ∧
      ∃ p ∈ ((launched launch { share := some (oneShare 2 1), threads := [(3, { saved := true })] } [8188]).core 8188).threads, p.2.saved = true) ∧
    (({ restoring 0 with mem := [] } : State).savePages 255 0 0 false 8).2 = none ∧
    ((launched { launch with members := [8188, 8189], where_ := [8188, 8188] } { share := some (oneShare 2 1) } [8188]).unbegun 8188
        { launch with members := [8188, 8189], where_ := [8188, 8188] } = some 1) := by decide +kernel


theorem witness_SchedulerEvents_blocks :
    (BlockReads (scheduled 1 []) 4095 ∧ BlockReads ((scheduled 1 [63]).heads 4 63).1 4095 ∧ BlockReads (scheduled 0 [63]) 4095 ∧
      BlockReads (launched launch {} [63, 4]) launch.q) ∧
    (({ scheduled 1 [] with poison := [2047] } : State).bitErr = [] ∧
      ({ scheduled 1 [] with poison := [2047] } : State).poisoned (block ({ scheduled 1 [] with poison := [2047] } : State) 4095) = true ∧
      ({ scheduled 1 [] with poison := [2047] } : State).qEn 4095 = true ∧
      ({ scheduled 1 [] with poison := [2047] } : State).srf 0x80 (({ scheduled 1 [] with poison := [2047] } : State).srf 0xA0 4095 31 24) 62 61 ≠ 2) := by
  unfold BlockReads; decide +kernel

/-- Partition 63 with one saved launch of tenant 255, and no queue with work. -/
def savedOne : State := (launched { launch with saved := true } {} [63]).setSr 0x80 255 (BitVec.ofNat 64 (2 ^ 63 + 2 ^ 61))

theorem witness_SchedulerEvents_resumes :
    ((savedOne.heads 4 63).2 = [] ∧ (savedOne.leads 63).isSome = true ∧ ((savedOne.heads 4 63).1.resident 63).isNone = true ∧
      ((savedOne.heads 4 63).1.launches.filter fun l => decide (l.part = 63 ∧ l.saved = true ∧
        (savedOne.heads 4 63).1.srf 0x80 l.tenant 62 61 = 1)) = [{ launch with saved := true }]) ∧
    (∀ k < 1, k ∈ ({ launch with saved := true, ended := [0] } : Launch).ended) ∧
    (launched { launch with saved := true } {} [8188]).mayHold { launch with saved := true } 8188 = true ∧
    ((launched { launch with stopping := 1 } { share := some (oneShare 4 1), haltK := some (0, 3) } [8188]).launchOf (oneShare 4 1) =
        some { launch with stopping := 1 } ∧
      ((launched launch { share := some (oneShare 4 1), haltK := some (0, 3) } [8188]).setSr 0x80 255 0xC001000000000000).srf 0x80 255 62 61 = 2 ∧
      ((launched launch { share := some (oneShare 4 1), haltK := some (0, 3) } [8188]).launchOf (oneShare 4 1)) = some launch ∧
      launch.stopping = 0) ∧
    ((∀ e ∈ ([{ i := .vfadd 0 1 2 0 0 0, slot := 3 }] : List DqEntry), e.slot = 3 ∧ e.orphan = false ∧ (fpDest e.i).isSome = true) ∧
      (∀ e ∈ ([{ i := .vfadd 0 1 2 0 0 0, slot := 3, orphan := true }] : List DqEntry), e.slot = 3 → e.orphan = true ∨ fpDest e.i = none)) ∧
    (∃ v ∈ (restoring 0).saved, v.host = 8188 ∧ v.q = (oneShare 2 1).q ∧ v.lhead = (oneShare 2 1).lhead) ∧
    reached 48 ((launched launch {} [8188]).ns (dieOf 8188)) ((oneShare 1 1).started + 100000) = false := by decide +kernel

/-! ### Accesses on their way, side logs, messages, copies and barriers -/

/-- One access of core 0 that has entered its ordering point, at frame 5. -/
def atHome (a : Acc) (c err : Nat) : State :=
  { given (user {}) [a.id, c, err] with accs := [{ a with loc := 0x50000, st := .entered 0 }] }
theorem plain (s : State) (a : Acc) (h : s.acc? a.id = some a ∧ s.homeTurn a = true ∧ isHbm a.loc = true ∧ (s.frame (a.loc / 65536)).prot = false ∧
    a.loc % 65536 + a.size ≤ 65536 ∧ s.poison.contains (a.loc / 256) = false ∧ s.watchedAt a.loc = false ∧ a.rel = false)
    (hc : s.bitErr = [] ∧ s.srv 0xC2 0 = 0 ∧ s.srv 0x68 0 = 0) (hm : Memory.wf s.mem = true)
    (hl : ∀ b ∈ s.accs, b.h = a.h → b.slot = a.slot → a.id < b.id → b.rel = false) : PlainAtHome s a :=
  ⟨h.1, h.2.1, h.2.2.1, h.2.2.2.1, h.2.2.2.2.1, h.2.2.2.2.2.1, h.2.2.2.2.2.2.1, h.2.2.2.2.2.2.2, hc, hm, hl⟩

/-- The access as it stands at its home. -/
def arrived (a : Acc) : Acc := { a with loc := 0x50000, st := .entered 0 }

theorem witness_AccessEvents_home :
    (∀ k ∈ ([.load, .store, .amo 0 true, .amo 10 true, .ldf, .ldfE] : List AccKind),
      PlainAtHome (atHome { id := 5, kind := k, size := 4, ent := if k = .store then 0 else 6 } 0 0)
        (arrived { id := 5, kind := k, size := 4, ent := if k = .store then 0 else 6 })) ∧
    (newContents (.amo 10 true) 10 2 0 0 ≤ 0xFFFF ∧ (10 : Nat) ≤ 10 ∧ (2 : Nat) = 2) ∧
    ((({ atHome { id := 5, kind := .ldf, size := 4 } 0 0 with fe := [(0x50000 / 4, true)] } : State).allFull 0x50000 4 = true) ∧
      (atHome { id := 5, kind := .ldf, size := 4 } 0 0).allFull 0x50000 4 = false ∧
      ((atHome { id := 5, kind := .ldf, size := 4 } 0 0).accs.filter fun b => decide (b.st = .waiting ∧ (atHome { id := 5, kind := .ldf, size := 4 } 0 0).homeOf b.loc = (atHome { id := 5, kind := .ldf, size := 4 } 0 0).homeOf 0x50000)).length < 2048) ∧
    (({ given (user {}) [5] with accs := [{ id := 5 }] } : State).acc? 5 = some { id := 5 } ∧
      ({ given (user {}) [5] with accs := [{ id := 5 }] } : State).homeTurn { id := 5 } = false) ∧
    (isRemote 0x800000000000 = true ∧ ({ given (user {}) [5] with accs := [{ id := 5, kind := .store, loc := 0x800000000000, st := .entered 0 }] } :
      State).homeTurn { id := 5, kind := .store, loc := 0x800000000000, st := .entered 0 } = true ∧
      ({ given (user {}) [5] with accs := [{ id := 5, kind := .store, loc := 0x800000000000, st := .entered 0 }] } : State).routed = false ∧
      ({ given (user {}) [5, 0] with ports := [(0, { state := 2 })] } : State).routed = true) ∧
    ((atHome { id := 5, size := 4 } 1 0).param 1 = 1 ∧ (atHome { id := 5, size := 4 } 1 0).noSym.contains (0x50000 / 256) = false ∧
      (atHome { id := 5, size := 4 } 1 0).bitErr = [] ∧ (atHome { id := 5, size := 4 } 1 0).watchedAt 0x50000 = false ∧
      (2 : Nat) ≤ (atHome { id := 5, size := 4 } 2 0).param 1 ∧ (atHome { id := 5, size := 4 } 2 0).param 2 ≠ 1) := by
  refine ⟨?_, by decide, by decide, by decide, by decide, by decide⟩
  intro k hk
  simp only [List.mem_cons, List.not_mem_nil, or_false] at hk
  obtain rfl | rfl | rfl | rfl | rfl | rfl := hk <;> exact plain _ _ (by decide +kernel) (by decide) (by decide) (by decide)

/-- A performed load and a special-function result on their way to the entry at place 0. -/
def returning (acq : Bool) : State :=
  { given (user { pend := [{ id := 6, missing := 1 }] }) [0, 0, 0] with
    accs := [{ id := 5, ent := 6, size := 8, acq := acq, st := .performed 7 }] }
def functionResult : State :=
  { given (user { pend := [{ id := 6, missing := 1 }] }) [0, 0, 0] with quads := [(0, { sfq := [{ ent := 6, value := 7 }] })] }

theorem witness_AccessEvents_results :
    (((returning true).thr 0 0).trap.act = false ∧ ((returning true).thr 0 0).pend[0]? = some { id := 6, missing := 1 } ∧
      ((returning true).accs.find? fun a => decide (a.ent = 6) && (match a.st with | .performed _ => true | _ => false)) =
        some { id := 5, ent := 6, size := 8, acq := true, st := .performed 7 } ∧ isHbm 0 = true ∧
      ((returning false).accs.find? fun a => decide (a.ent = 6) && (match a.st with | .performed _ => true | _ => false)) =
        some { id := 5, ent := 6, size := 8, st := .performed 7 }) ∧
    ((∀ a ∈ functionResult.accs, a.ent ≠ 6) ∧ ((functionResult.quad (0 / 4)).sfq.find? fun r => decide (r.ent = 6)) = some { ent := 6, value := 7 }) ∧
    (({ given (user {}) [5] with accs := [{ id := 5, kind := .ldf, st := .held }] } : State).acc? 5 = some { id := 5, kind := .ldf, st := .held } ∧
      ({ given (user {}) [5] with accs := [{ id := 5, kind := .ldf, st := .held }] } : State).moving 0 = false) := by decide

/-- A core with one store in its side log and one that waits for room, its page cached or not. -/
def logged (xls : List Xl) : State :=
  { given (user {} { slog := [{ line := 0, accs := [{ id := 5, kind := .store, size := 8 }] }]
                     slogHeld := [{ id := 6, kind := .store, size := 8, va := 64 }] }) [0] with xls := xls }

theorem witness_AccessEvents_logs :
    ((given (user {}) [0]).core 0).slog = [] ∧
    (((logged [page]).core 0).slog = [{ line := 0, accs := [{ id := 5, kind := .store, size := 8 }] }] ∧
      SeenAt (logged [page]) 0 0 0 0 0x50000 ∧ (logged [page]).accs = [] ∧ (logged [page]).bitErr = [] ∧
      Memory.wf (logged [page]).mem = true) ∧
    (∃ s1 c, (logged []).translate 0 0 0 0 AccKind.store.need = (s1, .error c) ∧ s1.cores = (logged []).cores) ∧
    (((logged []).core 0).slogHeld = [{ id := 6, kind := .store, size := 8, va := 64 }] ∧ ((logged []).core 0).slog.length < 32) := by
  refine ⟨by decide, ⟨by decide, ⟨by decide, by unfold Clear; decide, by decide, by decide, page, by decide⟩, by decide⟩, ⟨_, _, rfl, rfl⟩, by decide⟩

/-- A message offered at channel 7 of slot 0 of core 0. -/
def offering : State := given (user { offers := [(7, [{ payload := 9 }])], chans := [(7, [{}, {}, {}])] }) [0, 0, 7]

/-- A copy of one row of 4 bytes in the local store of core 0. -/
def theCopy : Copy := { id := 4, src := 0xFFFFFF0000000000, dst := 0xFFFFFF000000FFFC, rows := 1, rbytes := 4, tag := 63 }
def copying : State := given (user {} { copies := [theCopy] }) [0, 63]

/-- A copy out of device memory. -/
def fetched : Copy := { theCopy with src := 0 }
def fetching : State := { given (user {} { copies := [fetched] }) [0, 63] with xls := [page] }

/-- A copy out of a page that may not be read. -/
def refused : Copy := { theCopy with src := 0 }
def refusing : State := { given (user {} { copies := [refused] }) [0, 63] with xls := [{ page with rd := false }] }

/-- Whether the rows of a copy end well. -/
def rowsOk (r : RowSt × Nat) : Bool := match r.1 with
  | .ok _ => true
  | _ => false
theorem rowsOk_of (r : RowSt × Nat) (h : rowsOk r = true) : ∃ s n, r = (.ok s, n) := by
  obtain ⟨x, n⟩ := r
  cases x with
  | ok s => exact ⟨s, n, rfl⟩
  | _ => cases h

/-- Whether they are abandoned. -/
def rowsQuit (r : RowSt × Nat) : Bool := match r.1 with
  | .quit _ _ _ => true
  | _ => false
theorem rowsQuit_of (r : RowSt × Nat) (h : rowsQuit r = true) : ∃ s c va n, r = (.quit s c va, n) := by
  obtain ⟨x, n⟩ := r
  cases x with
  | quit s c va => exact ⟨s, c, va, n, rfl⟩
  | _ => cases h

/-- A share alone in its launch whose one live thread has arrived at level `lv`, or not. -/
def arriving (l : List Arrival) : State :=
  given (user { role := .group 0 0, arrivals := l } { share := some { q := 1, lhead := 2, l := 1, phase := 1 } }) [0, 1]

theorem witness_AccessEvents_cores :
    ((offering.thr 0 0).offers.val 7 [] = [{ payload := 9 }] ∧ ((offering.thr 0 0).chans.val 7 []).length < 4 ∧
      ∀ e ∈ (offering.thr 0 0).pend ++ (offering.thr 0 0).trap.pend, e.chan = some 7 → e.missing = 0) ∧
    (theCopy.row = 0 ∧ theCopy.rows = 1 ∧ theCopy.rbytes = 4 ∧ Calm copying ∧ WordAt copying 0 theCopy theCopy.src (lsLoc 0 0) ∧
      WordAt copying 0 theCopy theCopy.dst (lsLoc 0 65532)) ∧
    (PlainCopy copying 0 theCopy ∧ (∃ s1 r, copying.copyRows 0 0 theCopy 0 1 = (.ok s1, r)) ∧ Memory.wf copying.mem = true ∧
      spaceOf theCopy.src = .ls 0 ∧ spaceOf theCopy.dst = .ls 65532) ∧
    WordAt fetching 0 fetched fetched.src 0x50000 ∧
    (PlainCopy refusing 0 refused ∧ ∃ s1 code va r, refusing.copyRows 0 0 refused 0 1 = (.quit s1 code va, r)) ∧
    ((arriving [{ level := 1 }]).barMembers 0 { q := 1, lhead := 2, l := 1, phase := 1 } 1 = [(0, 0)] ∧
      (arriving []).coreArrived { q := 1, lhead := 2, l := 1, phase := 1 } 1 (0, 0) = false ∧
      (arriving [{ level := 1 }]).coreArrived { q := 1, lhead := 2, l := 1, phase := 1 } 1 (0, 0) = true ∧
      ((arriving [{ level := 1 }]).core 0).arrivalsAt 1 = [{ level := 1 }] ∧
      ((arriving [{ level := 1 }]).core 0).holds { q := 1, lhead := 2, l := 1, phase := 1 } 0 = true) := by
  refine ⟨by decide, ⟨rfl, rfl, rfl, by unfold Calm; decide, .inl ⟨0, by decide⟩, .inl ⟨65532, by decide⟩⟩,
    ⟨by unfold PlainCopy; decide, rowsOk_of _ (by decide), by decide⟩,
    .inr ⟨by decide, by decide, by unfold Clear; decide, by decide, by decide, page, by decide⟩,
    ⟨by unfold PlainCopy; decide, rowsQuit_of _ (by decide)⟩, by decide⟩


/-- A remote access at the requester's port, sent or not, with a port up or none. -/
def farAcc (k : AccKind) (gone : Bool) : Acc := { id := 5, kind := k, size := 4, ent := if k = .store then 0 else 6, loc := 0x800000000000, st := .entered 0, gone := gone }
def far (k : AccKind) (gone up : Bool) (refuse : Nat) : State :=
  { given (user { pend := [{ id := 6, missing := 1 }] }) [5, refuse] with
    accs := [farAcc k gone], ports := if up then [(0, { state := 2 })] else [] }

/-- LDF sent back from a page that moved, its page now cached. -/
def sentBack : State := { given (user {}) [5] with accs := [{ id := 5, kind := .ldf, size := 4, st := .held }], xls := [page] }

theorem witness_AccessEvents_remote :
    (∀ g up r, (far .load g up r).acc? 5 = some (farAcc .load g)) ∧
    (∀ g ∈ [false, true], ∀ up ∈ [false, true], ∀ r ∈ [0, 1], (far .load g up r).homeTurn (farAcc .load g) = true ∧
      (far .store g up r).homeTurn (farAcc .store g) = true ∧ (far .load g up r).routed = up) ∧
    (isRemote (farAcc .load false).loc = true ∧ (farAcc .load true).kind.returns = true ∧ (farAcc .load true).ent ≠ 0 ∧
      (farAcc .store false).kind.returns = false ∧ (farAcc .store false).ent = 0 ∧ (farAcc .store false).gone = false) ∧
    (sentBack.acc? (sentBack.param 0) = some { id := 5, kind := .ldf, size := 4, st := .held } ∧ sentBack.moving 0 = false ∧
      SeenAt sentBack 0 0 0 0 0x50000) ∧
    (({ sentBack with mig := some { len := 65536, moving := true } } : State).acc? 5 = some { id := 5, kind := .ldf, size := 4, st := .held } ∧
      ({ sentBack with mig := some { len := 65536, moving := true } } : State).moving 0 = true) ∧
    (∀ p ∈ ((logged [page]).thr 0 0).pend ++ ((logged [page]).thr 0 0).trap.pend, p.fault = none) := by
  refine ⟨fun _ _ _ => rfl, by decide, by decide, ⟨by decide, by decide, by decide, by unfold Clear; decide, by decide, by decide, page, by decide⟩, by decide, by decide⟩

/-! ### Gangs, fault rings, system cores and the memory side -/

/-- Four cores that wait to form a gang, or three. -/
def ganging (n : Nat) : State :=
  { given State.reset [0] with cores := (List.range n).map fun h => (h, { threads := [(0, { st := .active, wait := .gang 4 })] }) }

/-- Core 0 with a fault record for the ring of tenant-0 threads, which holds 16. -/
def faulted (lg rpi : Word) : State :=
  (((({ State.reset with cores := [(0, { frecs := [{ code := 2 }] })], params := [0] } : State).setSr 0xB2 (State.reset.faultRing 0) lg).setSr 0xB1
    (State.reset.faultRing 0) 0x50000).setSr 0xB3 (State.reset.faultRing 0) rpi)

/-- System core 31 named in `SVC.CORE`, its slot 0 as given. -/
def served (st : SlotSt) (l : List Nat) : State :=
  { (given State.reset l).setSr 0xB0 31 (BitVec.ofNat 64 (2 ^ 63 + 5)) with cores := [(5, { threads := [(0, { st := st })] })] }

/-- Interrupt 5 pending and enabled at system core 1023, whose slot 0 has a vector. -/
def interrupted : State :=
  { given (sys { regs [] with utvec := 4 } { ipend := 32, imask := 32, ictlEn := true }) [1023] with curSlot := 0 }

/-- A thread that waits since 0 for one interval, at time `t`. -/
def waiter (t : Nat) : State := { given (user { wait := .waitSince 0 0 31 1 false }) [0, 0] with dtime := [(0, BitVec.ofNat 64 t)] }

theorem witness_CoreAndMemoryEvents_cores :
    (((ganging 4).core 0).gangWait = some (0, 4) ∧ (∀ m < 4, ∃ j < 4, ((ganging 4).core m).gangWait = some (j, 4)) ∧
      ∀ j < 4, ((ganging 3).core 3).gangWait ≠ some (j, 4)) ∧
    (((faulted 4 15).core 0).frecs = [{ code := 2 }] ∧ (faulted 4 15).srf 0xB2 ((faulted 4 15).faultRing 0) 3 0 = 4 ∧
      (faulted 4 15).srf 0xB1 ((faulted 4 15).faultRing 0) 47 16 ≠ 0 ∧
      ((faulted 4 15).srv 0xB3 ((faulted 4 15).faultRing 0)).toNat - ((faulted 4 15).srv 0xB4 ((faulted 4 15).faultRing 0)).toNat < 2 ^ 4 ∧
      Memory.wf (faulted 4 15).mem = true ∧ Plain (faulted 4 15) (0x50000 + 64 * (15 % 2 ^ 4)) 64) ∧
    (2 ^ 4 ≤ ((faulted 4 16).srv 0xB3 ((faulted 4 16).faultRing 0)).toNat - ((faulted 4 16).srv 0xB4 ((faulted 4 16).faultRing 0)).toNat ∧
      (faulted 3 0).srf 0xB2 ((faulted 3 0).faultRing 0) 3 0 < 4 ∧ 12 < (faulted 13 0).srf 0xB2 ((faulted 13 0).faultRing 0) 3 0) ∧
    ((given State.reset [31, 2 ^ 63 + 5]).partSeen = false ∧ ({ State.reset with partSeen := true } : State).partSeen = true ∧
      State.reset.live 5 = true ∧ State.reset.isSys 5 = false ∧ State.reset.isSys 1023 = true ∧
      ∀ j < 32, 8 ≤ j → (State.reset.srv 0xB0 j).getLsbD 63 = false) ∧
    (((served .free [31, 2 ^ 56]).srv 0xB0 31).getLsbD 63 = true ∧ (served .free []).svcCore 31 = 5 ∧ ((served .free []).thr 5 0).st = .free ∧
      ((served (.parked 2) []).thr 5 0).st ≠ .free) ∧
    (({ (given State.reset []).setSr 0xE1 0 4 with bootDue := true } : State).bootDue = true ∧
      ({ (given State.reset []).setSr 0xE1 0 4 with bootDue := true } : State).scrubHeld = false ∧
      ({ (given State.reset []).setSr 0xE1 0 4 with bootDue := true } : State).srv 0xE1 0 ≠ 0 ∧
      (({ (given State.reset []).setSr 0xE1 0 4 with bootDue := true } : State).thr (State.reset.svcCore 0) 0).st = .free) ∧
    (interrupted.isSys 1023 = true ∧ (interrupted.core 1023).ictlEn = true ∧ (interrupted.core 1023).ictlSlot = 0 ∧
      (interrupted.core 1023).ipend &&& (interrupted.core 1023).imask ≠ 0 ∧ (interrupted.thr 1023 0).st = .active ∧
      (interrupted.thr 1023 0).trap.act = false ∧ wbits (interrupted.thr 1023 0).utvec 56 2 ≠ 0 ∧ (interrupted.core 1023).gang = none) ∧
    (((waiter 65536).thr 0 0).wait = .waitSince 0 0 31 1 false ∧ ((waiter 65536).thr 0 0).st = .active ∧
      (1 : Word).toNat * 65536 ≤ ((waiter 65536).dt (dieOf 0) + 2 ^ 64 - 0) % 2 ^ 64 ∧
      ((waiter 65535).dt (dieOf 0) + 2 ^ 64 - 0) % 2 ^ 64 < (1 : Word).toNat * 65536) := by unfold Plain; decide +kernel

/-- Nothing in a frame with PROT 0 is enciphered. -/
theorem clear_page (s : State) (f : Nat) (h : (s.frame f).prot = false) (a : Nat) (ha : a / 65536 = f) : s.enciphered a = false := by
  simp [State.enciphered, ha, h]

/-- A migration of 64 KiB from frame 5 to frame 6 in state `st`. -/
def migrating (st : Nat) (m : Mig) : State :=
  { (((State.reset.setSr 0xC8 0 0x50000).setSr 0xC9 0 0x60000).setSr 0xCB 0 (BitVec.ofNat 64 (st * 2 ^ 62))).setFrame 5 { state := 1 } with
    mig := some m }

theorem witness_CoreAndMemoryEvents_memory :
    (SlabFree State.reset 0 ∧ SlabFree State.reset 59 ∧ ¬ SlabFree (State.reset.setFrame 131071 { state := 1 }) 0 ∧ ¬ SlabFree State.reset 60) ∧
    ((given State.reset [0xFFFFFFFF]).param 0 = 0xFFFFFFFF ∧ (given State.reset [0]).param 0 ≠ 0xFFFFFFFF) ∧
    ((migrating 1 {}).srf 0xCB 0 63 62 ≠ 0 ∧ State.reset.srf 0xCB 0 63 62 = 0) ∧
    ((migrating 1 { src := 0x50000, dst := 0x60000, len := 65536, moving := true, drained := true }).srf 0xCB 0 63 62 = 1 ∧
      (migrating 1 { src := 0x50000, dst := 0x60000, len := 65536, moving := true, drained := true }).srf 0xCB 0 61 32 = 0 ∧
      Plain (migrating 1 { src := 0x50000, dst := 0x60000, len := 65536, moving := true, drained := true }) 0x50000 65536 ∧
      (migrating 1 {}).accs = [] ∧ 65536 ≤ 2 ^ 30 ∧ 65536 % 65536 = 0 ∧ 0x50000 + 65536 ≤ 0x60000 ∧ Memory.wf (migrating 1 {}).mem = true) ∧
    ((migrating 2 { src := 0x50000, dst := 0x60000, len := 65536 }).srf 0xCB 0 63 62 = 2 ∧ 0x50000 % 65536 = 0) ∧
    ((migrating 3 { len := 65536, scrub := 0x50000 }).srf 0xCB 0 63 62 = 3 ∧ 0x50000 % 65536 = 0 ∧
      ∀ r ∈ (migrating 3 { len := 65536, scrub := 0x50000 }).revokes, r.frame ≠ 0x50000 / 65536) ∧
    ((State.reset.srf 0xD0 511 63 56 ≠ 0) ∧
      (State.reset.setSr 0xD0 511 0).srf 0xD0 511 63 56 = 0 ∧ (State.reset.setSr 0xD0 511 0).srf 0xD0 511 55 48 = 0 ∧
      (State.reset.setSr 0xD0 511 0).srf 0xD0 511 47 40 = 0 ∧ (given State.reset [State.reset.pierOf (256 * 0x77FFFFFF), 0x77FFFFFF]).params.drop 1 = [0x77FFFFFF] ∧
      State.reset.pierOf (256 * 0x77FFFFFF) < 512 ∧ State.reset.uncorr.contains 0x77FFFFFF = false ∧
      (([0x77FFFFFF] : List Nat).map fun g => State.reset.corrReads.val g 0).sum < 16 ∧
      ({ State.reset with uncorr := [0x77FFFFFF] } : State).uncorr.contains 0x77FFFFFF = true ∧
      16 ≤ ({ State.reset with corrReads := [(0x77FFFFFF, 16)] } : State).corrReads.val 0x77FFFFFF 0 ∧
      0x77FFFFFF / 256 < 8388608 ∧ (State.reset.frame (0x77FFFFFF / 256)).state ≠ 6 ∧ (State.reset.frame (0x77FFFFFF / 256)).owner ≠ 2) ∧
    (({ State.reset with recLost := [(1, 7)] } : State).recLost = (1, 7) :: []) ∧
    (255 ∈ ({ given State.reset [255] with sweeps := [255] } : State).sweeps) := by
  have h : ∀ k, SlabFree State.reset k ↔ k < 60 := fun k => ⟨fun h => h.1, fun h => ⟨h, fun p hp => nomatch hp⟩⟩
  have hp : Plain (migrating 1 { src := 0x50000, dst := 0x60000, len := 65536, moving := true, drained := true }) 0x50000 65536 :=
    fun i hi => clear_page _ 5 (by decide) _ (by omega)
  refine ⟨⟨(h 0).2 (by decide), (h 59).2 (by decide), fun hs => absurd (hs.2 (131071, { state := 1 }) (by decide) (by decide)).1 (by decide),
    fun hs => absurd hs.1 (by decide)⟩, by decide, by decide, ⟨by decide, by decide, hp, by decide⟩, by decide, by decide, by decide +kernel, rfl, by decide⟩

/-! ### Encoding and the step -/

theorem witness_DecodeOfEncode :
    ((Instr.add 31 0 31).wf = true ∧ (encode (.add 31 0 31)).isSome = true) ∧ ((Instr.vadd16 3 4 1).wf = true ∧ encode (.vadd16 3 4 1) = some (0x9062, 2)) ∧
    ((Instr.halt).wf = true ∧ encode .halt = some (0x0080003B, 4)) := by decide

/-- Whether a step answers a next state that `p` holds of. -/
def nextIs (r : Host.Outcome State Fault Refusal) (p : State → Bool) : Bool := match r with
  | .next t => p t
  | _ => false
theorem nextIs_of (r : Host.Outcome State Fault Refusal) (p : State → Bool) (h : nextIs r p = true) : ∃ t, r = .next t ∧ p t = true := by
  cases r with
  | next t => exact ⟨t, rfl, h⟩
  | _ => cases h

theorem witness_StepKeepsMemoryCanonical :
    Memory.wf (State.reset.withFetchWord 32 0x00149401).mem = true ∧
    ∃ t, step (State.reset.withFetchWord 32 0x00149401) = .next t ∧ decide (t.cur.pc = 0x10000000004) = true :=
  ⟨by decide +kernel, nextIs_of _ _ (by decide +kernel)⟩

/-- A user thread at 0x1000 whose turn it is, with the word `w` cached there. -/
def turning (w : Nat) : State := { coded (user (regs [(1, 5)])) 0x1000 w 0 with agenda := [.thread 0 0] }

/-- The same with a span instruction of the thread queued that writes v9, and a word that reads it. -/
def queuedBefore (w : Nat) : State :=
  (turning w).onCoreAt 0 fun c => { c with dq := [{ slot := 0, i := .vfadd 9 1 1 2 0 0 }] }

theorem witness_StepRunsDecoded :
    (∀ w ∈ [0x00149401, 0x0A000069], (turning w).agenda = .thread 0 0 :: [] ∧ (turning w).powered = true ∧
      ({ turning w with agenda := [] } : State).passed 0 0 = false ∧
      (turnOf (turning w) [] 0 0).mayIssue 0 0 = true ∧ (turnOf (turning w) [] 0 0).intrDue 0 = false ∧
      ((turnOf (turning w) [] 0 0).core 0).gang = none ∧ repAct (turnOf (turning w) [] 0 0).cur.rep = false ∧
      ∃ v x, (turnOf (turning w) [] 0 0).fetchWord 0 0 (turnOf (turning w) [] 0 0).cur.pc.toNat = .ok v w ∧ v.closeDue = .ready x ∧
        repAct v.cur.rep = false ∧ v.spanDue 0 0 (.add 8 9 10) = false) ∧
    (∃ v x, (turnOf (queuedBefore 0x188891c1) [] 0 0).fetchWord 0 0 (turnOf (queuedBefore 0x188891c1) [] 0 0).cur.pc.toNat = .ok v 0x188891c1 ∧
      v.closeDue = .ready x ∧ v.spanDue 0 0 (.vadd 3 9 4 2 0 2) = true ∧ WordIs 0x188891c1 (.vadd 3 9 4 2 0 2)) ∧
    (((given (user { fetched := [(4096, 0x00149401)] }) []).thr 0 0).fetched.lookup 4096 = some 0x00149401) ∧
    (WordIs 0x00149401 (.add 8 9 10) ∧ ∀ i, ¬ WordIs 0x0A000069 i) ∧
    (spaceOf 0xFFFF = .global ∧ (∀ l ∈ (mapped.quad (0 / 4)).icache, l.asid = mapped.asidOf 0 0 → l.line ≠ 0xFFFF / 64) ∧
      mapped.translate 0 (mapped.asidOf 0 0) (mapped.tenantOf 0) 0xFFFF .fetch = (mapped, .ok page) ∧
      page.at (0xFFFF / 64 * 64) % 64 = 0 ∧ Clear mapped (page.at (0xFFFF / 64 * 64)) ∧ Calm mapped) := by
  refine ⟨?_, ⟨_, _, rfl, rfl, by decide, rfl⟩, by decide, ⟨rfl, fun i h => ?_⟩, by decide, by decide, rfl, by decide, by unfold Clear; decide, by unfold Calm; decide⟩
  · intro w hw
    simp only [List.mem_cons, List.not_mem_nil, or_false] at hw
    obtain rfl | rfl := hw <;> exact ⟨rfl, rfl, by decide, by decide, by decide, by decide, by decide, _, _, rfl, rfl, by decide⟩
  · have h2 : (match decode (bytesOf 0x0A000069 4) with | .ok _ => false | .error _ => true) = true := by decide
    unfold WordIs at h
    rw [show (if 0x0A000069 % 2 = 0 then 2 else 4) = 4 from rfl] at h
    rw [h] at h2; cases h2

/-- The thread has a VFADD queued whose result is still to be written. -/
def awaited (w : Nat) : State :=
  (turning w).onCoreAt 0 fun c => { c with dq := [{ slot := 0, i := .vfadd 9 1 1 2 0 0 }] }

theorem witness_StepRunsDecoded_parks :
    (∃ v x, (turnOf (awaited 0x0A000069) [] 0 0).fetchWord 0 0 (turnOf (awaited 0x0A000069) [] 0 0).cur.pc.toNat = .ok v 0x0A000069 ∧
      v.closeDue = .ready x ∧ NotYet (turnOf (awaited 0x0A000069) [] 0 0) x.illegal 0 0) ∧
    (∃ v x, (turnOf (turning 0x0A000069) [] 0 0).fetchWord 0 0 (turnOf (turning 0x0A000069) [] 0 0).cur.pc.toNat = .ok v 0x0A000069 ∧
      v.closeDue = .ready x ∧ ¬ NotYet (turnOf (turning 0x0A000069) [] 0 0) x.illegal 0 0) := by
  refine ⟨⟨_, _, rfl, rfl, by decide, _, rfl⟩, ⟨_, _, rfl, rfl, fun h => ?_⟩⟩
  obtain ⟨⟨e, he, _⟩, _⟩ := h
  rw [show ((turnOf (turning 0x0A000069) [] 0 0).core 0).dq = [] from rfl] at he
  cases he

/-! ### Results that the manual's examples give -/

/-- Executing `i` gives a next state in which scalar register `d` holds `v`. -/
def gives (i : Instr) (s : State) (d : Nat) (v : Word) : Bool := nextIs (exec i s) fun t => decide (t.cur.readG d = v)

/-- Scalar register `d` as field `d` names it in a fresh frame. -/
def withG (l : List (Nat × Word)) : State := user (l.foldl (fun t p => t.writeG p.1 p.2) { pc := 0x1000 })

/-- A deck address and its share (chapter 12): IMMH, BFX, BFI and LEA. -/
theorem test_deck_address :
    gives (.immh 12 0) (withG [(12, 0xFFFFFFFFFFFFFFFE)]) 12 0xFFFFFFFFFFE00000 ∧
    gives (.immh 12 0x40010) (withG [(12, 0xFFFFFFFFFFE00000)]) 12 0xFFFFFE0000040010 ∧
    gives (.bfx 13 12 14) (withG [(12, 0xFFFFFE0000040010), (14, 0x111)]) 13 2 ∧
    gives (.bfi 12 15 14) (withG [(12, 0xFFFFFE0000040010), (14, 0x111), (15, 3)]) 12 0xFFFFFE0000060010 ∧
    gives (.lea 16 12 13 3) (withG [(12, 0xFFFFFE0000060010), (13, 2)]) 16 0xFFFFFE0000060020 := by decide

/-- Merging (3.0, 1.5) and (1.0, 2.0) (chapter 15). -/
theorem test_pair_merge : gives (.pmrg 14 12 13) (withG [(12, 0x3FC0000040400000), (13, 0x400000003F800000)]) 14 0x4000000040400000 := by
  decide +kernel

/-- Home of granule 0x12_3456_7800 (chapter 7). -/
theorem test_home : State.reset.pierOf 0x1234567800 = 220 ∧ (State.reset.setSr 0xC0 0 0x200).pierOf 0x1234567800 = 41 := by decide

/-- A quad split by a partition boundary (chapter 4): the deck shares of cores 1,033 and 1,034. -/
def splitQuad : State :=
  (((((State.reset.setSr 0x88 2 0x8000000000000000).setSr 0x89 2 1000).setSr 0x8A 2 34).setSr 0x88 3 0x8000000000000000).setSr 0x89 3 1034).setSr
    0x8A 3 90
theorem test_deck_shares : splitQuad.deckOk 1033 0x40010 = false ∧ splitQuad.deckOk 1033 0x20000 = true ∧ splitQuad.deckOk 1034 0x40010 = true ∧
    splitQuad.deckOk 1034 0x60000 = true := by decide

/-- FP8 E4M3 results of 300, 304, −1,000, 0.003 and NaN under each reading (chapter 11). -/
theorem test_e4m3 :
    ([0x43960000, 0x43980000, 0xC47A0000, 0x3B449BA6, 0x7FC00000].map fun c =>
      ((e4m3 false).round .rne false (fp32.read c), (e4m3 true).round .rne false (fp32.read c), (e4m3 true).round .rne true (fp32.read c))) =
    [(0x79, 0x78, 0x77), (0x7A, 0x78, 0x77), (0xFF, 0xF8, 0xF7), (0x02, 0x02, 0x02), (0x00, 0x7C, 0x7C)] := by decide +kernel

/-- One rounding per block (chapter 11): 1.0 + (2^25 + 1 − 2^25), then + 0.5. -/
theorem test_block_sum : sumFp false 0x3F800000 33 (fun k =>
    if k = 0 then .fin false 1 25 else if k = 1 then .fin false 1 0 else if k = 2 then .fin true 1 25
    else if k = 32 then .fin false 1 (-1) else .fin false 0 0) = 0x40200000 := by decide +kernel

/-- A block 4-bit scale byte of 0x5E (chapter 11): codes 7 and 13. -/
theorem test_block_scale : (blkVal 0x5E 0x7).eqv (.fin false 3 (-1)) = true ∧ (blkVal 0x5E 0xD).eqv (.fin true 3 (-2)) = true := by decide +kernel

/-- One complex group of a correlator (chapter 17). -/
theorem test_complex_dot : dotCx 8 4 false (100 + 0xFFFFFFF9 * 2 ^ 32) 0x05FFFE03 0x02020401 = 0x63 + 0xB * 2 ^ 32 := by decide +kernel

/-- TRAP with code 7 (chapter 20). -/
theorem test_trap : nextIs (exec (.trap 12) (user (({ pc := 0x100050014, utvec := 0x100050100 } : Thread).writeG 12 7))) (fun t =>
    decide (t.cur.pc = 0x1000501C0 ∧ t.cur.trap.pc = 0x100050018 ∧ t.cur.trap.info = 7 ∧ t.cur.trap.cause = 12 ∧ t.cur.trap.act = true)) = true := by
  decide

end

end Sys2Proof.Tests
end

/-! SUPPORT. Fields of a doubleword and single registers: what a read gives after a field or a register is written. -/

namespace Sys2Proof.Machine

/-! ### Fields of a doubleword -/

theorem testBit_wbits (w : Word) (hi lo j : Nat) :
    (wbits w hi lo).testBit j = (decide (j < hi + 1 - lo) && w.getLsbD (lo + j)) := by
  rw [wbits, bits, Nat.testBit_mod_two_pow, Nat.testBit_div_two_pow, BitVec.testBit_toNat, Nat.add_comm j]

/-- A field of a doubleword, bit by bit: inside the replaced field the new value, outside it the old one. -/
theorem getLsbD_putBits (w : Word) {hi lo : Nat} (v i : Nat) (hh : hi < 64) :
    (putBits w hi lo v).getLsbD i = if lo ≤ i ∧ i ≤ hi then v.testBit (i - lo) else w.getLsbD i := by
  simp only [putBits, BitVec.getLsbD_or, BitVec.getLsbD_and, BitVec.getLsbD_not, BitVec.getLsbD_ofNat,
    Nat.testBit_mul_two_pow, Nat.testBit_two_pow_sub_one]
  by_cases hi64 : i < 64
  · by_cases hl : lo ≤ i
    · by_cases hu : i ≤ hi
      · have : i - lo < hi + 1 - lo := by omega
        simp [hi64, hl, hu, this]
      · have : ¬ i - lo < hi + 1 - lo := by omega
        simp [hi64, hl, hu, this]
    · simp [hi64, hl]
  · have h : w.getLsbD i = false := BitVec.getLsbD_of_ge _ _ (by omega)
    have hu : ¬ i ≤ hi := by omega
    simp [hi64, hu, h]

theorem wbits_putBits_self (w : Word) {hi lo : Nat} (v : Nat) (hh : hi < 64) :
    wbits (putBits w hi lo v) hi lo = v % 2 ^ (hi + 1 - lo) := by
  refine Nat.eq_of_testBit_eq fun j => ?_
  rw [testBit_wbits, getLsbD_putBits _ _ _ hh, Nat.testBit_mod_two_pow]
  by_cases hj : j < hi + 1 - lo
  · rw [if_pos (by omega), Nat.add_sub_cancel_left]
  · simp [hj]

theorem wbits_putBits_disjoint (w : Word) {hi lo hi' lo' : Nat} (v : Nat) (hh : hi < 64) (hd : hi' < lo ∨ hi < lo') :
    wbits (putBits w hi lo v) hi' lo' = wbits w hi' lo' := by
  refine Nat.eq_of_testBit_eq fun j => ?_
  rw [testBit_wbits, testBit_wbits, getLsbD_putBits _ _ _ hh]
  by_cases hj : j < hi' + 1 - lo'
  · rw [if_neg (by omega)]
  · simp [hj]

theorem wbits_lt (w : Word) (hi lo : Nat) : wbits w hi lo < 2 ^ (hi + 1 - lo) := Nat.mod_lt _ (Nat.two_pow_pos _)

theorem wbits_ofNat_zero (x hi : Nat) (h : hi < 64) : wbits (BitVec.ofNat 64 x) hi 0 = x % 2 ^ (hi + 1) := by
  rw [wbits, bits, BitVec.toNat_ofNat, Nat.pow_zero, Nat.div_one, Nat.sub_zero, Nat.mod_mod_of_dvd _ (Nat.pow_dvd_pow 2 (by omega))]

/-- Setting one bit. -/
theorem putBits_one (w : Word) {i : Nat} (hi : i < 64) : putBits w i i 1 = w ||| BitVec.twoPow 64 i := by
  refine BitVec.eq_of_getLsbD_eq fun j hj => ?_
  rw [getLsbD_putBits _ _ _ hi, BitVec.getLsbD_or, BitVec.getLsbD_twoPow]
  by_cases h : i = j
  · subst h; simp [hj]
  · rw [if_neg (by omega)]; simp [h]

/-! ### Single registers -/

theorem State.srv_setSr_ne (s : State) {n i n' i' : Nat} (v : Word) (h : n' * 65536 + i' ≠ n * 65536 + i) :
    (s.setSr n i v).srv n' i' = s.srv n' i' := SMap.val_put_ne _ _ _ h

end Sys2Proof.Machine

/-! SUPPORT. A memory with cells dropped, and what the bring-up self-test touches (R11). -/

namespace Sys2Proof

/-- A property of the reset element and of every image holds of each element of a mapped sparse array. -/
theorem SMap.val_map_of {α β : Type} {P : β → Prop} (f : Nat → α → β) (hf : ∀ k x, P (f k x)) {d : β} (hd : P d) (m : SMap α)
    (k : Nat) : P (SMap.val (m.map fun p => (p.1, f p.1 p.2)) k d) := by
  induction m with
  | nil => exact hd
  | cons p t ih =>
    simp only [List.map_cons, SMap.val]
    split
    · exact hf _ _
    · split
      · exact hd
      · exact ih

theorem SMap.mem_put {α : Type} {m : SMap α} {k : Nat} {x : α} {p : Nat × α} (h : p ∈ m.put k x) : p = (k, x) ∨ p ∈ m := by
  induction m with
  | nil => exact .inl (List.mem_singleton.1 h)
  | cons q t ih =>
    obtain ⟨j, y⟩ := q
    simp only [SMap.put] at h
    split at h
    · rcases List.mem_cons.1 h with h | h
      · exact .inl h
      · exact .inr (List.mem_cons_of_mem _ h)
    · split at h
      · rcases List.mem_cons.1 h with h | h
        · exact .inl h
        · exact .inr h
      · rcases List.mem_cons.1 h with rfl | h
        · exact .inr List.mem_cons_self
        · exact (ih h).imp id (List.mem_cons_of_mem _)

end Sys2Proof

namespace Sys2Proof.Machine

/-! ### A memory with some cells dropped -/

/-- A byte whose cells are kept reads as before; a byte whose cells are dropped reads what an unlisted byte does. -/
theorem memGet_filter {m : List Host.Cell} (h : Memory.wf m = true) (f : Nat → Bool) (a : Nat) :
    memGet (m.filter fun c => f c.1) a = if f a then memGet m a else memInit a := by
  suffices H : ∀ lo, Memory.wfFrom lo m = true →
      memGet (m.filter fun c => f c.1) a = if f a then memGet m a else memInit a from H 0 h
  clear h
  induction m with
  | nil => intro lo _; simp [memGet]
  | cons p t ih =>
    obtain ⟨b, x⟩ := p
    intro lo h
    simp only [Memory.wfFrom, Bool.and_eq_true] at h
    have ht : Memory.wfFrom (b + 1) t = true := h.2
    have hlow : ∀ c, c ≤ b → memGet (t.filter fun c => f c.1) c = memInit c := fun c hc =>
      memGet_of_wfFrom (Memory.wfFrom_filter ht _) (by omega)
    rcases Nat.lt_trichotomy b a with hlt | rfl | hgt
    · have e : memGet ((b, x) :: t) a = memGet t a := by rw [memGet, if_neg (by omega), if_neg (by omega)]
      rw [e, ← ih _ ht, List.filter_cons]
      split
      · rw [memGet, if_neg (by omega), if_neg (by omega)]
      · rfl
    · by_cases hb : f b = true
      · simp [hb, memGet]
      · rw [List.filter_cons_of_neg (by simpa using hb), hlow b (Nat.le_refl b), if_neg hb]
    · have e : memGet ((b, x) :: t) a = memInit a := by rw [memGet, if_neg (by omega), if_pos hgt]
      rw [e, ite_self, List.filter_cons]
      split
      · rw [memGet, if_neg (by omega), if_pos hgt]
      · exact hlow a (by omega)

/-! ### Cores in the harvest map -/

theorem hilStep_lt {t x y s : Nat} (hx : x < s) (hy : y < s) :
    (hilStep (t, x, y) s).2.1 < 2 * s ∧ (hilStep (t, x, y) s).2.2 < 2 * s := by
  have hrx : t / 2 % 2 ≤ 1 := by omega
  have hry : (t + t / 2 % 2) % 2 ≤ 1 := by omega
  have h1 : s * (t / 2 % 2) ≤ s := by simpa using Nat.mul_le_mul_left s hrx
  have h2 : s * ((t + t / 2 % 2) % 2) ≤ s := by simpa using Nat.mul_le_mul_left s hry
  simp only [hilStep]
  split
  · split <;> constructor <;> omega
  · constructor <;> omega

/-- The column and row of an in-die Hilbert index lie below 32 (R91). -/
theorem hilInv_lt (d : Nat) : (hilInv d).1 < 32 ∧ (hilInv d).2 < 32 := by
  have h1 := hilStep_lt (t := d) (x := 0) (y := 0) (s := 1) (by omega) (by omega)
  have h2 := hilStep_lt (t := (hilStep (d, 0, 0) 1).1) h1.1 h1.2
  have h3 := hilStep_lt (t := (hilStep (hilStep (d, 0, 0) 1) 2).1) h2.1 h2.2
  have h4 := hilStep_lt (t := (hilStep (hilStep (hilStep (d, 0, 0) 1) 2) 4).1) h3.1 h3.2
  exact hilStep_lt (t := (hilStep (hilStep (hilStep (hilStep (d, 0, 0) 1) 2) 4) 8).1) h4.1 h4.2

theorem dieOf_lt (h : Nat) : dieOf h < 12 := by unfold dieOf; split <;> omega

theorem mapPlace_lt (h : Nat) : (mapPlace h).1 < 65536 ∧ (mapPlace h).2 < 64 := by
  have hd := dieOf_lt h
  have hr : rowOf h < 32 := (hilInv_lt _).2
  have hc : colOf h < 32 := (hilInv_lt _).1
  simp only [mapPlace]
  omega

theorem State.live_unlive_self (s : State) (h : Nat) : (s.unlive h).live h = false := by
  have hb := (mapPlace_lt h).2
  simp [State.live, State.unlive, State.setSrf, getLsbD_putBits _ _ _ hb]

/-- Taking a core off the map brings no other back. -/
theorem State.live_unlive_of_dead {s : State} {h : Nat} (hd : s.live h = false) (h' : Nat) : (s.unlive h').live h = false := by
  have hb := (mapPlace_lt h').2
  by_cases e : (mapPlace h).1 = (mapPlace h').1
  · simp only [State.live, State.unlive, State.setSrf, e, State.srv_setSr, getLsbD_putBits _ _ _ hb] at hd ⊢
    split
    · rw [Nat.zero_testBit, Bool.and_false]
    · exact hd
  · have hne : 0x20 * 65536 + (mapPlace h).1 ≠ 0x20 * 65536 + (mapPlace h').1 := by omega
    simpa only [State.live, State.unlive, State.setSrf, State.srv_setSr_ne _ _ hne] using hd

theorem State.live_foldl_unlive_of_dead {s : State} {h : Nat} (hd : s.live h = false) (l : List Nat) :
    (l.foldl State.unlive s).live h = false := by
  induction l generalizing s with
  | nil => exact hd
  | cons a t ih => exact ih (State.live_unlive_of_dead hd a)

/-- Every core that a self-test finds failing is dead afterwards (R11). -/
theorem State.live_foldl_unlive {h : Nat} {l : List Nat} (hl : h ∈ l) (s : State) : (l.foldl State.unlive s).live h = false := by
  induction l generalizing s with
  | nil => cases hl
  | cons a t ih =>
    rcases List.mem_cons.1 hl with rfl | ht
    · exact State.live_foldl_unlive_of_dead (s.live_unlive_self h) t
    · exact ih ht _

/-! ### What the self-test touches -/

theorem State.live_designate (s : State) {die : Nat} (hd : die < 12) (h : Nat) : (s.designate die).live h = s.live h := by
  have hm := (mapPlace_lt h).1
  unfold State.live State.designate
  rw [State.srv_setSr_ne _ _ (by omega)]

theorem State.live_foldl_designate (s : State) {l : List Nat} (hl : ∀ d ∈ l, d < 12) (h : Nat) :
    (l.foldl State.designate s).live h = s.live h := by
  induction l generalizing s with
  | nil => rfl
  | cons a t ih =>
    rw [List.foldl_cons, ih _ fun d hd => hl d (List.mem_cons_of_mem _ hd), State.live_designate _ (hl a List.mem_cons_self)]

theorem State.wrN_eq (s : State) (loc n v : Nat) : s.wrN loc n v = { s with mem := (s.wrN loc n v).mem } := by
  induction n generalizing s loc v with
  | zero => rfl
  | succ n ih => exact (ih (s.wr8 loc (v % 256)) (loc + 1) (v / 256)).trans rfl

/-- A fold of steps that each change system registers and memory only changes those only. -/
theorem foldl_sr_mem {α : Type} (f : State → α → State) (hf : ∀ s a, f s a = { s with sr := (f s a).sr, mem := (f s a).mem })
    (l : List α) (s : State) : l.foldl f s = { s with sr := (l.foldl f s).sr, mem := (l.foldl f s).mem } := by
  induction l generalizing s with
  | nil => rfl
  | cons a t ih =>
    rw [List.foldl_cons, ih (f s a)]
    exact (congrArg (fun u : State => { u with sr := (t.foldl f (f s a)).sr, mem := (t.foldl f (f s a)).mem }) (hf s a)).trans rfl

/-- A fold of steps that each change memory only leaves the system registers alone. -/
theorem foldl_sr {α : Type} (f : State → α → State) (hf : ∀ s a, (f s a).sr = s.sr) (l : List α) (s : State) :
    (l.foldl f s).sr = s.sr := by
  induction l generalizing s with
  | nil => rfl
  | cons a t ih => exact (ih _).trans (hf s a)

theorem State.rewriteLpt_sr (s : State) : s.rewriteLpt.sr = s.sr :=
  foldl_sr _ (fun s k => by rw [State.wrN_eq]) _ s

theorem State.rewriteLpt_eq (s : State) : s.rewriteLpt = { s with sr := s.rewriteLpt.sr, mem := s.rewriteLpt.mem } :=
  foldl_sr_mem _ (fun s k => by rw [State.wrN_eq]) _ s

end Sys2Proof.Machine

/-! PROOFS. Cold and warm reset (R11, R431). -/

namespace Sys2Proof.Machine

open Claims

theorem State.live_rewriteLpt (s : State) (h : Nat) : s.rewriteLpt.live h = s.live h := by
  simp only [State.live, State.srv, State.rewriteLpt_sr]

theorem State.designate_eq (s : State) (d : Nat) : s.designate d = { s with sr := (s.designate d).sr, mem := (s.designate d).mem } := rfl

theorem State.unlive_eq (s : State) (h : Nat) : s.unlive h = { s with sr := (s.unlive h).sr, mem := (s.unlive h).mem } := rfl

/-- The self-test changes the system registers and the logical position table only, and no failure is left to find. -/
theorem State.selfTest_eq (s : State) :
    s.selfTest = { s with sr := s.selfTest.sr, mem := s.selfTest.mem, failing := [] } := by
  unfold State.selfTest
  dsimp only
  split
  · rw [foldl_sr_mem _ State.designate_eq, foldl_sr_mem _ State.unlive_eq]
  · rw [State.rewriteLpt_eq, foldl_sr_mem _ State.designate_eq, foldl_sr_mem _ State.unlive_eq]

/-- A core that fails the self-test is not in the map that the reset publishes (R11). -/
theorem State.live_selfTest {s : State} {h : Nat} (hf : h ∈ s.failing) : s.selfTest.live h = false := by
  have hd : ∀ d ∈ (s.failing.map dieOf).eraseDups, d < 12 := by
    intro d hd
    obtain ⟨x, -, rfl⟩ := List.mem_map.1 (List.mem_eraseDups.1 hd)
    exact dieOf_lt x
  unfold State.selfTest
  dsimp only
  split
  · rw [State.live_foldl_designate _ hd, State.live_foldl_unlive hf]
  · rw [State.live_rewriteLpt, State.live_foldl_designate _ hd, State.live_foldl_unlive hf]

/-- With no failing core and the map as fused, the self-test changes nothing. -/
theorem State.selfTest_of_mapStands {s : State} (h : MapStands s) : s.selfTest = s := by
  obtain ⟨hf, hs⟩ := h
  have hown : ∀ p ∈ s.sr, decide (p.1 / 65536 = 0x20 ∨ (p.1 / 65536 = 0xB0 ∧ p.1 % 65536 < 8)) = false := by
    intro p hp
    obtain ⟨h1, h2⟩ := hs p hp
    simp only [decide_eq_false_iff_not]
    omega
  have hfil : (s.sr.filter fun p => !decide (p.1 / 65536 = 0x20 ∨ (p.1 / 65536 = 0xB0 ∧ p.1 % 65536 < 8))) = s.sr :=
    List.filter_eq_self.2 fun p hp => by rw [hown p hp]; rfl
  have hany : (s.sr.any fun p => decide (p.1 / 65536 = 0x20 ∨ (p.1 / 65536 = 0xB0 ∧ p.1 % 65536 < 8))) = false :=
    List.any_eq_false.2 fun p hp => by rw [hown p hp]; exact Bool.false_ne_true
  unfold State.selfTest
  dsimp only
  rw [hfil, hany, hf, if_pos ⟨rfl, Bool.false_ne_true⟩]
  show { s with failing := [] } = s
  rw [← hf]

/-! ### Cold reset -/

/-- What a cold reset makes of `s` before the self-test of the cores. -/
structure Cleared (s c : State) : Prop where
  cores : c.cores = []
  quads : c.quads = []
  accs : c.accs = []
  xls : c.xls = []
  keys : c.keys = []
  frames : c.frames = []
  dtime : c.dtime = []
  failing : c.failing = s.failing
  fwRecovery : c.fwRecovery = !s.fwValid
  sr : c.sr = if s.tripCause then [(0x46 * 65536, 8)] else []
  mem : c.mem = s.mem.filter fun p => decide (2 ^ 64 ≤ p.1) || isPool p.1

theorem State.cold_eq (s : State) : ∃ c, s.cold = c.selfTest ∧ Cleared s c := by
  refine ⟨_, rfl, ?_⟩
  constructor <;> cases s.tripCause <;> rfl

/-- A cleared package with no failing core publishes the map as fused. -/
theorem Cleared.mapStands {s c : State} (h : Cleared s c) (hf : s.failing = []) : MapStands c := by
  refine ⟨h.failing.trans hf, fun p hp => ?_⟩
  rw [h.sr] at hp
  split at hp
  · rw [List.mem_singleton.1 hp]; decide
  · cases hp

/-- What a cold reset empties, whichever cores fail (R11). -/
theorem State.cold_fields (s : State) :
    s.cold.cores = [] ∧ s.cold.quads = [] ∧ s.cold.accs = [] ∧ s.cold.xls = [] ∧ s.cold.keys = [] ∧ s.cold.frames = [] ∧
      s.cold.dtime = [] ∧ s.cold.fwRecovery = !s.fwValid := by
  obtain ⟨c, hc, h⟩ := s.cold_eq
  rw [hc, c.selfTest_eq]
  exact ⟨h.cores, h.quads, h.accs, h.xls, h.keys, h.frames, h.dtime, h.fwRecovery⟩

theorem State.cold_live {s : State} {h : Nat} (hh : h ∈ s.failing) : s.cold.live h = false := by
  obtain ⟨c, hc, hcl⟩ := s.cold_eq
  rw [hc]
  exact State.live_selfTest (hcl.failing ▸ hh)

/-- With no failing core the self-test adds nothing. -/
theorem State.cold_cleared {s : State} (hf : s.failing = []) : Cleared s s.cold := by
  obtain ⟨c, hc, h⟩ := s.cold_eq
  rwa [hc, State.selfTest_of_mapStands (h.mapStands hf)]

/-- Every register but `PAR.STAT` has its cold value (R11). -/
theorem Cleared.srv {s c : State} (h : Cleared s c) {n i : Nat} (hn : n ≠ 0x46) (hi : i < 65536) : c.srv n i = srReset n i := by
  unfold State.srv
  rw [h.sr]
  split
  · simp only [SMap.val]
    rw [if_neg (by omega), ite_self]
  · rfl

/-- `PAR.STAT` after a cold reset: TRIP where the recorded cause is a temperature trip (R34). -/
theorem Cleared.parStat {s c : State} (h : Cleared s c) : c.srv 0x46 0 = if s.tripCause then 8 else 0 := by
  unfold State.srv
  rw [h.sr]
  split <;> rfl

/-- Device memory is as bring-up leaves it, pool and host memory as they were. -/
theorem Cleared.rd8 {s c : State} (h : Cleared s c) (hm : Memory.wf s.mem = true) (x : Nat) :
    c.rd8 x = if x < 2 ^ 64 ∧ isPool x = false then (memInit x).toNat else s.rd8 x := by
  unfold State.rd8
  rw [h.mem, memGet_filter hm fun a => decide (2 ^ 64 ≤ a) || isPool a]
  by_cases hx : x < 2 ^ 64 ∧ isPool x = false
  · rw [if_pos hx, if_neg (by simp [hx.2]; omega)]
  · rw [if_neg hx, if_pos]
    simp only [Bool.or_eq_true, decide_eq_true_eq]
    by_cases h64 : 2 ^ 64 ≤ x
    · exact .inl h64
    · exact .inr (eq_true_of_ne_false fun hp => hx ⟨by omega, hp⟩)

/-! ### Warm reset -/

@[simp] theorem State.warmPlan_frames (s : State) : s.warmPlan.frames = s.frames := by unfold State.warmPlan; split <;> rfl
@[simp] theorem State.warmPlan_dtime (s : State) : s.warmPlan.dtime = s.dtime := by unfold State.warmPlan; split <;> rfl
@[simp] theorem State.warmPlan_fwValid (s : State) : s.warmPlan.fwValid = s.fwValid := by unfold State.warmPlan; split <;> rfl
@[simp] theorem State.warmPlan_failing (s : State) : s.warmPlan.failing = s.failing := by unfold State.warmPlan; split <;> rfl
@[simp] theorem State.warmPlan_mem (s : State) : s.warmPlan.mem = s.mem := by unfold State.warmPlan; split <;> rfl

/-- A register that a plan applied again lists is `CLK.STAT` or was listed before. -/
theorem State.mem_warmPlan_sr {s : State} {p : Nat × Word} (h : p ∈ s.warmPlan.sr) : p.1 = 0x42 * 65536 ∨ p ∈ s.sr := by
  unfold State.warmPlan at h
  split at h
  · exact (SMap.mem_put h).imp (fun e => by rw [e]) id
  · exact .inr h

/-- What a warm reset makes of `s`, which performs no forwarded access and no migration, before the self-test. -/
structure Warmed (s c : State) : Prop where
  thr : ∀ h k, (c.thr h k).st = .free
  accs : c.accs = []
  xls : c.xls = []
  keys : c.keys = []
  frames : c.frames = s.frames
  dtime : c.dtime = s.dtime
  bootDue : c.bootDue = true
  fwRecovery : c.fwRecovery = !s.fwValid
  failing : c.failing = s.failing
  sr : ∀ p ∈ c.sr, p.1 = 0x42 * 65536 ∨ ∃ q ∈ s.sr, q.1 = p.1
  mem : c.mem = s.mem.filter fun p => !decide (2 ^ 52 ≤ p.1 ∧ p.1 < 2 ^ 64)

theorem Core.warm_thr (c : Core) (k : Nat) : (c.warm.thr k).st = .free := rfl

theorem State.migEnd_of_none {s : State} (h : s.mig = none) : s.migEnd = s := by
  unfold State.migEnd; rw [h]

theorem State.warm_eq {s : State} (hm : s.mig = none) : ∃ c, s.warm [] = c.selfTest ∧ Warmed s c := by
  have hs : (s.warmAccs []).migEnd = s := State.migEnd_of_none hm
  refine ⟨_, by rw [State.warm, hs], ?_⟩
  constructor
  case thr =>
    intro h k
    exact SMap.val_map_of (P := fun c : Core => (c.thr k).st = .free) (fun _ c => c.warm) (fun _ c => Core.warm_thr c k)
      (d := {}) rfl _ h
  case sr =>
    intro p hp
    obtain ⟨q, hq, rfl⟩ := List.mem_map.1 hp
    exact (State.mem_warmPlan_sr hq).imp id fun h => ⟨q, h, rfl⟩
  all_goals simp [State.warmCmds]

/-- A map that stands before a warm reset stands when it publishes it. -/
theorem Warmed.mapStands {s c : State} (h : Warmed s c) (hs : MapStands s) : MapStands c := by
  refine ⟨h.failing.trans hs.1, fun p hp => ?_⟩
  rcases h.sr p hp with e | ⟨q, hq, e⟩
  · rw [e]; decide
  · rw [← e]; exact hs.2 q hq

/-- What a warm reset ends and what it keeps, whichever cores fail (R431). -/
theorem State.warm_fields {s : State} (hm : s.mig = none) :
    (∀ h k, ((s.warm []).thr h k).st = .free) ∧ (s.warm []).accs = [] ∧ (s.warm []).xls = [] ∧ (s.warm []).keys = [] ∧
      (s.warm []).frames = s.frames ∧ (s.warm []).dtime = s.dtime ∧ (s.warm []).bootDue = true ∧
      (s.warm []).fwRecovery = !s.fwValid := by
  obtain ⟨c, hc, h⟩ := State.warm_eq hm
  rw [hc, c.selfTest_eq]
  exact ⟨h.thr, h.accs, h.xls, h.keys, h.frames, h.dtime, h.bootDue, h.fwRecovery⟩

/-- With the map as fused the self-test adds nothing. -/
theorem State.warm_warmed {s : State} (hm : s.mig = none) (hs : MapStands s) : Warmed s (s.warm []) := by
  obtain ⟨c, hc, h⟩ := State.warm_eq hm
  rwa [hc, State.selfTest_of_mapStands (h.mapStands hs)]

/-- No byte from 2^52 on has other bring-up contents than 0. -/
theorem memInit_high {x : Nat} (h : 2 ^ 52 ≤ x) : memInit x = 0 := by
  unfold memInit Config.lptBase
  rw [if_neg (by omega)]

/-- A warm reset keeps the bytes below the local stores and clears those of the cores and quads (R431). -/
theorem Warmed.rd8 {s c : State} (h : Warmed s c) (hm : Memory.wf s.mem = true) (x : Nat) :
    c.rd8 x = if 2 ^ 52 ≤ x ∧ x < 2 ^ 64 then 0 else s.rd8 x := by
  unfold State.rd8
  rw [h.mem, memGet_filter hm fun a => !decide (2 ^ 52 ≤ a ∧ a < 2 ^ 64)]
  by_cases hx : 2 ^ 52 ≤ x ∧ x < 2 ^ 64
  · rw [if_pos hx, decide_eq_true hx, if_neg (by decide), memInit_high hx.1]; rfl
  · rw [if_neg hx, decide_eq_false hx, if_pos (by decide)]

end Sys2Proof.Machine

/-! PROOFS. Clock plans (R17–R21). -/

namespace Sys2Proof.Machine

open Claims

/-! ### Reading a plan -/

theorem State.checkRead_of_noErr {s : State} (h : s.bitErr = []) (loc n : Nat) : s.checkRead loc n = s := by
  unfold State.checkRead
  dsimp only
  rw [h]
  show { s with bitErr := [] } = s
  rw [← h]

/-- An ACTIVE or FREE frame of the accelerator kernel's own, in the clear, grants it both rights (R84). -/
theorem State.frameCheck_own {s : State} {f : Nat} (ho : (s.frame f).owner = 1) (hs : (s.frame f).state ≤ 1)
    (ht : (s.frame f).tenant = 0) (hp : (s.frame f).prot = false) (w : Bool) : s.frameCheck f 1 0 w = .grant false := by
  unfold State.frameCheck
  dsimp only
  rw [if_neg (by omega), if_neg (by omega), if_pos]
  refine ⟨ho.symm, ?_, .inl ht, by simp [hp]⟩
  omega

/-- A readable plan is loaded as memory holds it (R18, R19). -/
theorem State.clkLoad_readable {s : State} {a : Nat} (hl : s.load = none) (h : PlanReadable s a) :
    s.clkLoad = s.loadPlan 0 (some (s.rdN a 176)) := by
  obtain ⟨ha, hhbm, ho, hst, ht, hp, hpo, hb⟩ := h
  have henc : ∀ i < 176, s.enciphered (a + i) = false := by
    intro i hi
    have e : (a + i) / 65536 = a / 65536 := by omega
    simp [State.enciphered, e, hp]
  have hkey : s.keyGone a = false := by simp [State.keyGone, show s.enciphered a = false from henc 0 (by decide)]
  have hpois : s.poisoned a = false := by rw [State.poisoned, hpo, hkey, Bool.and_false, Bool.or_false]
  unfold State.clkLoad
  rw [hl, if_neg (by decide)]
  dsimp only
  rw [← ha, if_pos ⟨hhbm, ho, hst, State.frameCheck_own ho hst ht hp false⟩, State.checkRead_of_noErr hb, hpois,
    if_neg (by decide), State.rdP_plain henc]

/-- A load while one is in progress sets REFUSED and nothing else (R19, R20). -/
theorem State.clkLoad_busy {s : State} (h : s.load ≠ none) : s.clkLoad = s.setSr 0x42 0 (s.srv 0x42 0 ||| 0x100) := by
  unfold State.clkLoad State.setSrf
  rw [if_pos (Option.isSome_iff_ne_none.2 h), putBits_one _ (by decide)]
  rfl

/-! ### The checks of a plan (R17) -/

/-- No band is struck exactly where no harmonic from 1 to 64 lies in one. -/
theorem strike_eq_none_iff (bands : List (Nat × Nat)) (f : Nat) :
    strike bands f = none ↔ ∀ b ∈ bands, ∀ n, 1 ≤ n → n ≤ 64 → ¬ Struck b n f := by
  simp only [strike, List.findSome?_eq_none_iff, Option.map_eq_none_iff, List.findIdx?_eq_none_iff, List.mem_range,
    decide_eq_false_iff_not]
  constructor
  · intro h b hb n h1 h64 hs
    refine h (n - 1) (by omega) b hb ?_
    rwa [Nat.sub_add_cancel h1]
  · intro h i hi b hb
    exact h b hb (i + 1) (by omega) (by omega)

theorem planOf_freq (r : Nat) {i : Nat} (hi : i < 20) : (planOf r).freq.getD i 0 = recField r (8 + 2 * i) 2 := by
  simp [planOf, List.getD_eq_getElem?_getD, hi]

theorem mem_planOf_band {r : Nat} {b : Nat × Nat} (h : b ∈ (planOf r).band) :
    ∃ j < 16, b = (recField r (48 + 8 * j) 4, recField r (52 + 8 * j) 4) := by
  obtain ⟨j, hj, rfl⟩ := List.mem_map.1 h
  exact ⟨j, List.mem_range.1 hj, rfl⟩

theorem mem_planOf_freq {r f : Nat} (h : f ∈ (planOf r).freq) : ∃ i < 20, f = recField r (8 + 2 * i) 2 := by
  obtain ⟨i, hi, rfl⟩ := List.mem_map.1 h
  exact ⟨i, List.mem_range.1 hi, rfl⟩

/-- A plan that passes every check of R17 has no fault to report. -/
theorem planFault_of_passes {r : Nat} (h : PlanPasses r) : planFault r = none := by
  obtain ⟨hmagic, hflags, hlo, hhi, hfreq, hband, hstrike⟩ := h
  have hrange : ((planOf r).freq.findIdx? fun f => decide (f < 1600 ∨ 2000 < f)) = none := by
    refine List.findIdx?_eq_none_iff.2 fun f hf => decide_eq_false ?_
    obtain ⟨i, hi, rfl⟩ := mem_planOf_freq hf
    have := hfreq i hi
    omega
  have horder : ((planOf r).band.findIdx? fun b => decide (b.2 ≠ 0 ∧ b.2 < b.1)) = none := by
    refine List.findIdx?_eq_none_iff.2 fun b hb => decide_eq_false ?_
    obtain ⟨j, hj, rfl⟩ := mem_planOf_band hb
    rintro ⟨h0, hlt⟩
    exact absurd (hband j hj h0) (Nat.not_le.2 hlt)
  have href : strike (planOf r).band (500 * (planOf r).ref) = none := by
    refine (strike_eq_none_iff _ _).2 fun b hb n h1 h64 => ?_
    obtain ⟨j, hj, rfl⟩ := mem_planOf_band hb
    exact (hstrike j hj n h1 h64).1
  have hpass : ∀ i < 20, strike (planOf r).band (500 * (planOf r).freq.getD i 0) = none := by
    intro i hi
    refine (strike_eq_none_iff _ _).2 fun b hb n h1 h64 => ?_
    obtain ⟨j, hj, rfl⟩ := mem_planOf_band hb
    rw [planOf_freq r hi]
    exact (hstrike j hj n h1 h64).2 i hi
  unfold planFault
  dsimp only
  rw [if_neg (by simp only [planOf]; omega), hrange, horder, href]
  refine List.findSome?_eq_none_iff.2 fun i hi => ?_
  rw [hpass i (List.mem_range.1 hi)]
  rfl

/-- A record without the magic number fails as FORMAT before any other check (R17, R20). -/
theorem planFault_of_magic {r : Nat} (h : recField r 0 4 ≠ 0x434C4B31) : planFault r = some (clkStat 3 0 0 0) := by
  unfold planFault
  dsimp only
  rw [if_pos (.inl h)]

/-! ### Applying a plan (R20, R21) -/

/-- The end of a load of the accelerator kernel's own. -/
theorem State.loadEnds_zero (s : State) :
    s.loadEnds 0 = { s with load := none }.setSr 0x42 0 (2 ||| (s.srv 0x42 0 &&& 0x100)) := rfl

theorem State.applyPlan_plan (s : State) (p : Plan) : (s.applyPlan 0 p false).plan = p := by
  unfold State.applyPlan; dsimp only; split <;> rfl

theorem State.applyPlan_freq (s : State) (p : Plan) : (s.applyPlan 0 p false).freq = s.freq := by
  unfold State.applyPlan; dsimp only; split <;> rfl

/-- A plan that changes no clock is ACCEPTED at once. -/
theorem State.applyPlan_stat_same {s : State} {p : Plan} (hr : p.ref = s.plan.ref)
    (hf : ∀ i < 20, p.freq.getD i 0 = s.freq.getD i 0) : (s.applyPlan 0 p false).srv 0x42 0 = 2 := by
  have htodo : ((List.range 20).filter fun i => false || decide (p.ref ≠ s.plan.ref) || decide (p.freq.getD i 0 ≠ s.freq.getD i 0)) = [] := by
    refine List.filter_eq_nil_iff.2 fun i hi => ?_
    rw [hr, hf i (List.mem_range.1 hi)]
    simp
  unfold State.applyPlan
  dsimp only
  rw [htodo, if_pos rfl, State.loadEnds_zero, State.srv_setSr, State.srv_setSr]
  rfl

/-- A plan that changes some passenger's clock is IN PROGRESS. -/
theorem State.applyPlan_stat_changed {s : State} {p : Plan} {i : Nat} (hi : i < 20) (hf : p.freq.getD i 0 ≠ s.freq.getD i 0) :
    (s.applyPlan 0 p false).srv 0x42 0 = 1 := by
  have htodo : ((List.range 20).filter fun i => false || decide (p.ref ≠ s.plan.ref) || decide (p.freq.getD i 0 ≠ s.freq.getD i 0)) ≠ [] := by
    refine List.ne_nil_of_mem (a := i) (List.mem_filter.2 ⟨List.mem_range.2 hi, ?_⟩)
    rw [decide_eq_true hf, Bool.or_true]
  unfold State.applyPlan
  dsimp only
  rw [if_neg htodo, State.srv_setSr]

theorem State.loadPlan_of_passes (s : State) {r : Nat} (h : PlanPasses r) :
    s.loadPlan 0 (some r) = s.applyPlan 0 (planOf r) false := by
  simp only [State.loadPlan, planFault_of_passes h]

theorem State.loadPlan_of_magic (s : State) {r : Nat} (h : recField r 0 4 ≠ 0x434C4B31) :
    s.loadPlan 0 (some r) = s.setSr 0x42 0 (clkStat 3 0 0 0) := by
  simp only [State.loadPlan, planFault_of_magic h, if_true]

/-! ### Relocking (R21) -/

/-- Flits that leave or go on waiting change the ports, what has left and what waits only (R39). -/
theorem State.flushFlits_eq (s : State) (fs : List Sent) :
    s.flushFlits fs = { s with ports := (s.flushFlits fs).ports, out := (s.flushFlits fs).out, flitWait := (s.flushFlits fs).flitWait } := by
  induction fs generalizing s with
  | nil => rfl
  | cons f t ih =>
    unfold State.flushFlits
    split
    · exact (ih (s.sendFlit _ f)).trans rfl
    · rfl

@[simp] theorem State.sendFlits_freq (s : State) (fs : List Sent) : (s.sendFlits fs).freq = s.freq := by
  rw [State.sendFlits, State.flushFlits_eq]
@[simp] theorem State.sendFlits_load (s : State) (fs : List Sent) : (s.sendFlits fs).load = s.load := by
  rw [State.sendFlits, State.flushFlits_eq]
@[simp] theorem State.sendFlits_sr (s : State) (fs : List Sent) : (s.sendFlits fs).sr = s.sr := by
  rw [State.sendFlits, State.flushFlits_eq]

/-- A relock that ends while others are still to come sets its passenger's clock and goes on with the next. -/
theorem State.relock_next {s : State} {l : PlanLoad} {i j : Nat} {rest : List Nat} (hl : s.load = some l)
    (ht : l.todo = i :: j :: rest) :
    s.relock = { s with freq := s.freq.set i (l.plan.freq.getD i 0), load := some { l with todo := j :: rest } }.sendFlits [] := by
  unfold State.relock
  simp only [hl, ht, if_neg (List.cons_ne_nil j rest)]

/-- The last relock ends the load. -/
theorem State.relock_last {s : State} {l : PlanLoad} {i : Nat} (hl : s.load = some l) (ht : l.todo = [i]) :
    s.relock = (({ s with freq := s.freq.set i (l.plan.freq.getD i 0), load := some { l with todo := [] } } : State).loadEnds l.owner).sendFlits [] := by
  unfold State.relock
  simp only [hl, ht, if_true]

end Sys2Proof.Machine

/-! PROOFS. Time units and roles (R24–R28). -/

namespace Sys2Proof.Machine

open Claims

/-! ### Time units (R24–R28) -/

/-- A good exchange of a time unit of a PACKAGE or GRANDMASTER: its bound and its role's locked state, and no failure counted. -/
theorem State.exchange_unit {s : State} {u : Nat} (hu : u < 12) (hr : s.role ≤ 1) (m b : Nat) :
    s.exchange u m b = { s with
      tfail := s.tfail.put u 0
      tstat := s.tstat.put u (BitVec.ofNat 64 (b % 2 ^ 32 * 2 ^ 32 + (s.role + 1))) } := by
  have hst : s.lockedState u = s.role + 1 := by
    unfold State.lockedState
    rcases Nat.le_one_iff_eq_zero_or_eq_one.1 hr with h | h <;> simp [h]
  unfold State.exchange
  dsimp only
  rw [if_neg (show ¬ u = 12 by omega), if_neg (by omega), hst]

/-- The interposer master of a package that is no follower has no exchanges to fail. -/
theorem State.exchangeFail_master {s : State} (hr : s.role ≠ 2) (b : Nat) : s.exchangeFail 12 b = s := by
  unfold State.exchangeFail
  dsimp only
  rw [if_pos (.inr ⟨rfl, hr⟩)]

/-- A failed exchange of unit `u` before HOLDOVER is looked at: counted, with the bound it has grown to. -/
def State.failed (s : State) (u b : Nat) : State :=
  { s with tfail := s.tfail.put u (s.tfail.val u 0 + 1), tstat := s.tstat.put u (putBits (s.tstat.val u 0) 63 32 b) }

/-- The units whose state a fourth consecutive failure of unit `u` makes HOLDOVER. -/
def holdoverOf (u : Nat) : List Nat := if u = 12 then List.range 13 else [u]

/-- A unit that has exchanges counts the failure, and enters HOLDOVER at the fourth. -/
theorem State.exchangeFail_eq {s : State} {u : Nat} (hu : u < 12 ∨ u = 12 ∧ s.role = 2) (b : Nat) :
    s.exchangeFail u b =
      if s.tfail.val u 0 < 3 then s.failed u b else (holdoverOf u).foldl State.inHoldover (s.failed u b) := by
  unfold State.exchangeFail holdoverOf
  dsimp only
  rw [if_neg (by omega)]
  by_cases h3 : s.tfail.val u 0 < 3
  · rw [if_pos (by omega), if_pos h3]; rfl
  · rw [if_neg (by omega), if_neg h3]
    split <;> rfl

theorem State.tstat_inHoldover_ne (s : State) {u u' : Nat} (h : u' ≠ u) : (s.inHoldover u).tstat.val u' 0 = s.tstat.val u' 0 :=
  SMap.val_put_ne _ _ _ h

theorem State.tstat_inHoldover_self (s : State) (u : Nat) : (s.inHoldover u).tstat.val u 0 = putBits (s.tstat.val u 0) 1 0 3 :=
  SMap.val_put_self ..

theorem State.holdover_inHoldover (s : State) (u : Nat) : wbits ((s.inHoldover u).tstat.val u 0) 1 0 = 3 := by
  rw [State.tstat_inHoldover_self]
  exact wbits_putBits_self _ 3 (by decide)

/-- HOLDOVER changes the units' status words only. -/
theorem State.foldl_inHoldover_eq (l : List Nat) (s : State) :
    l.foldl State.inHoldover s = { s with tstat := (l.foldl State.inHoldover s).tstat } := by
  induction l generalizing s with
  | nil => rfl
  | cons a t ih => exact (ih (s.inHoldover a)).trans rfl

/-- HOLDOVER leaves a unit's error bound alone. -/
theorem State.bound_foldl_inHoldover (l : List Nat) (s : State) (u : Nat) :
    wbits ((l.foldl State.inHoldover s).tstat.val u 0) 63 32 = wbits (s.tstat.val u 0) 63 32 := by
  induction l generalizing s with
  | nil => rfl
  | cons a t ih =>
    rw [List.foldl_cons, ih]
    by_cases h : u = a
    · subst h
      rw [State.tstat_inHoldover_self, wbits_putBits_disjoint _ _ (by decide) (by decide)]
    · rw [State.tstat_inHoldover_ne _ h]

/-- A unit in HOLDOVER stays so while others enter it. -/
theorem State.holdover_foldl_of_held (l : List Nat) {s : State} {u : Nat} (h : wbits (s.tstat.val u 0) 1 0 = 3) :
    wbits ((l.foldl State.inHoldover s).tstat.val u 0) 1 0 = 3 := by
  induction l generalizing s with
  | nil => exact h
  | cons a t ih =>
    refine ih ?_
    by_cases e : u = a
    · subst e
      exact State.holdover_inHoldover s u
    · rwa [State.tstat_inHoldover_ne _ e]

/-- Every unit of the list enters HOLDOVER. -/
theorem State.holdover_foldl {l : List Nat} {u : Nat} (hu : u ∈ l) (s : State) :
    wbits ((l.foldl State.inHoldover s).tstat.val u 0) 1 0 = 3 := by
  induction l generalizing s with
  | nil => cases hu
  | cons a t ih =>
    rcases List.mem_cons.1 hu with rfl | ht
    · exact State.holdover_foldl_of_held t (s.holdover_inHoldover u)
    · exact ih ht _

section
variable {s : State} {u : Nat} (hu : u < 12 ∨ u = 12 ∧ s.role = 2) (b : Nat)
include hu

theorem State.exchangeFail_tfail : (s.exchangeFail u b).tfail.val u 0 = s.tfail.val u 0 + 1 := by
  rw [State.exchangeFail_eq hu]
  split
  · exact SMap.val_put_self ..
  · rw [State.foldl_inHoldover_eq]; exact SMap.val_put_self ..

theorem State.exchangeFail_dtime : (s.exchangeFail u b).dtime = s.dtime := by
  rw [State.exchangeFail_eq hu]
  split
  · rfl
  · rw [State.foldl_inHoldover_eq]; rfl

theorem State.exchangeFail_bound : wbits ((s.exchangeFail u b).tstat.val u 0) 63 32 = b % 2 ^ 32 := by
  have h : wbits ((s.failed u b).tstat.val u 0) 63 32 = b % 2 ^ 32 := by
    rw [State.failed, SMap.val_put_self, wbits_putBits_self _ _ (by decide)]
  rw [State.exchangeFail_eq hu]
  split
  · exact h
  · rw [State.bound_foldl_inHoldover, h]

/-- The first three failures leave the unit's state alone. -/
theorem State.exchangeFail_state_kept (h3 : s.tfail.val u 0 < 3) :
    wbits ((s.exchangeFail u b).tstat.val u 0) 1 0 = wbits (s.tstat.val u 0) 1 0 := by
  rw [State.exchangeFail_eq hu, if_pos h3, State.failed, SMap.val_put_self, wbits_putBits_disjoint _ _ (by decide) (by decide)]

/-- The fourth enters HOLDOVER, a follower's master with every unit (R28). -/
theorem State.exchangeFail_holdover (h3 : 3 ≤ s.tfail.val u 0) {u' : Nat} (hm : u' ∈ holdoverOf u) :
    wbits ((s.exchangeFail u b).tstat.val u' 0) 1 0 = 3 := by
  rw [State.exchangeFail_eq hu, if_neg (by omega)]
  exact State.holdover_foldl hm _

end

theorem mem_holdoverOf {u u' : Nat} (h : u' = u ∨ u = 12 ∧ u' < 12) : u' ∈ holdoverOf u := by
  unfold holdoverOf
  split
  · exact List.mem_range.2 (by omega)
  · exact List.mem_singleton.2 (by omega)

/-! ### A new role (R26) -/

theorem State.portsOff_iff (s : State) : s.portsOff = true ↔ ∀ p ∈ s.ports, p.2.state = 3 := by
  simp [State.portsOff, List.all_eq_true]

/-- A unit's new status word: the locked units read the new state. -/
def relabelled (st : Nat) (w : Word) : Word := if wbits w 1 0 = 1 ∨ wbits w 1 0 = 2 then putBits w 1 0 st else w

theorem State.tstat_relabel_self (s : State) (st u : Nat) :
    (s.relabel st u).tstat.val u 0 = relabelled st (s.tstat.val u 0) := by
  unfold State.relabel relabelled
  dsimp only
  split
  · exact SMap.val_put_self ..
  · rfl

theorem State.tstat_relabel_ne (s : State) (st : Nat) {u u' : Nat} (h : u' ≠ u) :
    (s.relabel st u).tstat.val u' 0 = s.tstat.val u' 0 := by
  unfold State.relabel
  dsimp only
  split
  · exact SMap.val_put_ne _ _ _ h
  · rfl

theorem State.tstat_foldl_relabel_of_notMem (st : Nat) {l : List Nat} {u : Nat} (hu : u ∉ l) (s : State) :
    (l.foldl (fun s u => s.relabel st u) s).tstat.val u 0 = s.tstat.val u 0 := by
  induction l generalizing s with
  | nil => rfl
  | cons a t ih =>
    rw [List.mem_cons, not_or] at hu
    rw [List.foldl_cons, ih hu.2, State.tstat_relabel_ne _ _ hu.1]

/-- Each unit of a list without repeats is relabelled once. -/
theorem State.tstat_foldl_relabel (st : Nat) {l : List Nat} (hn : l.Nodup) {u : Nat} (hu : u ∈ l) (s : State) :
    (l.foldl (fun s u => s.relabel st u) s).tstat.val u 0 = relabelled st (s.tstat.val u 0) := by
  induction l generalizing s with
  | nil => cases hu
  | cons a t ih =>
    obtain ⟨ha, ht⟩ := List.nodup_cons.1 hn
    rw [List.foldl_cons]
    rcases List.mem_cons.1 hu with rfl | hut
    · rw [State.tstat_foldl_relabel_of_notMem _ ha, State.tstat_relabel_self]
    · rw [ih ht hut, State.tstat_relabel_ne]
      rintro rfl
      exact ha hut

theorem State.relabel_sr (s : State) (st u : Nat) : (s.relabel st u).sr = s.sr := by
  unfold State.relabel; dsimp only; split <;> rfl

theorem State.roleWrite_on {s : State} {v : Word} (hp : s.portsOff = true) (hv : wbits v 1 0 ≠ 3) :
    s.roleWrite v = (List.range 13).foldl (fun s u => s.relabel (wbits v 1 0 + 1) u) (s.setSr 0x44 0 (v &&& 0x3F03)) := by
  unfold State.roleWrite
  rw [if_pos ⟨hp, hv⟩]

theorem State.roleWrite_off {s : State} (v : Word) (hp : ¬ s.portsOff = true) : s.roleWrite v = s := by
  unfold State.roleWrite
  rw [if_neg fun h => hp h.1]

theorem State.roleWrite_role (s : State) {v : Word} (hv : wbits v 1 0 ≠ 3) :
    (s.roleWrite v).srv 0x44 0 = if ∀ p ∈ s.ports, p.2.state = 3 then v &&& 0x3F03 else s.srv 0x44 0 := by
  split
  case isTrue hp =>
    rw [State.roleWrite_on (s.portsOff_iff.2 hp) hv, State.srv, foldl_sr _ (fun s u => s.relabel_sr _ u)]
    exact State.srv_setSr ..
  case isFalse hp => rw [State.roleWrite_off v (mt s.portsOff_iff.1 hp)]

/-- The state that a unit reads after a role write: a locked one the new role's (R26, R28). -/
theorem State.roleWrite_state {s : State} {v : Word} (hp : ∀ p ∈ s.ports, p.2.state = 3) (hv : wbits v 1 0 ≠ 3) {u : Nat}
    (hu : u ≤ 12) :
    wbits ((s.roleWrite v).tstat.val u 0) 1 0 =
      if wbits (s.tstat.val u 0) 1 0 = 1 ∨ wbits (s.tstat.val u 0) 1 0 = 2 then wbits v 1 0 + 1
      else wbits (s.tstat.val u 0) 1 0 := by
  have hlt : wbits v 1 0 < 4 := wbits_lt v 1 0
  rw [State.roleWrite_on (s.portsOff_iff.2 hp) hv,
    State.tstat_foldl_relabel _ List.nodup_range (List.mem_range.2 (by omega)), State.setSr_tstat, relabelled]
  split
  · rw [wbits_putBits_self _ _ (by decide)]
    exact Nat.mod_eq_of_lt (show wbits v 1 0 + 1 < 4 by omega)
  · rfl

end Sys2Proof.Machine

/-! PROOFS. Fence tokens, the parapet, attestation and firmware (R30–R37). -/

namespace Sys2Proof.Machine

open Claims

/-! ### Fence tokens (R30) -/

/-- A token that its recipient may give back is returned to the thread that waits for it. -/
theorem exec_fenceTokenReturn {s : State} {m : Nat} {left : List Nat} (hw : (s.thr (s.param 0) (s.param 1)).wait = .tokens m left)
    (hmem : s.param 2 ∈ left) (hr : s.tokenReady (dieOf (s.param 0)) m (s.param 2) = true) :
    exec .fenceTokenReturn s =
      .next (s.onThr (s.param 0) (s.param 1) fun t => { t with wait := .tokens m (left.erase (s.param 2)) }) := by
  show execFenceTokenReturn s = _
  unfold execFenceTokenReturn
  simp only [hw]
  rw [if_pos ⟨List.contains_iff_mem.2 hmem, hr⟩]

/-! ### The parapet (R31–R34) -/

/-- The clocks of a throttle's steps, each of which is taken where it is allowed (R33). -/
def State.throttled (s : State) (socks : Nat) (fs : List Nat) : List Nat :=
  (((maskList 20 socks).zip fs).filter fun p => s.stepOk p.1 p.2).foldl (fun (l : List Nat) p => l.set p.1 p.2) s.freq

/-- `PAR.STAT` after a throttle of cause `c` (R34). -/
def throttleStat (w : Word) (c : Nat) : Word :=
  putBits (putBits w c c 1) 63 32 (if w.getLsbD c then wbits w 63 32 else (wbits w 63 32 + 1) % 2 ^ 32)

theorem State.throttle_eq {s : State} {c : Nat} (hc : c ≤ 2) (gated socks : Nat) (fs : List Nat) :
    ∃ s1 : State, s1 = { s.setSr 0x46 0 (throttleStat (s.srv 0x46 0) c) with freq := s.throttled socks fs } ∧
      s.throttle c gated socks fs = { s1 with gated := (maskList 8 gated).filter s1.lowest } := by
  refine ⟨_, rfl, ?_⟩
  unfold State.throttle
  dsimp only
  rw [if_neg (by omega)]
  rfl

theorem getLsbD_throttleStat (w : Word) {c : Nat} (hc : c ≤ 2) : (throttleStat w c).getLsbD c = true := by
  rw [throttleStat, getLsbD_putBits _ _ _ (by decide), if_neg (by omega), getLsbD_putBits _ _ _ (by omega),
    if_pos ⟨Nat.le_refl c, Nat.le_refl c⟩, Nat.sub_self]
  rfl

/-- A throttle entry is counted where its condition was clear. -/
theorem events_throttleStat (w : Word) (c : Nat) :
    wbits (throttleStat w c) 63 32 = (wbits w 63 32 + if w.getLsbD c then 0 else 1) % 2 ^ 32 := by
  rw [throttleStat, wbits_putBits_self _ _ (by decide)]
  split
  · rfl
  · exact Nat.mod_mod _ _

/-- No step is left exactly where every lower clock down to 800 MHz is struck (R33). -/
theorem State.lowest_iff (s : State) (d : Nat) :
    s.lowest d = true ↔ ∀ f, 1600 ≤ f → f < s.freq.getD d 0 → ∃ b ∈ s.plan.band, ∃ n, 1 ≤ n ∧ n ≤ 64 ∧ Struck b n (500 * f) := by
  have hstep : ∀ f, 1600 ≤ f → f < s.freq.getD d 0 →
      (s.stepOk d f = false ↔ ∃ b ∈ s.plan.band, ∃ n, 1 ≤ n ∧ n ≤ 64 ∧ Struck b n (500 * f)) := by
    intro f hlo hhi
    have hn : (strike s.plan.band (500 * f)).isNone = false ↔ ¬ strike s.plan.band (500 * f) = none := by
      rw [← Option.isNone_iff_eq_none, Bool.not_eq_true]
    rw [State.stepOk, decide_eq_true ⟨hlo, Nat.le_of_lt hhi⟩, Bool.true_and, hn, strike_eq_none_iff]
    simp only [Classical.not_forall, Classical.not_not, exists_prop]
  simp only [State.lowest, List.all_eq_true, List.mem_range, Bool.not_eq_true']
  constructor
  · intro h f hlo hhi
    refine (hstep f hlo hhi).1 ?_
    rw [← Nat.add_sub_cancel' hlo]
    exact h (f - 1600) (by omega)
  · intro h k hk
    exact (hstep (1600 + k) (by omega) (by omega)).2 (h (1600 + k) (by omega) (by omega))

theorem mem_maskList {n m i : Nat} : i ∈ maskList n m ↔ i < n ∧ m.testBit i = true := by
  simp [maskList]

/-- Clocks set from a list of no greater ones do not rise. -/
theorem foldl_set_getD_le {f0 : List Nat} (l : List (Nat × Nat)) (hl : ∀ p ∈ l, p.2 ≤ f0.getD p.1 0) {fr : List Nat}
    (hf : ∀ i, fr.getD i 0 ≤ f0.getD i 0) (i : Nat) : (l.foldl (fun (a : List Nat) p => a.set p.1 p.2) fr).getD i 0 ≤ f0.getD i 0 := by
  induction l generalizing fr with
  | nil => exact hf i
  | cons p t ih =>
    refine ih (fun q hq => hl q (List.mem_cons_of_mem _ hq)) fun j => ?_
    have hp := hl p List.mem_cons_self
    have hj := hf j
    simp only [List.getD_eq_getElem?_getD, List.getElem?_set] at hp hj ⊢
    split
    case isTrue e =>
      subst e
      split
      · exact hp
      · exact Nat.zero_le _
    case isFalse => exact hj

theorem State.throttled_le (s : State) (socks : Nat) (fs : List Nat) (i : Nat) :
    (s.throttled socks fs).getD i 0 ≤ s.freq.getD i 0 := by
  refine foldl_set_getD_le _ (fun p hp => ?_) (fun _ => Nat.le_refl _) i
  have hs : s.stepOk p.1 p.2 = true := (List.mem_filter.1 hp).2
  simp only [State.stepOk, Bool.and_eq_true, decide_eq_true_eq] at hs
  exact hs.1.2

/-- The end of a throttle clears its condition's bit. -/
theorem State.throttleEnd_stat {s : State} {c : Nat} (hc : c ≤ 2) :
    (s.throttleEnd c).srv 0x46 0 = putBits (s.srv 0x46 0) c c 0 := by
  unfold State.throttleEnd
  dsimp only
  rw [if_neg (by omega)]
  split <;> exact State.srv_setSr ..

/-- With no condition left and no load in progress, clocks and issue are as the plan has them. -/
theorem State.throttleEnd_last {s : State} {c : Nat} (hc : c ≤ 2) (ho : ∀ d ≤ 2, d ≠ c → (s.srv 0x46 0).getLsbD d = false)
    (hl : s.load = none) : (s.throttleEnd c).gated = [] ∧ (s.throttleEnd c).freq = s.plan.freq := by
  have hclear : (s.setSrf 0x46 0 c c 0).srf 0x46 0 2 0 = 0 := by
    refine Nat.eq_of_testBit_eq fun j => ?_
    rw [State.srf, State.setSrf, State.srv_setSr, testBit_wbits, getLsbD_putBits _ _ _ (by omega), Nat.zero_testBit j, Nat.zero_add]
    by_cases hj : j < 3
    · by_cases e : j = c
      · simp [e]
      · rw [if_neg (by omega), ho j (by omega) e, Bool.and_false]
    · rw [decide_eq_false (by omega), Bool.false_and]
  unfold State.throttleEnd
  dsimp only
  rw [if_neg (by omega), if_pos hclear]
  refine ⟨rfl, ?_⟩
  show (if s.load.isSome then s.freq else s.plan.freq) = s.plan.freq
  rw [hl]
  rfl

theorem State.capWrite_cap (s : State) (x : Nat) :
    (s.capWrite (BitVec.ofNat 64 x)).srv 0x45 0 = BitVec.ofNat 64 (max 600 (min (x % 2048) 1800)) := by
  have hw : wbits (BitVec.ofNat 64 x) 10 0 = x % 2048 := wbits_ofNat_zero x 10 (by decide)
  rw [State.capWrite, State.srv_setSr, hw]

/-! ### The keystone (R36, R37) -/

theorem execSpdmGetMeasurements_of_some {s : State} {v : Nat} (h : s.measurement (s.param 0) = some v) :
    execSpdmGetMeasurements s = .next (s.doe [0x60, s.param 0, v, Config.signature [s.param 0, v]]) := by
  unfold execSpdmGetMeasurements; rw [h]

/-- An index that the table of R36 lacks has no measurement. -/
theorem State.measurement_eq_none (s : State) : ∀ {i : Nat}, 5 < i ∨ i = 0 → s.measurement i = none
  | 0, _ => rfl
  | _ + 6, _ => rfl
  | 1, h | 2, h | 3, h | 4, h | 5, h => by omega

theorem execSpdmGetMeasurements_of_none {s : State} (h : s.measurement (s.param 0) = none) :
    execSpdmGetMeasurements s = .next (s.doe [0x7F, 0x01]) := by
  unfold execSpdmGetMeasurements; rw [h]

theorem certChain_length (off len : Nat) : (certChain off len).length = len := by simp [certChain]

theorem exec_fwRecoveryImage_taken {s : State} (hr : s.fwRecovery = true) (hok : s.param 1 = 1) (hv : s.fwCounter ≤ s.param 0) :
    exec .fwRecoveryImage s = .next { s with
      fwImage := s.param 3, fwLen := s.param 2, fwVersion := s.param 0, fwCounter := s.param 0, fwValid := true, fwRecovery := false } := by
  show execFwRecoveryImage s = _
  unfold execFwRecoveryImage State.fwUpdate
  rw [if_pos hr, if_neg (by omega), if_neg (by omega)]

theorem exec_fwRecoveryImage_refused {s : State} (h : s.fwRecovery = false ∨ s.param 1 = 0 ∨ s.param 0 < s.fwCounter) :
    exec .fwRecoveryImage s = .next s := by
  show execFwRecoveryImage s = _
  unfold execFwRecoveryImage
  split
  case isTrue hr =>
    unfold State.fwUpdate
    rw [if_pos (h.resolve_left (by simp [hr]))]
  case isFalse => rfl

end Sys2Proof.Machine

/-! PROOFS. The statements of the package. -/

namespace Sys2Proof.Machine

/-! ### The reset state -/

theorem not_keystoneFrame_of_low {f : Nat} (h : f < 0x780000) : keystoneFrame f = false := by
  simp only [keystoneFrame, Bool.or_eq_false_iff, decide_eq_false_iff_not]
  omega

theorem keystoneFrame_of_high {f : Nat} (h1 : 0x7C0000 ≤ f) (h2 : f < 0x800000) : keystoneFrame f = true := by
  simp [keystoneFrame, h1, h2]

theorem reset_frame (f : Nat) : State.reset.frame f = Frame.init f := rfl

/-- A frame that the keystone does not hold, after a cold reset (R79). -/
theorem reset_frame_low {f : Nat} (h : f < 0x780000) : State.reset.frame f = {} := by
  rw [reset_frame, Frame.init, not_keystoneFrame_of_low h]; rfl

/-- One of the keystone's own frames, after a cold reset (log 4). -/
theorem reset_frame_high {f : Nat} (h1 : 0x7C0000 ≤ f) (h2 : f < 0x800000) : State.reset.frame f = { state := 1, owner := 2 } := by
  rw [reset_frame, Frame.init, keystoneFrame_of_high h1 h2]; rfl

/-- After a cold reset a register reads its reset value (R11). -/
theorem reset_srv (n i : Nat) : State.reset.srv n i = srReset n i := rfl

/-- The entries of `SVC.CORE` beyond the dies' own system cores are not valid (R157). -/
theorem srReset_svcCore {i : Nat} (h : 8 ≤ i) : srReset 0xB0 i = 0 := if_neg (by omega)

end Sys2Proof.Machine

namespace Sys2Proof

open Machine Claims

/-- Settles O47, event by event. -/
theorem packageEvents : Obligations.PackageEvents := by
  unfold Obligations.PackageEvents
  intro s
  refine ⟨?coldReset, ?warmReset, ?planTaken, ?planRefused, ?planBusy, ?relockNext, ?relockLast, ?exchange, ?failMaster,
    ?fail, ?wrap, ?role, ?token, ?throttle, ?throttleEnd, ⟨_, rfl, rfl⟩, ⟨_, rfl, s.capWrite_cap _⟩, ⟨_, rfl, rfl⟩,
    ⟨_, rfl, rfl⟩, ⟨_, rfl, rfl⟩, ⟨_, _, rfl, rfl⟩, ⟨_, _, rfl, rfl, certChain_length _ _⟩, ⟨_, _, rfl, rfl⟩, ?image, ?cap,
    ?noIndex, ⟨_, rfl, rfl⟩, ?recovery, exec_fwRecoveryImage_refused⟩
  case coldReset =>
    obtain ⟨hcores, hquads, haccs, hxls, hkeys, hframes, hdtime, hfw⟩ := s.cold_fields
    exact ⟨s.cold, rfl, hcores, hquads, haccs, hxls, hkeys, hframes, hdtime, fun h hh => State.cold_live hh, hfw, fun hf =>
      ⟨fun n i hn hi => (State.cold_cleared hf).srv hn hi, (State.cold_cleared hf).parStat, (State.cold_cleared hf).rd8⟩⟩
  case warmReset =>
    intro hp hm
    obtain ⟨hthr, haccs, hxls, hkeys, hframes, hdtime, hboot, hfw⟩ := State.warm_fields hm
    refine ⟨s.warm [], congrArg (fun l => Host.Outcome.next (s.warm l)) hp, hthr, haccs, hxls, hkeys, hframes, hdtime, hboot, hfw,
      fun hs hwf => ⟨fun x hx => ?_, fun x h52 h64 => ?_⟩⟩
    · rw [(State.warm_warmed hm hs).rd8 hwf, if_neg (by omega)]
    · rw [(State.warm_warmed hm hs).rd8 hwf, if_pos ⟨h52, h64⟩]
  case planTaken =>
    intro a hl hr hp
    have ht : s.clkLoad = s.applyPlan 0 (planOf (s.rdN a 176)) false := by
      rw [State.clkLoad_readable hl hr, State.loadPlan_of_passes _ hp]
    exact ⟨_, _, congrArg Host.Outcome.next ht, s.applyPlan_plan _, rfl, fun i hi => planOf_freq _ hi, s.applyPlan_freq _,
      State.applyPlan_stat_same, fun i hi => State.applyPlan_stat_changed hi⟩
  case planRefused =>
    intro a hl hr hm
    have ht : s.clkLoad = s.setSr 0x42 0 (clkStat 3 0 0 0) := by
      rw [State.clkLoad_readable hl hr, State.loadPlan_of_magic _ hm]
    exact ⟨_, congrArg Host.Outcome.next ht, s.srv_setSr _ _ _, rfl, hl⟩
  case planBusy =>
    intro hl
    exact ⟨_, congrArg Host.Outcome.next (State.clkLoad_busy hl), s.srv_setSr _ _ _, rfl, rfl⟩
  case relockNext =>
    intro l i j rest hl ht
    exact ⟨_, congrArg Host.Outcome.next (State.relock_next hl ht), State.sendFlits_freq _ _, State.sendFlits_load _ _,
      State.sendFlits_sr _ _⟩
  case relockLast =>
    intro l i hl ht ho
    refine ⟨_, congrArg Host.Outcome.next (State.relock_last hl ht), ?_, ?_, ?_⟩
    · rw [State.sendFlits_freq, ho, State.loadEnds_zero]; rfl
    · rw [State.sendFlits_load, ho, State.loadEnds_zero]; rfl
    · rw [State.srv, State.sendFlits_sr, ho, State.loadEnds_zero]
      exact State.srv_setSr _ _ _ _
  case exchange =>
    intro hu hr
    exact ⟨_, congrArg Host.Outcome.next (State.exchange_unit hu hr _ _), rfl, SMap.val_put_self _ _ _ _,
      SMap.val_put_self _ _ _ _, fun u h => SMap.val_put_ne _ _ _ h⟩
  case failMaster =>
    intro hu hr
    show Host.Outcome.next (s.exchangeFail (s.param 0) (s.param 1)) = _
    rw [hu, State.exchangeFail_master hr]
  case fail =>
    intro hu
    exact ⟨_, rfl, State.exchangeFail_tfail hu _, State.exchangeFail_dtime hu _, State.exchangeFail_bound hu _,
      State.exchangeFail_state_kept hu _, fun h3 u h => State.exchangeFail_holdover hu _ h3 (mem_holdoverOf h)⟩
  case wrap =>
    intro hd
    have hlast : s.dt (s.param 0) + 1 = 2 ^ 64 := by omega
    refine ⟨_, congrArg Host.Outcome.next (if_pos hlast), ?_, SMap.val_put_self _ _ _ _⟩
    exact congrArg BitVec.toNat (SMap.val_put_self _ _ _ _)
  case role =>
    intro hv
    have hw : wbits (BitVec.ofNat 64 (s.param 0)) 1 0 = s.param 0 % 4 := wbits_ofNat_zero _ _ (by decide)
    refine ⟨_, rfl, s.roleWrite_role (hw ▸ hv), fun hp u hu => ?_⟩
    rw [State.roleWrite_state hp (hw ▸ hv) hu, hw]
  case token =>
    intro m left hw hmem hr
    exact ⟨_, exec_fenceTokenReturn hw hmem hr, s.thr_onThr _ _ _, rfl⟩
  case throttle =>
    intro hc
    obtain ⟨s1, h1, ht⟩ := State.throttle_eq hc (s.param 1) (s.param 2) (s.params.drop 3)
    have hstat : s1.srv 0x46 0 = throttleStat (s.srv 0x46 0) (s.param 0) := by
      rw [h1]; exact s.srv_setSr _ _ _
    have hplan : s1.plan = s.plan := by rw [h1]; rfl
    have hfreq : s1.freq = s.throttled (s.param 2) (s.params.drop 3) := by rw [h1]
    refine ⟨_, congrArg Host.Outcome.next ht, ?_, ?_, fun d => ?_, fun i => ?_⟩
    · exact hstat ▸ getLsbD_throttleStat _ hc
    · exact hstat ▸ events_throttleStat _ _
    · rw [List.mem_filter, mem_maskList, State.lowest_iff, hplan, and_assoc]
    · rw [hfreq]; exact s.throttled_le _ _ i
  case throttleEnd =>
    intro hc
    refine ⟨_, rfl, ?_, State.throttleEnd_last hc⟩
    rw [State.throttleEnd_stat hc, getLsbD_putBits _ _ _ (by omega), if_pos ⟨Nat.le_refl _, Nat.le_refl _⟩, Nat.zero_testBit]
  case image =>
    intro hp
    exact ⟨_, _, execSpdmGetMeasurements_of_some (congrArg s.measurement hp), by rw [hp]; rfl⟩
  case cap =>
    intro hp
    exact ⟨_, _, execSpdmGetMeasurements_of_some (congrArg s.measurement hp), by rw [hp]; rfl⟩
  case noIndex =>
    intro hp
    exact ⟨_, execSpdmGetMeasurements_of_none (s.measurement_eq_none hp), rfl⟩
  case recovery =>
    intro hr hok hv
    exact ⟨_, exec_fwRecoveryImage_taken hr hok hv, rfl, rfl, rfl, rfl, rfl, rfl⟩

/-- Settles O59: every array of the reset state lists nothing, so that each read is of the array's reset element. -/
theorem resetState : Obligations.ResetState := by
  unfold Obligations.ResetState
  refine ⟨fun _ _ => ⟨rfl, rfl, rfl⟩, fun _ => rfl, fun _ => rfl, fun _ => rfl, fun _ => rfl, fun _ => rfl, fun _ => rfl, rfl, ?_,
    rfl, rfl, fun f hf => ?_, fun f h1 h2 => ?_, fun i hi => ?_, rfl, State.wf_reset, rfl, rfl⟩
  · decide
  · rw [reset_frame_low hf]
    exact ⟨rfl, rfl, rfl, rfl⟩
  · rw [reset_frame_high h1 h2]
    exact ⟨rfl, rfl⟩
  · rw [reset_srv, srReset_svcCore hi]
    rfl

end Sys2Proof

/-! SUPPORT. The ports' link layer (R39–R42): what sending, resending and a port going DOWN leave alone. -/

namespace Sys2Proof.Machine

open Claims

/-! ### Ports -/

@[simp] theorem State.port_setPort (s : State) (p : Nat) (x : Port) : (s.setPort p x).port p = x := SMap.val_put_self ..

theorem State.port_setPort_ne (s : State) {p q : Nat} (x : Port) (h : q ≠ p) : (s.setPort p x).port q = s.port q :=
  SMap.val_put_ne _ _ _ h

/-- A flit sent takes a place in its port's replay buffer (R39). -/
theorem State.replay_sendFlit (s : State) (p : Nat) (f : Sent) :
    ((s.sendFlit p f).port p).replay.length = (s.port p).replay.length + 1 := by
  unfold State.sendFlit State.port
  rw [SMap.val_put_self, List.length_append]
  rfl

theorem State.port_sendFlit_ne (s : State) {p q : Nat} (f : Sent) (h : q ≠ p) : (s.sendFlit p f).port q = s.port q :=
  SMap.val_put_ne _ _ _ h

/-- Flits that leave change a port's replay buffer and its next sequence number only (R39). -/
theorem State.port_flushFlits (s : State) (fs : List Sent) (p : Nat) :
    ∃ n l, (s.flushFlits fs).port p = { s.port p with txSeq := n, replay := l } := by
  induction fs generalizing s with
  | nil => exact ⟨_, _, rfl⟩
  | cons f t ih =>
    unfold State.flushFlits
    split
    case h_1 q hq =>
      obtain ⟨n, l, h⟩ := ih (s.sendFlit q f)
      rw [h]
      by_cases e : p = q
      · subst e
        exact ⟨n, l, by unfold State.sendFlit State.port; rw [SMap.val_put_self]⟩
      · exact ⟨n, l, by rw [State.port_sendFlit_ne _ _ e]⟩
    case h_2 => exact ⟨_, _, rfl⟩

/-! ### Flits resent over another port (R40) -/

/-- Resent flits change the ports, what has left and what waits only. -/
theorem State.resendOver_eq (s : State) (q : Nat) (l : List Sent) :
    s.resendOver q l = { s with
      ports := (s.resendOver q l).ports, out := (s.resendOver q l).out, flitWait := (s.resendOver q l).flitWait } := by
  induction l generalizing s with
  | nil => rfl
  | cons f t ih =>
    unfold State.resendOver
    split
    · exact (ih (s.sendFlit q f)).trans rfl
    · rfl

theorem State.port_resendOver_ne (s : State) {p q : Nat} (h : p ≠ q) (l : List Sent) : (s.resendOver q l).port p = s.port p := by
  induction l generalizing s with
  | nil => rfl
  | cons f t ih =>
    unfold State.resendOver
    split
    · rw [ih, State.port_sendFlit_ne _ _ h]
    · rfl

/-- No flit is lost or made: each goes over the port or waits. -/
theorem State.length_resendOver (s : State) (q : Nat) (l : List Sent) :
    ((s.resendOver q l).port q).replay.length + (s.resendOver q l).flitWait.length =
      (s.port q).replay.length + l.length + s.flitWait.length := by
  induction l generalizing s with
  | nil => rfl
  | cons f t ih =>
    unfold State.resendOver
    split
    · rw [ih, State.replay_sendFlit, List.length_cons, Nat.add_assoc (State.port s q).replay.length, Nat.add_comm 1]
      rfl
    · simp only [List.length_append, Nat.add_assoc]
      rfl

/-- A replay buffer is not filled beyond its 256 places (R39). -/
theorem State.replay_resendOver_le (s : State) (q : Nat) (l : List Sent) :
    ((s.resendOver q l).port q).replay.length ≤ max 256 (s.port q).replay.length := by
  induction l generalizing s with
  | nil => exact Nat.le_max_right _ _
  | cons f t ih =>
    unfold State.resendOver
    split
    case isTrue h =>
      have hlen := ih (s.sendFlit q f)
      rw [State.replay_sendFlit] at hlen
      omega
    case isFalse => exact Nat.le_max_right _ _

/-- Where a running port has room for all of them, none has to wait. -/
theorem State.flitWait_resendOver {s : State} {q : Nat} (hr : s.relocking ≠ some (portSocket q)) (l : List Sent)
    (hl : (s.port q).replay.length + l.length ≤ 256) : (s.resendOver q l).flitWait = s.flitWait := by
  induction l generalizing s with
  | nil => rfl
  | cons f t ih =>
    rw [List.length_cons] at hl
    unfold State.resendOver
    rw [if_pos ⟨by omega, hr⟩]
    exact ih (s := s.sendFlit q f) hr (by rw [State.replay_sendFlit]; omega)

/-! ### Transactions without a route (R40) -/

/-- A store that has no route is counted. -/
def State.storeDropped (s : State) (addr : Option Nat) : State :=
  match addr with
  | some a => s.countDrop 0x54 0x55 a
  | none => s

/-- An access that waits for an answer which cannot come takes POISON. -/
def State.answerLost (s : State) (id : Nat) : State :=
  match (if id = 0 then none else s.acc? id) with
  | some a => if a.gone then s.landFault a (.kernel fPOISON a.va) else s
  | none => s

/-- A flit of no collective operation that has no route. -/
theorem State.unrouted_of_noColl (s : State) {f : Sent} (h : f.coll = 0) :
    s.unrouted f = (s.storeDropped f.addr).answerLost f.acc := by
  unfold State.unrouted
  rw [if_pos h]
  rfl

theorem State.countDrop_eq (s : State) (n na addr : Nat) : s.countDrop n na addr = { s with sr := (s.countDrop n na addr).sr } := by
  unfold State.countDrop
  dsimp only
  split <;> rfl

theorem State.storeDropped_eq (s : State) (addr : Option Nat) : s.storeDropped addr = { s with sr := (s.storeDropped addr).sr } := by
  cases addr with
  | none => rfl
  | some a => exact s.countDrop_eq _ _ _

theorem State.answerLost_eq (s : State) (id : Nat) :
    s.answerLost id = { s with accs := (s.answerLost id).accs, cores := (s.answerLost id).cores } := by
  unfold State.answerLost
  split
  · split <;> rfl
  · rfl

/-- A dropped store changes its count and its first address only. -/
theorem State.srv_countDrop_ne (s : State) {n na n' i : Nat} (addr : Nat) (h : n' * 65536 + i ≠ n * 65536 + 0)
    (ha : n' * 65536 + i ≠ na * 65536 + 0) :
    (s.countDrop n na addr).srv n' i = s.srv n' i := by
  unfold State.countDrop
  dsimp only [State.setSrf]
  rw [State.srv_setSr_ne _ _ h]
  split
  · exact State.srv_setSr_ne _ _ ha
  · rfl

/-- The first store that is dropped (R40). -/
theorem State.countDrop_first {s : State} {n na : Nat} (hn : na * 65536 + 0 ≠ n * 65536 + 0) (addr : Nat) (h : s.srv n 0 = 0) :
    (s.countDrop n na addr).srv n 0 = 1 ∧ (s.countDrop n na addr).srv na 0 = BitVec.ofNat 64 addr := by
  have h1 : (s.setSr na 0 (BitVec.ofNat 64 addr)).srv n 0 = 0 := (s.srv_setSr_ne _ hn.symm).trans h
  unfold State.countDrop
  dsimp only [State.setSrf, State.srf]
  rw [if_pos h, h1]
  exact ⟨(State.srv_setSr ..).trans (by decide), (State.srv_setSr_ne _ _ hn).trans (State.srv_setSr ..)⟩

/-- Flits of no collective operation that have no route change registers, accesses and cores only. -/
theorem State.foldl_unrouted_eq (s : State) {l : List Sent} (h : ∀ f ∈ l, f.coll = 0) :
    l.foldl State.unrouted s = { s with
      sr := (l.foldl State.unrouted s).sr, accs := (l.foldl State.unrouted s).accs, cores := (l.foldl State.unrouted s).cores } := by
  induction l generalizing s with
  | nil => rfl
  | cons f t ih =>
    have hf : s.unrouted f = { s with sr := (s.unrouted f).sr, accs := (s.unrouted f).accs, cores := (s.unrouted f).cores } := by
      rw [State.unrouted_of_noColl _ (h f List.mem_cons_self), State.answerLost_eq, State.storeDropped_eq]
    rw [List.foldl_cons, ih _ fun g hg => h g (List.mem_cons_of_mem _ hg)]
    exact (congrArg (fun u : State => { u with
      sr := (t.foldl State.unrouted (s.unrouted f)).sr, accs := (t.foldl State.unrouted (s.unrouted f)).accs
      cores := (t.foldl State.unrouted (s.unrouted f)).cores }) hf).trans rfl

/-- Flits of no collective operation that have no route change the registers `FAB.ERR` and `FAB.ERRA` only. -/
theorem State.srv_foldl_unrouted (s : State) {l : List Sent} (h : ∀ f ∈ l, f.coll = 0) {n i : Nat}
    (h4 : n * 65536 + i ≠ 0x54 * 65536 + 0) (h5 : n * 65536 + i ≠ 0x55 * 65536 + 0) : (l.foldl State.unrouted s).srv n i = s.srv n i := by
  induction l generalizing s with
  | nil => rfl
  | cons f t ih =>
    rw [List.foldl_cons, ih _ fun g hg => h g (List.mem_cons_of_mem _ hg), State.unrouted_of_noColl _ (h f List.mem_cons_self),
      State.answerLost_eq]
    cases f.addr with
    | none => rfl
    | some a => exact s.srv_countDrop_ne a h4 h5

/-- An access that waits for a lost answer is in flight no longer, and its window holds POISON (R40, R153). -/
theorem State.answerLost_poison {s : State} {id : Nat} {a : Acc} (hi : id ≠ 0) (ha : s.acc? id = some a) (hg : a.gone = true) :
    (s.answerLost id).acc? id = none ∧ ∀ e ∈ ((s.answerLost id).thr a.h a.slot).pend, e.id = a.ent → e.fault.isSome = true ∧
      ((∀ e0 ∈ (s.thr a.h a.slot).pend, e0.fault = none) → e.fault = some (.kernel fPOISON a.va)) := by
  have hid : a.id = id := by simpa using List.find?_some ha
  have hl : s.answerLost id = s.landFault a (.kernel fPOISON a.va) := by
    unfold State.answerLost
    rw [if_neg hi, ha]
    exact if_pos hg
  rw [hl]
  refine ⟨?_, fun e he hent => ?_⟩
  · simp [State.landFault, State.acc?, State.dropAcc, hid]
  · rw [State.landFault, State.thr_onThr] at he
    obtain ⟨e1, he1, rfl⟩ := List.mem_map.1 he
    dsimp only at hent ⊢
    by_cases h1 : e1.id = a.ent
    · rw [if_pos h1]
      refine ⟨by dsimp only; split <;> rfl, fun hn => ?_⟩
      dsimp only
      rw [hn e1 he1]
    · rw [if_neg h1] at hent
      exact absurd hent h1

/-! ### A port that leaves UP (R40, R42) -/

theorem State.foldl_relabel_eq (st : Nat) (l : List Nat) (s : State) :
    l.foldl (fun s u => s.relabel st u) s = { s with tstat := (l.foldl (fun s u => s.relabel st u) s).tstat } := by
  induction l generalizing s with
  | nil => rfl
  | cons u t ih =>
    rw [List.foldl_cons, ih]
    unfold State.relabel
    dsimp only
    split <;> rfl

theorem State.timeLost_eq (s : State) (p : Nat) : s.timeLost p = { s with tstat := (s.timeLost p).tstat } := by
  unfold State.timeLost
  split
  · exact State.foldl_relabel_eq 3 _ s
  · rfl

/-- The link layer of a port that has left UP for `st`. -/
def Port.left (x : Port) (st : Nat) : Port := { x with state := st, replay := [], nak := none, failed := 0, txSeq := 0, rxSeq := 0 }

/-- A port has left UP, before anything becomes of its flits. -/
def State.portLeft (s : State) (p st : Nat) : State := (s.timeLost p).setPort p ((s.port p).left st)

theorem State.portLeft_eq (s : State) (p st : Nat) :
    s.portLeft p st = { s with tstat := (s.portLeft p st).tstat, ports := (s.portLeft p st).ports } := by
  rw [State.portLeft, State.timeLost_eq]
  rfl

@[simp] theorem State.port_portLeft (s : State) (p st : Nat) : (s.portLeft p st).port p = (s.port p).left st := State.port_setPort ..

theorem State.port_portLeft_ne (s : State) {p q : Nat} (st : Nat) (h : q ≠ p) : (s.portLeft p st).port q = s.port q := by
  rw [State.portLeft, State.port_setPort_ne _ _ h, State.timeLost_eq]
  rfl

theorem State.otherPort_ne {s : State} {p q : Nat} (h : s.otherPort p = some q) : q ≠ p := by
  have := List.find?_some h
  simp only [decide_eq_true_eq] at this
  exact this.1

theorem State.portDown_of_other {s : State} {p q : Nat} (h : s.otherPort p = some q) (st : Nat) :
    s.portDown p st = (s.portLeft p st).resendOver q (s.port p).replay := by
  unfold State.portDown
  dsimp only
  rw [h]
  rfl

/-- With no other port, the port's flits have no route; nor have those that wait where no port is UP. -/
theorem State.portDown_of_none {s : State} {p : Nat} (h : s.otherPort p = none) (hc : NoColl s p) (st : Nat) :
    ∃ l w, s.portDown p st = l.foldl State.unrouted { s.portLeft p st with flitWait := w } ∧ (∀ f ∈ l, f.coll = 0) ∧
      (s.flitWait = [] → l = (s.port p).replay) := by
  obtain ⟨hrep, hwait⟩ := hc
  have hw : (s.portLeft p st).flitWait = s.flitWait := by rw [State.portLeft_eq]
  unfold State.portDown
  dsimp only
  rw [h]
  dsimp only
  split
  · exact ⟨_, (s.portLeft p st).flitWait, rfl, hrep, fun _ => rfl⟩
  · refine ⟨(s.port p).replay ++ (s.portLeft p st).flitWait, [], rfl, fun f hf => ?_, fun he => ?_⟩
    · exact (List.mem_append.1 hf).elim (hrep f) fun hf => hwait f (hw ▸ hf)
    · rw [hw, he, List.append_nil]

/-- Without a collective operation's flit, the port that leaves UP has just left it. -/
theorem State.port_portDown {s : State} {p : Nat} (h : NoColl s p) (st : Nat) : (s.portDown p st).port p = (s.port p).left st := by
  cases ho : s.otherPort p with
  | some q => rw [State.portDown_of_other ho, State.port_resendOver_ne _ (State.otherPort_ne ho).symm, State.port_portLeft]
  | none =>
    obtain ⟨l, w, he, hc, -⟩ := State.portDown_of_none ho h st
    rw [he, State.foldl_unrouted_eq _ hc]
    exact s.port_portLeft p st

/-- Without a collective operation's flit, a port that leaves UP changes no register but `FAB.ERR` and `FAB.ERRA`. -/
theorem State.srv_portDown {s : State} {p : Nat} (h : NoColl s p) (st : Nat) {n i : Nat} (h4 : n * 65536 + i ≠ 0x54 * 65536 + 0)
    (h5 : n * 65536 + i ≠ 0x55 * 65536 + 0) : (s.portDown p st).srv n i = s.srv n i := by
  have hleft : (s.portLeft p st).srv n i = s.srv n i := by rw [State.portLeft_eq]; rfl
  cases ho : s.otherPort p with
  | some q =>
    rw [State.portDown_of_other ho, State.resendOver_eq]
    exact hleft
  | none =>
    obtain ⟨l, w, he, hc, -⟩ := State.portDown_of_none ho h st
    rw [he, State.srv_foldl_unrouted _ hc h4 h5]
    exact hleft

end Sys2Proof.Machine

/-! SUPPORT. A free access at a place in the clear (R45, R98, R183, R203): it reads and writes the byte map and touches no race record. -/

namespace Sys2Proof.Machine

open Claims

/-! ### The byte map -/

theorem State.rdN_congr {s t : State} (h : t.mem = s.mem) (loc n : Nat) : t.rdN loc n = s.rdN loc n := by
  induction n generalizing loc with
  | zero => rfl
  | succ n ih => rw [State.rdN, State.rdN, ih, State.rd8, State.rd8, h]

/-- What a store into the byte map leaves. -/
theorem State.storedAt_of_mem {s t : State} (hwf : Memory.wf s.mem = true) {loc n v : Nat} (h : t.mem = (s.wrN loc n v).mem) :
    StoredAt s t loc n (v % 256 ^ n) := by
  refine ⟨(State.rdN_congr h loc n).trans (State.rdN_wrN hwf loc n v), fun x hx => ?_⟩
  rw [← State.rd8_wrN_ne hwf v hx, State.rd8, State.rd8, h]

/-! ### Places in the clear -/

theorem isHbm_space {pa : Nat} (h : isHbm pa = true) : isRemote pa = false ∧ isPool pa = false := by
  simp only [isHbm, isRemote, isPool, decide_eq_true_eq, decide_eq_false_iff_not] at h ⊢
  omega

/-- The bytes of a clear frame are not enciphered. -/
theorem State.enciphered_of_clear {s : State} {pa n : Nat} (h : Clear s pa) (hn : pa % 65536 + n ≤ 65536) :
    ∀ i < n, s.enciphered (pa + i) = false := by
  obtain ⟨-, -, -, hprot, -⟩ := h
  intro i hi
  have hf : (pa + i) / 65536 = pa / 65536 := by omega
  rw [State.enciphered, hf, hprot, Bool.and_false]

theorem State.keyGone_of_clear {s : State} {pa : Nat} (h : Clear s pa) : s.keyGone pa = false := by
  obtain ⟨-, -, -, hprot, -⟩ := h
  rw [State.keyGone, State.enciphered, hprot, Bool.and_false, Bool.false_and]

theorem State.poisoned_of_clear {s : State} {pa : Nat} (h : Clear s pa) : s.poisoned pa = false := by
  have hkey := State.keyGone_of_clear h
  obtain ⟨-, -, -, -, hpoison⟩ := h
  rw [State.poisoned, hkey, hpoison, Bool.and_false, Bool.or_false]

/-- No table is exposed (R68, R180). -/
theorem State.tableByte_of_calm {s : State} (h : Calm s) (pa : Nat) : s.tableByte pa = none := by
  obtain ⟨-, hhot, hpool⟩ := h
  have h1 : s.srf 0xC2 0 47 0 = 0 := by rw [State.srf, hhot]; rfl
  have h2 : s.srf 0x68 0 47 0 = 0 := by rw [State.srf, hpool]; rfl
  unfold State.tableByte
  dsimp only
  rw [h1, h2, if_neg (by simp), if_neg (by simp)]

/-- A read of plain device memory is the byte map's where no table is exposed. -/
theorem State.rdMem_plain {s : State} (hc : Calm s) {loc n : Nat} (h : ∀ i < n, s.enciphered (loc + i) = false) :
    s.rdMem loc n = s.rdN loc n := by
  induction n generalizing loc with
  | zero => rfl
  | succ n ih =>
    have h0 : s.enciphered loc = false := h 0 (by omega)
    rw [State.rdMem, State.rdN, ih fun i hi => by rw [Nat.add_right_comm]; exact h (i + 1) (by omega),
      State.tableByte_of_calm hc]
    simp [State.rdP8, h0]

/-! ### An access there -/

/-- Race detection does not see a free access (R203). -/
theorem State.raceStep_free {s : State} {a : Acc} (h : a.free = true) : s.raceStep a = (s, false) := if_pos (.inl h)

theorem State.repack_eq (s : State) (loc : Nat) (pack : Bool) : s.repack loc pack = { s with packed := (s.repack loc pack).packed } := by
  unfold State.repack
  dsimp only
  split <;> split <;> rfl

theorem State.rewrite_of_clear {s : State} {a : Acc} (h : Clear s a.loc) : s.rewrite a = s := by
  obtain ⟨-, -, -, -, hpoison⟩ := h
  unfold State.rewrite
  dsimp only
  rw [hpoison, if_pos]
  simp

/-- A write at a clear place changes the byte map and the granule's form only. -/
theorem State.putAcc_of_clear {s : State} {a : Acc} (h : Clear s a.loc) (hn : a.loc % 65536 + a.size ≤ 65536) (v : Nat) :
    ∃ l, s.putAcc a v = { s with mem := (s.wrN a.loc a.size v).mem, packed := l } := by
  have hw : s.wrP a.loc a.size v = { s with mem := (s.wrN a.loc a.size v).mem } := by
    rw [State.wrP_plain _ (State.enciphered_of_clear h hn)]
    exact State.wrN_eq ..
  refine ⟨(({ s with mem := (s.wrN a.loc a.size v).mem } : State).repack a.loc a.pack).packed, ?_⟩
  rw [State.putAcc, hw, State.repack_eq]
  exact State.rewrite_of_clear (s := { s with mem := (s.wrN a.loc a.size v).mem, packed := _ }) h

/-- An engine's or a fetch's access to a clear place that is no wait for a full word: its operation, and no clock. -/
theorem State.perform_of_clear {s : State} {a : Acc} (hc : Calm s) (h : Clear s a.loc) (hf : a.free = true) (hq : a.acq = false)
    (hr : a.rel = false) (hk : a.kind = .load ∨ a.kind = .store) : s.perform a = s.homeOp a := by
  have hkey := State.keyGone_of_clear h
  have hpoison := State.poisoned_of_clear h
  obtain ⟨hhbm, -⟩ := h
  obtain ⟨hremote, hpool⟩ := isHbm_space hhbm
  obtain ⟨herr, -⟩ := hc
  have hacq : ∀ u : State, u.acqClock a = u := fun u => if_pos (by simp [hq])
  have hrel : ∀ u : State, u.relClock a = u := fun u => if_pos (by simp [hr])
  have hstf : ∀ u : State, u.serveStf a = u := fun u => if_neg (by rcases hk with hk | hk <;> simp [hk])
  unfold State.perform
  rw [if_neg (by simp [hremote]), if_neg (by simp [hpool]), if_pos hhbm, State.checkRead_of_noErr herr]
  dsimp only
  rw [if_neg (by simp [hkey]), if_neg (by simp [hpoison]), if_neg (by rcases hk with hk | hk <;> simp [hk]), State.raceStep_free hf]
  dsimp only
  rw [hacq, hrel, hstf]

theorem State.perform_load_of_clear {s : State} {a : Acc} (hc : Calm s) (h : Clear s a.loc) (hf : a.free = true)
    (hq : a.acq = false) (hr : a.rel = false) (hk : a.kind = .load) (hn : a.loc % 65536 + a.size ≤ 65536) :
    s.perform a = (s, .value (s.rdN a.loc a.size)) := by
  rw [State.perform_of_clear hc h hf hq hr (.inl hk), State.homeOp, hk]
  dsimp only
  rw [State.rdMem_plain hc (State.enciphered_of_clear h hn)]

theorem State.perform_store_of_clear {s : State} {a : Acc} (hc : Calm s) (h : Clear s a.loc) (hf : a.free = true)
    (hq : a.acq = false) (hr : a.rel = false) (hk : a.kind = .store) (hn : a.loc % 65536 + a.size ≤ 65536) :
    ∃ l, s.perform a = ({ s with mem := (s.wrN a.loc a.size a.data).mem, packed := l }, .done) := by
  obtain ⟨l, hl⟩ := State.putAcc_of_clear h hn a.data
  refine ⟨l, ?_⟩
  rw [State.perform_of_clear hc h hf hq hr (.inr hk), State.homeOp, hk]
  dsimp only
  rw [hl]

end Sys2Proof.Machine

/-! PROOFS. Scale-up ports and inbound remote accesses (R39–R45). -/

namespace Sys2Proof.Machine

open Claims

/-! ### Flits received and replayed (R39) -/

theorem flitSeq_eq (f : Nat) : flitSeq f = f % 4096 := by simp [flitSeq, bits]

theorem flitAck_eq (f : Nat) : flitAck f = f / 4096 % 4096 := by simp [flitAck, bits]

/-- Where no flit waits, room for one changes nothing. -/
theorem State.sendFlits_nil {s : State} (h : s.flitWait = []) : s.sendFlits [] = s := by
  rw [State.sendFlits, h]
  show { s with flitWait := [] } = s
  rw [← h]

/-- A flit in its sequence is delivered, where no flit waits for room. -/
theorem State.flitReceive_good {s : State} {p f : Nat} (hs : (s.port p).state = 2) (hr : s.relocking ≠ some (portSocket p))
    (ho : flitOk f = true) (hq : f % 4096 = (s.port p).rxSeq) (hw : s.flitWait = []) :
    (s.flitReceive p f).port p = { ((s.port p).acked (flitAck f)) with rxSeq := ((s.port p).rxSeq + 1) % 4096 } ∧
      (s.flitReceive p f).out = s.out ∧ (s.flitReceive p f).delivered = s.delivered ++ [(p, f)] := by
  unfold State.flitReceive
  dsimp only
  rw [if_neg (by simp [hs, hr]), if_neg (by simp [ho, flitSeq_eq, hq]), State.sendFlits_nil (by exact hw)]
  exact ⟨State.port_setPort .., rfl, rfl⟩

/-- Any other flit is negatively acknowledged. -/
theorem State.flitReceive_bad {s : State} {p f : Nat} (hs : (s.port p).state = 2) (hr : s.relocking ≠ some (portSocket p))
    (h : flitOk f = false ∨ f % 4096 ≠ (s.port p).rxSeq) : s.flitReceive p f = { s with out := s.out ++ [.nak p (s.port p).rxSeq] } := by
  unfold State.flitReceive
  dsimp only
  rw [if_neg (by simp [hs, hr]), if_pos (by simpa [flitSeq_eq] using h)]

theorem Port.mem_acked {x : Port} {a : Nat} {r : Sent} :
    r ∈ (x.acked a).replay ↔ r ∈ x.replay ∧ 2048 ≤ (a + 4096 - r.seq) % 4096 := by
  simp [Port.acked]

/-- The ninth failure in a row of one flit takes the port DOWN (log 45). -/
theorem State.flitReplay_ninth {s : State} {p q : Nat} (hs : (s.port p).state = 2) (hr : ∃ r ∈ (s.port p).replay, r.seq = q)
    (hn : (s.port p).nak = some q) (hf : 8 ≤ (s.port p).failed) : s.flitReplay p q = s.portDown p 0 := by
  unfold State.flitReplay
  dsimp only
  rw [if_neg (by simpa [hs] using hr), if_pos ⟨hn, hf⟩]

/-- Any other negative acknowledgement has the flits from the named one on replayed. -/
theorem State.flitReplay_replays {s : State} {p q : Nat} (hs : (s.port p).state = 2) (hr : ∃ r ∈ (s.port p).replay, r.seq = q)
    (hn : ¬ ((s.port p).nak = some q ∧ 8 ≤ (s.port p).failed)) {fs : List Sent}
    (hfs : fs = (s.port p).replay.filter fun r => decide ((r.seq + 4096 - q) % 4096 < 2048)) :
    (s.flitReplay p q).out = s.out ++ fs.map (fun r => .flit p r.flit) ∧
      (s.flitReplay p q).port p = { s.port p with
        retries := ((s.port p).retries + fs.length) % 2 ^ 32, nak := some q
        failed := if (s.port p).nak = some q then (s.port p).failed + 1 else 1 } := by
  unfold State.flitReplay
  dsimp only
  rw [if_neg (by simpa [hs] using hr), if_neg hn, ← hfs]
  exact ⟨rfl, State.port_setPort ..⟩

/-! ### Port states (R40–R43) -/

/-- The flits of a port that leaves UP go over the other port as far as it has room (R40). -/
theorem State.portDown_resends {s : State} {p q : Nat} (ho : s.otherPort p = some q) (hr : s.relocking ≠ some (portSocket q))
    (st : Nat) :
    ((s.portDown p st).port q).replay.length + (s.portDown p st).flitWait.length =
        (s.port q).replay.length + (s.port p).replay.length + s.flitWait.length ∧
      ((s.portDown p st).port q).replay.length ≤ max 256 (s.port q).replay.length ∧
      ((s.port q).replay.length + (s.port p).replay.length ≤ 256 → (s.portDown p st).flitWait = s.flitWait) := by
  have hport : (s.portLeft p st).port q = s.port q := s.port_portLeft_ne st (State.otherPort_ne ho)
  have hwait : (s.portLeft p st).flitWait = s.flitWait := by rw [State.portLeft_eq]
  have hrel : (s.portLeft p st).relocking ≠ some (portSocket q) := by rw [State.portLeft_eq]; exact hr
  rw [State.portDown_of_other ho, State.length_resendOver, ← hport, ← hwait]
  exact ⟨rfl, State.replay_resendOver_le .., State.flitWait_resendOver hrel _⟩

/-- The one flit of a port that leaves UP with no other port has no route (R40). -/
theorem State.portDown_unrouted {s : State} {p : Nat} {f : Sent} (h : NoColl s p) (ho : s.otherPort p = none)
    (hf : (s.port p).replay = [f]) (hw : s.flitWait = []) (st : Nat) :
    ∃ w, s.portDown p st = (({ s.portLeft p st with flitWait := w } : State).storeDropped f.addr).answerLost f.acc := by
  obtain ⟨l, w, he, hc, hl⟩ := State.portDown_of_none ho h st
  rw [hl hw, hf] at he
  rw [hl hw, hf] at hc
  exact ⟨w, he.trans (State.unrouted_of_noColl _ (hc f List.mem_cons_self))⟩

theorem State.portDown_store {s : State} {p a : Nat} {f : Sent} (h : NoColl s p) (ho : s.otherPort p = none)
    (hf : (s.port p).replay = [f]) (hw : s.flitWait = []) (ha : f.addr = some a) (h0 : s.srv 0x54 0 = 0) (st : Nat) :
    (s.portDown p st).srv 0x54 0 = 1 ∧ (s.portDown p st).srv 0x55 0 = BitVec.ofNat 64 a := by
  obtain ⟨w, he⟩ := State.portDown_unrouted h ho hf hw st
  rw [he, State.answerLost_eq, ha]
  refine State.countDrop_first (s := { s.portLeft p st with flitWait := w }) (by decide) a ?_
  rw [State.portLeft_eq]
  exact h0

theorem State.portDown_load {s : State} {p : Nat} {f : Sent} {a : Acc} (h : NoColl s p) (ho : s.otherPort p = none)
    (hf : (s.port p).replay = [f]) (hw : s.flitWait = []) (hn : f.addr = none) (hi : f.acc ≠ 0) (ha : s.acc? f.acc = some a)
    (hg : a.gone = true) (st : Nat) :
    (s.portDown p st).acc? f.acc = none ∧ ∀ e ∈ ((s.portDown p st).thr a.h a.slot).pend, e.id = a.ent →
      e.fault.isSome = true ∧ ((∀ e0 ∈ (s.thr a.h a.slot).pend, e0.fault = none) → e.fault = some (.kernel fPOISON a.va)) := by
  obtain ⟨w, he⟩ := State.portDown_unrouted h ho hf hw st
  rw [hn, State.portLeft_eq] at he
  rw [he]
  exact State.answerLost_poison (s := { s with tstat := _, ports := _, flitWait := w }) hi ha hg

theorem State.trainingDone_up {s : State} {p peer : Nat} (pp : Nat) (hp : p < 64) (hs : (s.port p).state = 1)
    (hn : peer % 2 ^ 19 ≠ s.srf 0x50 0 18 0) : ((s.trainingDone p peer pp).port p).state = 2 ∧
      ((s.trainingDone p peer pp).port p).peer = peer % 2 ^ 19 ∧ ((s.trainingDone p peer pp).port p).peerPort = pp % 64 ∧
      ((s.trainingDone p peer pp).port p).retries = 0 := by
  unfold State.trainingDone
  dsimp only
  rw [if_neg (by omega), State.sendFlits]
  obtain ⟨n, l, hport⟩ := State.port_flushFlits (s.setPort p { s.port p with
    state := 2, retries := 0, peer := peer % 2 ^ 19, peerPort := pp % 64 }) (s.flitWait ++ []) p
  rw [State.port_setPort] at hport
  rw [show (State.setPort s p _).flitWait = s.flitWait from rfl, hport]
  exact ⟨rfl, rfl, rfl, rfl⟩

theorem State.trainingDone_same {s : State} {p peer : Nat} (pp : Nat) (h : peer % 2 ^ 19 = s.srf 0x50 0 18 0) :
    s.trainingDone p peer pp = s := if_pos (.inr (.inr h))

theorem State.portEnable_eq {s : State} {p : Nat} (hp : p < 64) : (s.portEnable p).srv 0x56 p = 1 ∧
    ((s.portEnable p).port p).state = if (s.port p).state = 3 then 1 else (s.port p).state := by
  unfold State.portEnable
  dsimp only
  rw [if_neg (by omega)]
  split
  · exact ⟨State.srv_setSr .., congrArg Port.state (State.port_setPort ..)⟩
  · exact ⟨State.srv_setSr .., rfl⟩

theorem State.portDisable_eq {s : State} {p : Nat} (hp : p < 64) (h : NoColl s p) : (s.portDisable p).srv 0x56 p = 0 ∧
    ((s.portDisable p).port p).state = 3 ∧ ((s.portDisable p).port p).replay = [] := by
  have hn : NoColl (s.setSr 0x56 p 0) p := h
  unfold State.portDisable
  rw [if_neg (by omega), State.port_portDown hn, State.srv_portDown hn 3 (by omega) (by omega)]
  exact ⟨State.srv_setSr .., rfl, rfl⟩

theorem State.nodeWrite_srv (s : State) (v : Word) :
    (s.nodeWrite v).srv 0x50 0 = if ∀ q ∈ s.ports, q.2.state = 3 then v &&& 0x7FFFF else s.srv 0x50 0 := by
  unfold State.nodeWrite
  by_cases h : ∀ q ∈ s.ports, q.2.state = 3
  · rw [if_pos (s.portsOff_iff.2 h), if_pos h, State.srv_setSr]
  · rw [if_neg (mt s.portsOff_iff.1 h), if_neg h]

/-! ### Inbound remote accesses (R45) -/

/-- An access that fails the frame record's check is refused. -/
theorem State.inbound_refused {s : State} {t pa op n data port : Nat} (hm : s.moving pa = false) (hh : s.homeRuns pa = true)
    (hr : s.relocking ≠ some (portSocket port)) (h : ¬ (isHbm pa = true ∧ Admits (s.frame (pa / 65536)) t)) :
    s.inbound t pa op n data port = { s with out := s.out ++ [.remote [2]] } := by
  unfold State.inbound
  dsimp only
  rw [if_neg (by simp [hm, hh, hr]), if_pos (Decidable.byContradiction fun hc => ?_)]
  simp only [not_or, Decidable.not_not, Bool.not_eq_false] at hc
  obtain ⟨hhbm, ho, hst, hex, ht⟩ := hc
  exact h ⟨hhbm, ho, by omega, hex, ht⟩

/-- The access that an inbound request makes at its home. -/
def inboundAcc (t pa op n data : Nat) : Acc :=
  { tenant := t, loc := pa, size := n, kind := inboundKind op, free := true, strong := true, data := data % 256 ^ n
    data2 := data / 256 ^ n }

/-- The answer to an inbound request whose access came to `r`. -/
def inboundSays (r : State × HRes) : State :=
  { r.1 with out := r.1.out ++ [.remote (match r.2 with | .value v => [0, v] | .fault _ => [4] | _ => [1])] }

/-- An access that passes it is performed at its home. -/
theorem State.inbound_passed {s : State} {t pa op n data port : Nat} (hc : Clear s pa) (ha : Admits (s.frame (pa / 65536)) t)
    (hr : s.relocking ≠ some (portSocket port)) :
    s.inbound t pa op n data port = inboundSays (s.perform (inboundAcc t pa op n data)) := by
  obtain ⟨hhbm, hm, hh, -, -⟩ := hc
  obtain ⟨ho, hst, hex, ht⟩ := ha
  unfold State.inbound
  dsimp only
  rw [if_neg (by simp [hm, hh, hr]), if_neg (by simp [hhbm, ho, hst, hex, ht]), inboundAcc]
  generalize s.perform _ = r
  obtain ⟨s1, r⟩ := r
  cases r <;> rfl

theorem State.inbound_load {s : State} {t pa op n port : Nat} (data : Nat) (ho : op = 0) (hq : Calm s) (hc : Clear s pa)
    (ha : Admits (s.frame (pa / 65536)) t) (hn : pa % 65536 + n ≤ 65536) (hr : s.relocking ≠ some (portSocket port)) :
    s.inbound t pa op n data port = { s with out := s.out ++ [.remote [0, s.rdN pa n]] } := by
  rw [State.inbound_passed hc ha hr, ho, State.perform_load_of_clear hq hc rfl rfl rfl rfl hn]
  rfl

theorem State.inbound_store {s : State} {t pa op n port : Nat} (data : Nat) (ho : op = 1) (hq : Calm s) (hc : Clear s pa)
    (ha : Admits (s.frame (pa / 65536)) t) (hn : pa % 65536 + n ≤ 65536) (hr : s.relocking ≠ some (portSocket port)) :
    ∃ l, s.inbound t pa op n data port = { s with
      mem := (s.wrN pa n (data % 256 ^ n)).mem, packed := l, out := s.out ++ [.remote [1]] } := by
  obtain ⟨l, hl⟩ := State.perform_store_of_clear (a := inboundAcc t pa 1 n data) hq hc rfl rfl rfl rfl hn
  exact ⟨l, by rw [State.inbound_passed hc ha hr, ho, hl]; rfl⟩

end Sys2Proof.Machine

namespace Sys2Proof

open Machine Claims

/-- Settles O48, event by event. -/
theorem linkEvents : Obligations.LinkEvents := by
  unfold Obligations.LinkEvents
  rintro s p rfl
  refine ⟨?receive, ?replay, ?down, ?trained, ?sameNode, ?enable, ?disable, ?retrain, ⟨_, rfl, s.nodeWrite_srv _⟩, ?refused,
    ?passed⟩
  case receive =>
    rintro f rfl hs hr
    refine ⟨fun ho hq hw => ?_, fun h => ⟨_, congrArg Host.Outcome.next (State.flitReceive_bad hs hr h), rfl⟩⟩
    obtain ⟨hport, hout, hdel⟩ := State.flitReceive_good hs hr ho hq hw
    refine ⟨_, rfl, congrArg Port.rxSeq hport, hout, hdel, fun r => ?_⟩
    rw [← flitAck_eq, ← Port.mem_acked]
    exact Iff.of_eq ((congrArg (r ∈ Port.replay ·) hport).trans rfl)
  case replay =>
    intro fs hfs hs hr
    refine ⟨fun hn => ?_, fun hn hf hc => ?_⟩
    · obtain ⟨hout, hport⟩ := State.flitReplay_replays hs hr hn hfs
      refine ⟨_, rfl, hout, congrArg Port.retries hport, ?_, ?_⟩
      · exact (congrArg Port.replay hport).trans rfl
      · exact (congrArg Port.state hport).trans hs
    · exact ⟨_, congrArg Host.Outcome.next (State.flitReplay_ninth hs hr hn hf), congrArg Port.state (State.port_portDown hc 0)⟩
  case down =>
    intro hs hc
    have hport := State.port_portDown hc 0
    exact ⟨_, congrArg Host.Outcome.next (if_pos hs), congrArg Port.state hport, congrArg Port.replay hport,
      fun q ho hr => State.portDown_resends ho hr 0, fun f a ho hf hw ha h0 => State.portDown_store hc ho hf hw ha h0 0,
      fun f a ho hf hw hn hi ha hg => State.portDown_load hc ho hf hw hn hi ha hg 0⟩
  case trained => exact fun hp hs hn => ⟨_, rfl, State.trainingDone_up _ hp hs hn⟩
  case sameNode => exact fun h => congrArg Host.Outcome.next (State.trainingDone_same _ h)
  case enable => exact fun hp => ⟨_, rfl, State.portEnable_eq hp⟩
  case disable => exact fun hp hc => ⟨_, rfl, State.portDisable_eq hp hc⟩
  case retrain => exact fun hs he => ⟨_, congrArg Host.Outcome.next (if_pos ⟨hs, he⟩), congrArg Port.state (State.port_setPort ..)⟩
  case refused => exact fun hm hh hr h => ⟨_, congrArg Host.Outcome.next (State.inbound_refused hm hh hr h), rfl⟩
  case passed =>
    intro hq hc ha hn hr
    refine ⟨fun h2 => ?_, fun h2 hwf => ?_⟩
    · exact ⟨_, congrArg Host.Outcome.next (State.inbound_load (s.param 4) h2 hq hc ha hn hr), rfl, rfl, rfl⟩
    · obtain ⟨l, hl⟩ := State.inbound_store (s.param 4) h2 hq hc ha hn hr
      rw [← Nat.mod_mod]
      exact ⟨_, congrArg Host.Outcome.next hl, rfl, rfl, State.storedAt_of_mem hwf rfl⟩

end Sys2Proof

/-! PROOFS. Collectives (R46–R54): where STATUS is not aligned. -/

namespace Sys2Proof

open Machine Claims

/-- A PUT of tenant 1 is open whose slot is not aligned to the 64 bytes of a descriptor (R46, R47 place every slot so). Its
STATUS lies at 0x5FFF9: seven bytes in frame 5, in the clear, and the last in frame 6, which is protected. -/
def straddling : State :=
  { State.reset with
    params := [3, 1]
    colls := [{ id := 3, tenant := 1, put := true, slotVa := 65481 }]
    xls := [{ abut := 16, tenant := 1, lo := 0, size := 65536, pa := 0x50000, rd := true, w := true }]
    frames := [(6, { prot := true })] }

/-- The engine of tenant 1 finds the first byte of STATUS in the clear. -/
theorem engSees_straddling : EngSees straddling (engDie 1) 0 1 65529 0x5FFF9 := by
  refine ⟨?_, by decide, by decide, by decide, _, rfl, by decide, rfl, rfl⟩
  unfold Clear
  decide

/-- The last byte of STATUS is stored enciphered (R98), so that memory does not hold the status 1 that was written. -/
theorem status_straddling : (straddling.putDone 3 1).rdN 0x5FFF9 8 ≠ 1 := by decide +kernel

/-- Refutes O49: the clause on a PUT's completion has STATUS read back from the byte map, but asks that only its first byte
lies in the clear and not that the slot is aligned. In `straddling` its last byte lies in a protected frame. -/
theorem not_engineEvents : ¬ Obligations.EngineEvents := by
  unfold Obligations.EngineEvents
  intro h
  obtain ⟨-, -, -, -, -, -, -, -, -, -, hput, -⟩ := h straddling 3 rfl
  obtain ⟨t, ht, -, hstatus, -⟩ := hput { id := 3, tenant := 1, put := true, slotVa := 65481 } 0x5FFF9 rfl (.inr (.inl rfl)) rfl
    ⟨rfl, rfl, rfl⟩ rfl engSees_straddling
  obtain rfl : straddling.putDone 3 1 = t := Host.Outcome.next.inj ht
  exact status_straddling hstatus

end Sys2Proof
